-- ==== Sys2Proof/Word.lean ====
section
/-! DEFINITION. The machine's few word types: bytes of a frame, the 32-bit counts that wrap, and the texts
(tags, lot ids, recipe names). Every other quantity of the manual is an integer (`Nat` or `Int`): "All quantities
are integers" (00_scope.md, Conventions). -/

namespace Sys2Proof

/-- One byte of a station link frame. -/
abbrev Byte := BitVec 8

/-- A 32-bit count that wraps: line seconds (R177) and the notice serial (R169). -/
abbrev Seconds := BitVec 32

/-- A tag, lot id or recipe name as the characters' codes, one byte each (R2, R46, R162). -/
abbrev Text := List Byte

/-- A point of the machine frame, in 0.1 mm (00_scope.md, Conventions). -/
structure Point where
  x : Int
  y : Int
  z : Int
  deriving DecidableEq, Repr

end Sys2Proof
end

