-- ==== Sys2Proof/Config.lean ====
section
/-! DEFINITION. What the part fixes once: capacities and table sizes, and the limits of its quantities. The spec leaves
no value of the machine to the implementation, so there is no free value here; what the spec leaves open are
orders and encodings, named in the assumption log. -/

namespace Sys2Proof.Config

/-- Traveler records (R1). -/
def travelerCount : Nat := 48

/-- The infeed queue's occupancy never exceeds this (R5). -/
def queueCapacity : Nat := 4

/-- Recipe slots (R24). -/
def recipeCount : Nat := 8

/-- Cure profile slots (R39). -/
def profileCount : Nat := 4

/-- Capacities of a recipe's three lists (R27). -/
def windowCapacity : Nat := 16
def siteCapacity : Nat := 12
def strokeCapacity : Nat := 96

/-- Lot records (R45). -/
def lotCount : Nat := 4

/-- The flash list's count is at most this (R110). -/
def flashCapacity : Nat := 4

/-- Boards the oven holds at most (R114). -/
def ovenCapacity : Nat := 20

/-- The exit count is at most this (R133). -/
def exitCapacity : Nat := 2

/-- Shelf slots (R155). -/
def shelfCount : Nat := 16

/-- Notices a link's queue holds (R170). -/
def noticeCapacity : Nat := 32

/-- Answers a link's answer list holds, counting the place held by a request in service (R165). -/
def answerCapacity : Nat := 8

/-- Bytes of the largest frame body (frame table of 11.1). -/
def bodyCapacity : Nat := 2048

/-- Least and greatest value of a frame's length field (R163). -/
def lengthMin : Nat := 3
def lengthMax : Nat := 2051

/-- Travelers a ListTravelers answer lists (R22) and records a GetRecipe answer lists (R38). -/
def listTravelersMax : Nat := 12
def recordsMax : Nat := 8

/-- Bounds of the belt drive's speed, in mm/min (R113). -/
def beltMin : Nat := 10
def beltMax : Nat := 2000

/-- Millivolts per mm/min on the oven speed setpoint output (R180). -/
def millivoltsPerSpeed : Nat := 5

/-- The doses saturate here (R130). -/
def doseMax : Nat := 4294967295

/-- A hold's occurrence count stays here once reached (R148). -/
def occurrenceMax : Nat := 65535

/-- Consecutive invalid samples that fail a zone, consecutive valid ones that restore it (R125). -/
def zoneFailRun : Nat := 20
def zoneRestoreRun : Nat := 4

/-- Consecutive millisecond ticks that change a debounced reading or release the E-stop (R179, R181). -/
def debounceTicks : Nat := 20

/-- Milliseconds that may pass between two bytes of a frame (R163). -/
def interByteLimit : Nat := 50

/-- Millisecond ticks between sampling rounds (R124), between blink phases (R178) and in a second (R177). -/
def samplePeriod : Nat := 250
def blinkPeriod : Nat := 500
def secondPeriod : Nat := 1000

/-- The debounced sensors of the line, and those together with the shelf slots' (R179). -/
def lineSensorCount : Nat := 8
def sensorCount : Nat := 24

end Sys2Proof.Config
end

