-- ==== Sys2Proof/Syntax.lean ====
section
/-! DEFINITION. The commands: one constructor of `Instr` per row of spec/opcode_table.json, with the operands the row
carries. A request row carries its frame's head (`Req`) and the fields of its body in the order its rule lists
them; a field that is a word of the manual is the word's raw code, because a code outside the word's list is the
owner's INVALID (R164) and must be sayable. An event row carries what names the event (a traveler, a record, a
station, a sensor, a fault code, the signals of a sampling round, the strap pins). -/

namespace Sys2Proof

/-- The three station links. -/
inductive Link where
  | a | b | c
  deriving DecidableEq, Repr

/-- The two inspection stations (R55). -/
inductive Station where
  | pre | post
  deriving DecidableEq, Repr

/-- The debounced station sensors (R179): eight of the line and one per shelf slot. -/
inductive Sensor where
  | queueHead | preArrival | cellArrival | flashEntry | flashEnd | accumulatorHead | postArrival | outfeedExit
  | shelf (slot : Nat)
  deriving DecidableEq, Repr

/-- The head of a completed request frame (R162, R164): the link it came on, its level field, its correlation
value, and whether it was completed while an earlier request of the same link was in service (R165). How long a
request stays in service is timing the manual does not give, so the frame itself says it (DESIGN CHOICE, log 7). -/
structure Req where
  link     : Link
  level    : Nat
  corr     : Byte
  overlaps : Bool
  deriving DecidableEq, Repr

/-- A recipe header (02_recipes_and_cure_profiles.md, header table). -/
structure Header where
  name     : Text
  revision : Nat
  length   : Nat
  width    : Nat
  kind     : Nat
  flashMin : Nat
  flashMax : Nat
  dwellMin : Nat
  dwellMax : Nat
  profile  : Nat
  deriving DecidableEq, Repr

/-- A window record (window table). -/
structure Window where
  x0        : Int
  y0        : Int
  x1        : Int
  y1        : Int
  thickness : Nat
  tolerance : Nat
  mask      : Nat
  deriving DecidableEq, Repr

/-- A mask site record as a PutSites request carries it: kind and policy are word codes. -/
structure SiteFields where
  kind   : Nat
  policy : Nat
  x      : Int
  y      : Int
  deriving DecidableEq, Repr

/-- A stroke record as a PutStrokes request carries it: serpentine and valve are word codes. -/
structure StrokeFields where
  head       : Nat
  window     : Nat
  startX     : Int
  startY     : Int
  endX       : Int
  endY       : Int
  height     : Nat
  passes     : Nat
  stepX      : Int
  stepY      : Int
  serpentine : Nat
  valve      : Nat
  deriving DecidableEq, Repr

/-- A cure profile (profile table); `weights` holds bands 0 to 15. -/
structure Profile where
  base     : Nat
  weights  : List Nat
  required : Nat
  passMax  : Nat
  lifeMax  : Nat
  deriving DecidableEq, Repr

/-- A head's configuration (head table). -/
structure HeadConfig where
  flow    : Nat
  fan     : Nat
  height  : Nat
  zMin    : Nat
  zMax    : Nat
  fanMin  : Nat
  fanMax  : Nat
  vMin    : Nat
  vMax    : Nat
  transit : Nat
  deriving DecidableEq, Repr

/-- The fields of a MountLot request after the head (R46): charge and low threshold in µL, age, pot life in min. -/
structure LotFields where
  id       : Text
  kind     : Nat
  charge   : Nat
  age      : Nat
  potLife  : Nat
  derate   : Nat
  lowLimit : Nat
  deriving DecidableEq, Repr

/-- The gantry limits configuration (R97). -/
structure GantryLimits where
  xMin      : Int
  xMax      : Int
  yMin      : Int
  yMax      : Int
  zMin      : Int
  zMax      : Int
  origin    : Point
  park      : Point
  parkSpeed : Nat
  deriving DecidableEq, Repr

/-- The six timeouts and limits of SetTimeouts (R184). -/
structure Timeouts where
  transfer : Nat
  pre      : Nat
  post     : Nat
  margin   : Nat
  fiducial : Nat
  reload   : Nat
  deriving DecidableEq, Repr

/-- The disposition field of Dispose (R157); `other` is a word code that is none of the five. -/
inductive DispositionField where
  | redoFull
  | touchUp (first last : Nat)
  | reCure
  | accept
  | scrap
  | other (code : Nat)
  deriving DecidableEq, Repr

/-- Why a frame is discarded without an answer (R163, R165). -/
inductive DiscardCause where
  | badLength | badCrc | answerListFull
  deriving DecidableEq, Repr

/-- The strap pins as they read at the end of a reset (R183): `true` is an open pin, which reads 1. -/
structure StrapPins where
  lva1 : Bool
  lva0 : Bool
  lvb1 : Bool
  lvb0 : Bool
  lvc1 : Bool
  lvc0 : Bool
  hds  : Bool
  zns1 : Bool
  zns0 : Bool
  deriving DecidableEq, Repr

/-- The signals the temperature port delivers for one channel of a sampling round (R124): the answer mark, the
frame-check mark, the fault mark and the reading in °C, with its fraction (log 20). -/
structure ChannelSignals where
  answered : Bool
  checked  : Bool
  faulted  : Bool
  reading  : Rat
  deriving DecidableEq, Repr

/-- The commands of the block, one constructor per row of spec/opcode_table.json. -/
inductive Instr where
  -- traveler table
  | induct (q : Req) (tag : Text) (slot : Nat)
  | start (q : Req)
  | drain (q : Req)
  | halt (q : Req)
  | recover (q : Req)
  | clearLine (q : Req)
  | getLine (q : Req)
  | getTraveler (q : Req) (tag : Text)
  | listTravelers (q : Req) (stage first : Nat)
  -- recipe store
  | openRecipe (q : Req) (slot : Nat) (header : Header)
  | putWindows (q : Req) (slot : Nat) (records : List Window)
  | putSites (q : Req) (slot : Nat) (records : List SiteFields)
  | putStrokes (q : Req) (slot : Nat) (records : List StrokeFields)
  | finishRecipe (q : Req) (slot : Nat)
  | dropRecipe (q : Req) (slot : Nat)
  | getRecipe (q : Req) (slot part first : Nat)
  | getRecipeProfile (q : Req) (index first : Nat)
  | putCureProfile (q : Req) (index : Nat) (profile : Profile)
  | dropCureProfile (q : Req) (index : Nat)
  -- lot table
  | setHead (q : Req) (head : Nat) (config : HeadConfig)
  | mountLot (q : Req) (head : Nat) (lot : LotFields)
  | unmountLot (q : Req) (head : Nat)
  | getLot (q : Req)
  -- mask verification unit
  | claim (q : Req) (tag : Text) (station : Nat)
  | unclaim (q : Req) (tag : Text)
  | postFiducials (q : Req) (tag : Text) (found : Nat) (dx dy : Int)
  | postSite (q : Req) (tag : Text) (site verdict : Nat)
  | postCoverage (q : Req) (tag : Text) (window verdict : Nat)
  | complete (q : Req) (tag : Text)
  -- stroke engine, cure monitor
  | setGantryLimits (q : Req) (limits : GantryLimits)
  | setOvenGeometry (q : Req) (length : Nat) (bounds : List Nat) (gap : Nat)
  | setOvenSpeed (q : Req) (speed : Nat)
  | getOven (q : Req)
  -- hold manager
  | setReleaseLevel (q : Req) (reason level : Nat)
  | placeHold (q : Req) (tag : Text) (note : Nat)
  | releaseHold (q : Req) (tag : Text) (reason : Nat)
  | releaseHoldAll (q : Req) (tag : Text)
  | dispose (q : Req) (tag : Text) (disposition : DispositionField)
  -- link interface, line I/O
  | subscribe (q : Req) (mode : Nat) (classes : List Nat)
  | take (q : Req) (count : Nat)
  | peek (q : Req)
  | setTrigger (q : Req) (level : Nat)
  | restart (q : Req)
  | getConfig (q : Req)
  | setTimeouts (q : Req) (timeouts : Timeouts)
  -- frames that are no request
  | badFrame (q : Req) (code : Nat)
  | frameDiscarded (link : Link) (cause : DiscardCause)
  | interByteTimeout (link : Link)
  -- resets, time base, inputs
  | powerOnReset (pins : StrapPins)
  | resetPin (pins : StrapPins)
  | secondTick
  | lotExpiry (record : Nat)
  | flashOverdue (traveler : Nat)
  | samplingRound (channels : List ChannelSignals)
  | blinkToggle
  | beltAdvance
  | sensorChange (sensor : Sensor) (occupied : Bool)
  -- transfers and timers
  | transferEnd (traveler : Nat)
  | transferTimerExpiry (traveler : Nat)
  | inspectionTimerExpiry (station : Station)
  | valveTimerExpiry
  -- gantry port
  | gantryPortTimeout
  | arrived
  | passDone
  | stopped
  | gantryFault (code : Nat)
  -- E-stop input
  | estopAssertion
  | estopTaken
  | estopRelease
  -- moves the part takes of its own accord
  | queueRelease
  | preDiverterDecision
  | programStart
  | flashTransferStart
  | ovenAdmission
  | ovenExitMove
  | exitTransferStart
  | exitDiverterDecision
  | drainComplete
  -- link reception and answers
  | startMarkReceived (link : Link)
  | answerSent (link : Link)
  deriving DecidableEq, Repr

end Sys2Proof
end

