-- ==== Sys2Proof/Machine/State.lean ====
section
/-! DEFINITION. The block's state as plain data: the records of its nine blocks as the manual gives them, the inputs it
reads, and the queue of commands that wait; its fault and refusal types; and `State.reset`. -/

namespace Sys2Proof.Machine

/-! ### Words of the manual -/

/-- Line mode (R7). -/
inductive LineMode where
  | idle | run | drain | halt
  deriving DecidableEq, Repr

/-- Halt cause (R7); none in every mode but HALT. -/
inductive HaltCause where
  | estop | request | jam | gantry
  deriving DecidableEq, Repr

/-- Halt detail (R7): the requesting link, or the board whose transfer expired. -/
inductive HaltDetail where
  | link (l : Link)
  | board (tag : Text) (traveler : Nat)
  deriving DecidableEq, Repr

/-- A traveler's stage (R3). -/
inductive Stage where
  | queued | preInspect | spray | flash | cure | ovenExit | postInspect | shelved
  deriving DecidableEq, Repr

/-- A traveler's place state (R3). -/
inductive PlaceState where
  | arriving | present
  deriving DecidableEq, Repr

/-- A traveler's route (1.1). -/
inductive Route where
  | full
  | touchUp (first last : Nat)
  | reCure
  deriving DecidableEq, Repr

/-- Why a traveler is retired (R19). -/
inductive RetireOutcome where
  | departed | accepted | scrapped | lost | cleared
  deriving DecidableEq, Repr

/-- A posted fiducial offset (R63); absent until posted. -/
inductive Fiducial where
  | offset (dx dy : Int)
  | notFound
  deriving DecidableEq, Repr

/-- Verdict of a mask site (R64). -/
inductive SiteVerdict where
  | unchecked | present | absent | damaged | notFitted
  deriving DecidableEq, Repr

/-- Coverage verdict of a window (R138). -/
inductive CoverageVerdict where
  | unchecked | covered | void | splash
  deriving DecidableEq, Repr

/-- Program state of a traveler (1.1). -/
inductive ProgramState where
  | notStarted | running | done | aborted
  deriving DecidableEq, Repr

/-- Cause of a stroke fault (R86). -/
inductive StrokeFaultCause where
  | head | travel
  | gantry (code : Nat)
  deriving DecidableEq, Repr

/-- The fourteen hold reasons, in the order of the reason table (10.1). -/
inductive HoldReason where
  | maskMissing | fiducial | inspectTimeout | strokeFault | coatDeviation | partialCoat | sprayInterrupted
  | material | flashOverdue | underCure | overCure | cureUnverified | coverage | operator
  deriving DecidableEq, Repr

/-- Who raised a hold (R148). -/
inductive Raiser where
  | maskVerification | strokeEngine | cureMonitor
  | link (l : Link)
  deriving DecidableEq, Repr

/-- Why a fiducial offset failed (R65). -/
inductive FiducialCause where
  | notPosted | notFound | limit
  deriving DecidableEq, Repr

/-- Deviation verdict of a stroke (R104). -/
inductive Deviation where
  | thin | nominal | heavy
  deriving DecidableEq, Repr

/-- Clamp mark of a stroke's head speed (R102). -/
inductive ClampMark where
  | clampedLow | clampedHigh | unclamped
  deriving DecidableEq, Repr

/-- Why a material check failed (R83). -/
inductive MaterialCause where
  | noLot | expired | kind | volume
  deriving DecidableEq, Repr

/-- The dose bound an over-cured board exceeded (R131). -/
inductive DoseBound where
  | pass | life
  deriving DecidableEq, Repr

/-- Why a cure is unverified (R117, R129). -/
inductive UnverifiedCause where
  | profile | dwell
  | zone (zone : Nat)
  deriving DecidableEq, Repr

/-- The detail of a hold, in the form of the reason table (10.1). -/
inductive HoldDetail where
  | site (site : Nat)
  | fiducial (cause : FiducialCause)
  | station (station : Station)
  | strokeFault (stroke pass : Nat) (cause : StrokeFaultCause)
  | deviation (stroke : Nat) (verdict : Deviation) (mark : ClampMark)
  | cursors (stroke pass : Nat)
  | material (cause : MaterialCause)
  | flashTime (seconds : Nat)
  | underCure (passDose required : Nat)
  | overCure (bound : DoseBound) (passDose lifeDose : Nat)
  | unverified (cause : UnverifiedCause)
  | coverage (window : Nat) (verdict : CoverageVerdict)
  | note (code : Nat)
  deriving DecidableEq, Repr

/-- State of a hold record (R148). -/
inductive HoldState where
  | isOpen | released
  deriving DecidableEq, Repr

/-- A place of the line that a transfer joins (R15). -/
inductive Place where
  | queue | preStation | cell | flashBelt | accumulator | postStation | outfeed
  | shelf (slot : Nat)
  deriving DecidableEq, Repr

/-- State of a recipe slot (R24). -/
inductive SlotState where
  | empty | loading | ready
  deriving DecidableEq, Repr

/-- Kind and policy of a mask site (2.2). -/
inductive MaskKind where
  | boot | tape | liquid
  deriving DecidableEq, Repr

inductive MaskPolicy where
  | required | skippable
  deriving DecidableEq, Repr

/-- State of a lot record that holds a lot (R45). -/
inductive LotState where
  | mounted | expired | unmounted
  deriving DecidableEq, Repr

/-- How an inspection ended (R55). -/
inductive EndCause where
  | completed | expired | passed
  deriving DecidableEq, Repr

/-- Phase of an inspection record (R55): OPEN, or ENDED with its end cause. -/
inductive Phase where
  | isOpen
  | ended (cause : EndCause)
  deriving DecidableEq, Repr

/-- State of the spray cell (R76). -/
inductive CellState where
  | vacant | loading | ready | running | parking | done | aborted
  deriving DecidableEq, Repr

/-- Forced form of an oven entry (R114). -/
inductive ForcedForm where
  | none | overdue | dwell | profile
  deriving DecidableEq, Repr

/-- State of an oven zone (R125). -/
inductive ZoneState where
  | normal | holding | failed
  deriving DecidableEq, Repr

/-- Why the setpoint changed (R115). -/
inductive SpeedCause where
  | admission | request
  deriving DecidableEq, Repr

/-- Position of the pre diverter (4.7) and of the exit diverter (9.2). -/
inductive PreDiverter where
  | rest | line | shelf
  deriving DecidableEq, Repr

inductive ExitDiverter where
  | rest | outfeed | shelf
  deriving DecidableEq, Repr

/-- A lamp of the stack light (R182). -/
inductive Lamp where
  | dark | steady | blinking
  deriving DecidableEq, Repr

/-- Notice classes, in order of priority (11.4). -/
inductive NoticeClass where
  | alarm | hold | inspect | lot | board | line
  deriving DecidableEq, Repr

/-- Status words, in the order of the status table (11.1). -/
inductive Status where
  | ok | clamped | level | mode | stage | notFound | full | duplicate | claimed | notClaimed | inUse | busy
  | invalid | notReady | notConfigured | estop | holdsOpen | linkBusy | format
  deriving DecidableEq, Repr

/-! ### Records -/

/-- A stroke fault (R86). -/
structure StrokeFault where
  stroke : Nat
  pass   : Nat
  cause  : StrokeFaultCause
  deriving DecidableEq, Repr

/-- The coat summary of a traveler (1.1). -/
structure CoatSummary where
  run     : Nat
  skipped : Nat
  faults  : Nat
  first   : Option StrokeFault
  deriving DecidableEq, Repr

/-- A hold record (R148). -/
structure Hold where
  reason        : HoldReason
  state         : HoldState
  raisedBy      : Raiser
  stage         : Stage
  stamp         : Seconds
  level         : Nat
  detail        : Option HoldDetail
  count         : Nat
  releasedBy    : Option Link
  releasedStamp : Option Seconds
  deriving DecidableEq, Repr

/-- A traveler record (1.1); its number is its position in the table. -/
structure Traveler where
  tag          : Text
  recipe       : Nat
  route        : Route
  stage        : Stage
  place        : PlaceState
  inducted     : Seconds
  claim        : Option Link
  fiducial     : Option Fiducial
  sites        : List SiteVerdict
  program      : ProgramState
  strokeCursor : Nat
  passCursor   : Nat
  coat         : CoatSummary
  lotsUsed     : List (Option Text)
  sprayEnd     : Option Seconds
  forced       : Bool
  lead         : Option Nat
  passDose     : Nat
  lifeDose     : Nat
  coverage     : List CoverageVerdict
  holds        : List Hold
  shelfSlot    : Option Nat
  deriving DecidableEq, Repr

/-- An entry of the transfer list (R15). The timer is its deadline while it runs, none once HALT has stopped it
(R11, R178). -/
structure Transfer where
  traveler : Nat
  source   : Place
  dest     : Place
  deadline : Option Seconds
  deriving DecidableEq, Repr

/-- The traveler table (chapter 1): records, free list, tag index, infeed queue, line mode, transfer list. -/
structure TravelerTable where
  records   : List (Option Traveler)
  free      : List Nat
  index     : List (Text × Nat)
  queue     : List Nat
  mode      : LineMode
  cause     : Option HaltCause
  detail    : Option HaltDetail
  transfers : List Transfer
  deriving DecidableEq, Repr

/-- A stored mask site (mask site table). -/
structure MaskSite where
  kind   : MaskKind
  policy : MaskPolicy
  x      : Int
  y      : Int
  deriving DecidableEq, Repr

/-- A stored stroke (stroke table); `valveOn` is Valve ON, `serpentine` is Serpentine yes. -/
structure Stroke where
  head       : Nat
  window     : Nat
  startX     : Int
  startY     : Int
  endX       : Int
  endY       : Int
  height     : Nat
  passes     : Nat
  stepX      : Int
  stepY      : Int
  serpentine : Bool
  valveOn    : Bool
  deriving DecidableEq, Repr

/-- A recipe slot (R24, R25). -/
structure RecipeSlot where
  state    : SlotState
  header   : Option Header
  windows  : List Window
  sites    : List MaskSite
  strokes  : List Stroke
  useCount : Nat
  deriving DecidableEq, Repr

/-- The recipe store (chapter 2); a profile slot is EMPTY (none) or LOADED. -/
structure RecipeStore where
  slots    : List RecipeSlot
  profiles : List (Option Profile)
  deriving DecidableEq, Repr

/-- A lot record that holds a lot (3.2); volumes in nL. -/
structure Lot where
  state     : LotState
  id        : Text
  kind      : Nat
  head      : Nat
  charged   : Int
  remaining : Int
  dispensed : Int
  mixStamp  : Int
  potLife   : Nat
  derate    : Nat
  lowLimit  : Int
  lowWarned : Bool
  deriving DecidableEq, Repr

/-- The lot table (chapter 3): per present head its configuration (none: UNCONFIGURED) and the record the head map
names, the four records (none: free) and the unmount order. -/
structure LotTable where
  heads   : List (Option HeadConfig)
  map     : List (Option Nat)
  records : List (Option Lot)
  unmount : List Nat
  deriving DecidableEq, Repr

/-- An inspection record (R55). -/
structure Inspection where
  traveler : Nat
  phase    : Phase
  opened   : Seconds
  deadline : Option Seconds
  deriving DecidableEq, Repr

/-- The mask verification unit (chapters 4 and 9): the record of each inspection station. The claims and verdicts
it owns are fields of the travelers. -/
structure MaskUnit where
  pre  : Option Inspection
  post : Option Inspection
  deriving DecidableEq, Repr

/-- A message from the part to the gantry (5.4). -/
inductive GantryMessage where
  | move (head : Nat) (target : Point) (speed : Nat)
  | pass (head : Nat) (x y : Int) (speed : Nat)
  | stop
  deriving DecidableEq, Repr

/-- An outstanding gantry message (R90): the message, where the head will stand when it is answered as expected
(none: unknown, for STOP), and its deadline as the milliseconds it may take and those gone by (R91, R178). -/
structure Outstanding where
  message : GantryMessage
  target  : Option Point
  budget  : Nat
  elapsed : Nat
  deriving DecidableEq, Repr

/-- Gantry port state (R90). -/
inductive PortState where
  | quiet
  | waiting (o : Outstanding)
  | lost
  deriving DecidableEq, Repr

/-- The results of the dispense arithmetic held for a stroke (R84, R99). -/
structure Dispense where
  flow         : Nat
  fan          : Nat
  speed        : Nat
  mark         : ClampMark
  film         : Nat
  verdict      : Deviation
  duration     : Nat
  passVolume   : Nat
  strokeVolume : Nat
  deriving DecidableEq, Repr

/-- Which message of a pass the stroke waits for: the MOVE to the pass start, or the way along the pass (R80, R87). -/
inductive PassPhase where
  | toStart | along
  deriving DecidableEq, Repr

/-- The stroke being worked: its number, head, transit speed, held results (none for a dry stroke), the machine
points of its passes (R85), and the phase of the pass in flight. -/
structure StrokeWork where
  stroke  : Nat
  head    : Nat
  transit : Nat
  results : Option Dispense
  passes  : List (Point × Point)
  phase   : PassPhase
  deriving DecidableEq, Repr

/-- The open spray valve and its timer (R88): the head, the stroke's effective flow, the pass duration, and the
milliseconds it has been open. At most one valve is open at any moment (R87). -/
structure OpenValve where
  head     : Nat
  flow     : Nat
  duration : Nat
  openMs   : Nat
  deriving DecidableEq, Repr

/-- The stroke engine (chapter 5). `lastClose` is the line second at which the last valve that opened in the
program closed (R93). -/
structure StrokeEngine where
  cell      : CellState
  board     : Option Nat
  port      : PortState
  reference : Option Point
  lastFault : Option Nat
  limits    : Option GantryLimits
  valve     : Option OpenValve
  work      : Option StrokeWork
  lastClose : Option Seconds
  deriving DecidableEq, Repr

/-- The oven geometry, kept in 0.1 mm (R112). -/
structure OvenGeometry where
  length : Nat
  bounds : List Nat
  gap    : Nat
  deriving DecidableEq, Repr

/-- An entry of the oven list (R114); the range is none when it is unreachable. -/
structure OvenEntry where
  traveler : Nat
  stamp    : Seconds
  range    : Option (Nat × Nat)
  form     : ForcedForm
  deriving DecidableEq, Repr

/-- A zone record (R125). -/
structure Zone where
  state      : ZoneState
  last       : Option Int
  invalidRun : Nat
  validRun   : Nat
  deriving DecidableEq, Repr

/-- The cure monitor (chapters 7 and 8). `overdue` and `overCured` list the travelers whose mark is set;
`rangeLow` and `rangeHigh` are the bounds of the admitted range I. -/
structure CureMonitor where
  flash     : List Nat
  overdue   : List Nat
  stopUp    : Bool
  geometry  : Option OvenGeometry
  oven      : List OvenEntry
  rangeLow  : Nat
  rangeHigh : Nat
  setpoint  : Nat
  output    : Nat
  exit      : List Nat
  stalled   : Bool
  overCured : List Nat
  zones     : List Zone
  prescaler : Nat
  deriving DecidableEq, Repr

/-- A shelf slot (R155). -/
inductive ShelfSlot where
  | free
  | assigned (traveler : Nat)
  | resting (traveler : Nat)
  deriving DecidableEq, Repr

/-- The hold manager (chapter 10): the release-level table and the shelf slot map. The hold sets are fields of the
travelers. -/
structure HoldManager where
  levels : List Nat
  shelf  : List ShelfSlot
  deriving DecidableEq, Repr

/-- The kinds of notice with their fields, in the order of the notice table (11.4). -/
inductive NoticeKind where
  | overcure (tag : Text) (traveler passDose lifeDose : Nat) (bound : DoseBound)
  | zoneFailed (zone : Nat) (value : Option Int)
  | zoneRestored (zone : Nat) (value : Int)
  | ovenStall (tag : Text) (traveler : Nat)
  | ovenResume (tag : Text) (traveler setpoint : Nat)
  | lotExpired (head record : Nat) (id : Text)
  | halted (cause : HaltCause) (detail : Option HaltDetail)
  | holdRaised (tag : Text) (traveler : Nat) (reason : HoldReason) (raisedBy : Raiser) (stage : Stage) (level : Nat)
      (detail : Option HoldDetail)
  | holdReleased (tag : Text) (traveler : Nat) (reason : HoldReason) (releasedBy : Link) (level count : Nat)
  | inspectReady (station : Station) (tag : Text) (traveler recipe : Nat) (route : Route) (timeout : Nat)
      (sites : List MaskSite) (windows : List Window)
  | inspectAbandoned (station : Station) (tag : Text) (traveler : Nat) (link : Option Link) (posted : Nat)
  | lotMounted (head record : Nat) (id : Text) (kind charge age : Nat)
  | lotLow (head record : Nat) (id : Text) (remaining lowLimit : Int)
  | boardInducted (tag : Text) (traveler recipe : Nat)
  | boardStage (tag : Text) (traveler : Nat) (before after : Stage) (place : PlaceState)
  | boardRetired (tag : Text) (traveler : Nat) (outcome : RetireOutcome)
  | modeChanged (before after : LineMode)
  | speedChanged (before after : Nat) (cause : SpeedCause)
  | lineCleared
  deriving DecidableEq, Repr

/-- A notice (R169). -/
structure Notice where
  serial : Seconds
  stamp  : Seconds
  kind   : NoticeKind
  deriving DecidableEq, Repr

/-- A field of a frame body, by the field type table (R162). A list is its count followed by its items, an optional
field its presence byte followed by the value when present. -/
inductive Field where
  | int (width : Nat) (value : Int)
  | word (code : Nat)
  | text (chars : Text)
  | count (n : Nat)
  | presence (there : Bool)
  deriving DecidableEq, Repr

/-- An answer frame (R162, R164): request code, level field, correlation value, status word and its fields. -/
structure Answer where
  code   : Nat
  level  : Nat
  corr   : Byte
  status : Status
  fields : List Field
  deriving DecidableEq, Repr

/-- Reception state of a link (R163); in a frame, the bytes received since the start mark and the milliseconds gone
by since the last of them. -/
inductive Reception where
  | searching
  | inFrame (bytes : List Byte) (gap : Nat)
  deriving DecidableEq, Repr

/-- A station link interface (chapter 11). `subs` is kept in the order of the classes (log 12). -/
structure LinkState where
  reception : Reception
  inService : Bool
  answers   : List Answer
  queue     : List Notice
  subs      : List NoticeClass
  trigger   : Nat
  overrun   : Bool
  attention : Bool
  deriving DecidableEq, Repr

/-- The three link interfaces and the notice serial counter they share (R169). -/
structure LinkInterfaces where
  a      : LinkState
  b      : LinkState
  c      : LinkState
  serial : Seconds
  deriving DecidableEq, Repr

/-- The latched straps (R183). -/
structure Straps where
  levelA : Nat
  levelB : Nat
  levelC : Nat
  heads  : Nat
  zones  : Nat
  deriving DecidableEq, Repr

/-- A debounced sensor (R179): its reading (`true`: occupied) and the consecutive ticks its input has shown the
other level. -/
structure SensorState where
  reading : Bool
  run     : Nat
  deriving DecidableEq, Repr

/-- The outputs to gates, diverters, shelf mechanism and stack light (R180, R182); `true` is an open gate. The end
stop, the setpoint, the valves and the attention outputs stand with their owners. -/
structure Outputs where
  infeedGate      : Bool
  cellGate        : Bool
  accumulatorGate : Bool
  preDiverter     : PreDiverter
  exitDiverter    : ExitDiverter
  slotSelect      : Nat
  green           : Lamp
  amber           : Lamp
  red             : Lamp
  deriving DecidableEq, Repr

/-- The input pins as the outside presents them: whether the reference clock runs or stands (R177), the E-stop level
(R181), the raw sensor levels (R179), the channel signals of the temperature port (R124), the encoder edges not yet
counted (R127), and the bytes that stand on each link's receive pair (R163). -/
structure Inputs where
  clock    : Bool
  estopLow : Bool
  sensors  : List Bool
  channels : List ChannelSignals
  pulses   : Nat
  rxA      : List Byte
  rxB      : List Byte
  rxC      : List Byte
  deriving DecidableEq, Repr

/-- Line I/O and time base (chapter 12). `estop` is the recognised E-stop state, `estopHanded` that an assertion
has been handed to the traveler table and is not yet taken (R181). -/
structure LineIo where
  ms          : Nat
  seconds     : Seconds
  blinkOn     : Bool
  estop       : Bool
  estopHanded : Bool
  estopRun    : Nat
  sensors     : List SensorState
  straps      : Straps
  timeouts    : Timeouts
  outputs     : Outputs
  inputs      : Inputs
  deriving DecidableEq, Repr

/-- The whole state: the commands that wait (first in, first out) and the nine blocks. -/
structure State where
  pending : List Instr
  table   : TravelerTable
  recipes : RecipeStore
  lots    : LotTable
  mask    : MaskUnit
  engine  : StrokeEngine
  cure    : CureMonitor
  holds   : HoldManager
  links   : LinkInterfaces
  io      : LineIo
  deriving DecidableEq, Repr

/-- No command of this block stops it: every rule gives its effect, so there is no fault to raise. -/
inductive Fault where
  deriving DecidableEq, Repr

/-- Why a command has no meaning. -/
inductive Refusal where
  /-- Raised by `exec` for a row that the model does not give a meaning to; no row is left so. Safe. -/
  | notModelled (mnemonic : String)
  deriving DecidableEq, Repr

/-! ### Reset values -/

/-- An EMPTY recipe slot (R24, R42). -/
def emptySlot : RecipeSlot :=
  { state := .empty, header := none, windows := [], sites := [], strokes := [], useCount := 0 }

/-- Values of the traveler table after reset (R23). -/
def TravelerTable.reset : TravelerTable :=
  { records := List.replicate Config.travelerCount none
    free := (List.range Config.travelerCount).map (· + 1)
    index := [], queue := [], mode := .idle, cause := none, detail := none, transfers := [] }

/-- Values of the recipe store after reset (R42). -/
def RecipeStore.reset : RecipeStore :=
  { slots := List.replicate Config.recipeCount emptySlot, profiles := List.replicate Config.profileCount none }

/-- Values of the lot table after reset with `heads` heads strapped (R54). -/
def LotTable.reset (heads : Nat) : LotTable :=
  { heads := List.replicate heads none, map := List.replicate heads none,
    records := List.replicate Config.lotCount none, unmount := [] }

/-- Values of the mask verification unit after reset (R55). -/
def MaskUnit.reset : MaskUnit := { pre := none, post := none }

/-- Values of the stroke engine after reset (R98). -/
def StrokeEngine.reset : StrokeEngine :=
  { cell := .vacant, board := none, port := .quiet, reference := none, lastFault := none, limits := none,
    valve := none, work := none, lastClose := none }

/-- A zone record after reset (R126). -/
def Zone.reset : Zone := { state := .failed, last := none, invalidRun := 0, validRun := 0 }

/-- The timeouts and limits after reset (R184). -/
def Timeouts.reset : Timeouts :=
  { transfer := 8, pre := 30, post := 30, margin := 500, fiducial := 20, reload := 100 }

/-- Values of the cure monitor after reset with `zones` zones strapped (R123, R126, R127, R136). -/
def CureMonitor.reset (zones : Nat) : CureMonitor :=
  { flash := [], overdue := [], stopUp := true, geometry := none, oven := [],
    rangeLow := Config.beltMin, rangeHigh := Config.beltMax, setpoint := 0, output := 0, exit := [],
    stalled := false, overCured := [], zones := List.replicate zones Zone.reset,
    prescaler := Timeouts.reset.reload }

/-- Values of the hold manager after reset: the default release levels in reason order (10.1, R147), every slot
free (R155). -/
def HoldManager.reset : HoldManager :=
  { levels := [2, 2, 2, 1, 2, 1, 2, 2, 1, 1, 0, 1, 2, 2], shelf := List.replicate Config.shelfCount .free }

/-- Values of one link interface after reset (R176). -/
def LinkState.reset : LinkState :=
  { reception := .searching, inService := false, answers := [], queue := [], subs := [], trigger := 1,
    overrun := false, attention := false }

/-- Values of the link interfaces after reset (R176). -/
def LinkInterfaces.reset : LinkInterfaces :=
  { a := LinkState.reset, b := LinkState.reset, c := LinkState.reset, serial := 0 }

/-- The outputs after reset (R180, R182). -/
def Outputs.reset : Outputs :=
  { infeedGate := false, cellGate := false, accumulatorGate := false, preDiverter := .rest, exitDiverter := .rest,
    slotSelect := 0, green := .dark, amber := .dark, red := .dark }

/-- Inputs on which nothing stands: the reference clock runs (R177), the E-stop is released, the sensors are vacant, and
there is no converter answer, no pulse and no byte. What the pins read is the outside's; this is what `State.reset`
assumes (DESIGN CHOICE, log 3). -/
def Inputs.quiet : Inputs :=
  { clock := true, estopLow := false, sensors := List.replicate Config.sensorCount false, channels := [],
    pulses := 0, rxA := [], rxB := [], rxC := [] }

/-- Values of line I/O and time base after reset with the straps latched (R177, R178, R179, R181, R183, R184). The
input pins are the outside's and stand as they are. -/
def LineIo.reset (straps : Straps) (inputs : Inputs) : LineIo :=
  { ms := 0, seconds := 0, blinkOn := true, estop := false, estopHanded := false, estopRun := 0,
    sensors := List.replicate Config.sensorCount { reading := false, run := 0 },
    straps := straps, timeouts := Timeouts.reset, outputs := Outputs.reset, inputs := inputs }

/-- The straps of a part whose strap pins are all open (R183). -/
def Straps.allOpen : Straps := { levelA := 3, levelB := 3, levelC := 3, heads := 1, zones := 6 }

/-- Every block at its reset values, with the straps latched; the waiting commands and the input pins are the
outside's and stand. -/
def State.afterReset (straps : Straps) (inputs : Inputs) (pending : List Instr) : State :=
  { pending := pending
    table := TravelerTable.reset
    recipes := RecipeStore.reset
    lots := LotTable.reset straps.heads
    mask := MaskUnit.reset
    engine := StrokeEngine.reset
    cure := CureMonitor.reset straps.zones
    holds := HoldManager.reset
    links := LinkInterfaces.reset
    io := LineIo.reset straps inputs }

/-- The machine right after reset, every strap pin open and nothing on the inputs (DESIGN CHOICE, log 3: the spec
leaves the pins to the board; open is what the pull-ups give). -/
def State.reset : State := State.afterReset Straps.allOpen Inputs.quiet []

end Sys2Proof.Machine
end

