-- ==== Sys2Proof/Machine/Operands.lean ====
section
/-! DEFINITION. The operand forms of the requests: the word codes of R162 in both directions, the ranges and forms a
request's fields are judged by, and the field list that names the first field at fault. -/

namespace Sys2Proof.Machine

/-! ### Word codes (R162): a word's position, counted from 0, in the list where the manual first gives its values -/

def Link.code : Link → Nat
  | .a => 0 | .b => 1 | .c => 2

def Station.code : Station → Nat
  | .pre => 0 | .post => 1

def LineMode.code : LineMode → Nat
  | .idle => 0 | .run => 1 | .drain => 2 | .halt => 3

def HaltCause.code : HaltCause → Nat
  | .estop => 0 | .request => 1 | .jam => 2 | .gantry => 3

def Stage.code : Stage → Nat
  | .queued => 0 | .preInspect => 1 | .spray => 2 | .flash => 3 | .cure => 4 | .ovenExit => 5 | .postInspect => 6
  | .shelved => 7

def PlaceState.code : PlaceState → Nat
  | .arriving => 0 | .present => 1

def Route.code : Route → Nat
  | .full => 0 | .touchUp _ _ => 1 | .reCure => 2

def RetireOutcome.code : RetireOutcome → Nat
  | .departed => 0 | .accepted => 1 | .scrapped => 2 | .lost => 3 | .cleared => 4

def SiteVerdict.code : SiteVerdict → Nat
  | .unchecked => 0 | .present => 1 | .absent => 2 | .damaged => 3 | .notFitted => 4

def CoverageVerdict.code : CoverageVerdict → Nat
  | .unchecked => 0 | .covered => 1 | .void => 2 | .splash => 3

def ProgramState.code : ProgramState → Nat
  | .notStarted => 0 | .running => 1 | .done => 2 | .aborted => 3

def StrokeFaultCause.code : StrokeFaultCause → Nat
  | .head => 0 | .travel => 1 | .gantry _ => 2

/-- A hold reason's row in the reason table, counted from 0 (R162). -/
def HoldReason.code : HoldReason → Nat
  | .maskMissing => 0 | .fiducial => 1 | .inspectTimeout => 2 | .strokeFault => 3 | .coatDeviation => 4
  | .partialCoat => 5 | .sprayInterrupted => 6 | .material => 7 | .flashOverdue => 8 | .underCure => 9
  | .overCure => 10 | .cureUnverified => 11 | .coverage => 12 | .operator => 13

def Raiser.code : Raiser → Nat
  | .maskVerification => 0 | .strokeEngine => 1 | .cureMonitor => 2 | .link l => 3 + Link.code l

def FiducialCause.code : FiducialCause → Nat
  | .notPosted => 0 | .notFound => 1 | .limit => 2

def Deviation.code : Deviation → Nat
  | .thin => 0 | .nominal => 1 | .heavy => 2

def ClampMark.code : ClampMark → Nat
  | .clampedLow => 0 | .clampedHigh => 1 | .unclamped => 2

def MaterialCause.code : MaterialCause → Nat
  | .noLot => 0 | .expired => 1 | .kind => 2 | .volume => 3

def DoseBound.code : DoseBound → Nat
  | .pass => 0 | .life => 1

def HoldState.code : HoldState → Nat
  | .isOpen => 0 | .released => 1

/-- The places in the order of the table of the line (00_scope.md). -/
def Place.code : Place → Nat
  | .queue => 0 | .preStation => 1 | .cell => 2 | .flashBelt => 3 | .accumulator => 5 | .postStation => 6
  | .outfeed => 7 | .shelf _ => 8

def SlotState.code : SlotState → Nat
  | .empty => 0 | .loading => 1 | .ready => 2

def MaskKind.code : MaskKind → Nat
  | .boot => 0 | .tape => 1 | .liquid => 2

def MaskPolicy.code : MaskPolicy → Nat
  | .required => 0 | .skippable => 1

def LotState.code : LotState → Nat
  | .mounted => 0 | .expired => 1 | .unmounted => 2

def EndCause.code : EndCause → Nat
  | .completed => 0 | .expired => 1 | .passed => 2

def ForcedForm.code : ForcedForm → Nat
  | .none => 0 | .overdue => 1 | .dwell => 2 | .profile => 3

def ZoneState.code : ZoneState → Nat
  | .normal => 0 | .holding => 1 | .failed => 2

def SpeedCause.code : SpeedCause → Nat
  | .admission => 0 | .request => 1

def NoticeClass.code : NoticeClass → Nat
  | .alarm => 0 | .hold => 1 | .inspect => 2 | .lot => 3 | .board => 4 | .line => 5

def Status.code : Status → Nat
  | .ok => 0 | .clamped => 1 | .level => 2 | .mode => 3 | .stage => 4 | .notFound => 5 | .full => 6
  | .duplicate => 7 | .claimed => 8 | .notClaimed => 9 | .inUse => 10 | .busy => 11 | .invalid => 12
  | .notReady => 13 | .notConfigured => 14 | .estop => 15 | .holdsOpen => 16 | .linkBusy => 17 | .format => 18

/-- Words of a request that a code names; none where the code is not in the word's list. -/
def Station.ofCode : Nat → Option Station
  | 0 => some .pre | 1 => some .post | _ => none

def Stage.ofCode : Nat → Option Stage
  | 0 => some .queued | 1 => some .preInspect | 2 => some .spray | 3 => some .flash | 4 => some .cure
  | 5 => some .ovenExit | 6 => some .postInspect | 7 => some .shelved | _ => none

/-- The stage word ALL of ListTravelers (R162). -/
def stageAll : Nat := 8

def HoldReason.ofCode : Nat → Option HoldReason
  | 0 => some .maskMissing | 1 => some .fiducial | 2 => some .inspectTimeout | 3 => some .strokeFault
  | 4 => some .coatDeviation | 5 => some .partialCoat | 6 => some .sprayInterrupted | 7 => some .material
  | 8 => some .flashOverdue | 9 => some .underCure | 10 => some .overCure | 11 => some .cureUnverified
  | 12 => some .coverage | 13 => some .operator | _ => none

/-- The reason word ALL of ReleaseHold (R162). -/
def reasonAll : Nat := 14

/-- A verdict that PostSite may carry: UNCHECKED cannot be posted (R64). -/
def SiteVerdict.ofCode : Nat → Option SiteVerdict
  | 1 => some .present | 2 => some .absent | 3 => some .damaged | 4 => some .notFitted | _ => none

/-- A verdict that PostCoverage may carry: UNCHECKED cannot be posted (R138). -/
def CoverageVerdict.ofCode : Nat → Option CoverageVerdict
  | 1 => some .covered | 2 => some .void | 3 => some .splash | _ => none

def MaskKind.ofCode : Nat → Option MaskKind
  | 0 => some .boot | 1 => some .tape | 2 => some .liquid | _ => none

def MaskPolicy.ofCode : Nat → Option MaskPolicy
  | 0 => some .required | 1 => some .skippable | _ => none

def NoticeClass.ofCode : Nat → Option NoticeClass
  | 0 => some .alarm | 1 => some .hold | 2 => some .inspect | 3 => some .lot | 4 => some .board | 5 => some .line
  | _ => none

/-- A yes or no word, yes first (1.1, Forced flag; 2.2, Serpentine). -/
def yesNo : Nat → Option Bool
  | 0 => some true | 1 => some false | _ => none

def yesNoCode (b : Bool) : Nat := if b then 0 else 1

/-- A mark that is clear or set, clear first (R170). -/
def markCode (b : Bool) : Nat := if b then 1 else 0

/-! ### Forms and ranges of request fields -/

/-- `lo ≤ n ≤ hi`. -/
def within (lo hi n : Nat) : Bool := decide (lo ≤ n) && decide (n ≤ hi)

/-- `lo ≤ n ≤ hi` of a signed field. -/
def withinInt (lo hi n : Int) : Bool := decide (lo ≤ n) && decide (n ≤ hi)

/-- A coordinate of a record: −32768 to 32767 (2.2, R63). -/
def coordinate (n : Int) : Bool := withinInt (-32768) 32767 n

/-- A name of 1 to `longest` characters with codes 33 to 126 (R2, R46, header table). -/
def nameForm (longest : Nat) (t : Text) : Bool :=
  within 1 longest t.length && t.all fun c => within 33 126 c.toNat

/-- A well-formed tag (R2). -/
def tagForm (t : Text) : Bool := nameForm 16 t

/-- The position of the first field at fault among a request's fields in the order its rule lists them: each field
with whether it lies in its range. -/
def firstAtFault : List Bool → Option Nat
  | [] => none
  | true :: rest => (firstAtFault rest).map (· + 1)
  | false :: _ => some 0

/-- The checks of OpenRecipe's fields (R26): the slot, then the header in the order of its table, with the flash and
dwell orderings in the ranges of their maxima. -/
def headerChecks (slot : Nat) (h : Header) : List Bool :=
  [ within 1 Config.recipeCount slot, nameForm 12 h.name, within 0 65535 h.revision, within 500 6000 h.length,
    within 500 5000 h.width, within 1 15 h.kind, within 0 1800 h.flashMin, within h.flashMin 3600 h.flashMax,
    within 60 7200 h.dwellMin, within h.dwellMin 7200 h.dwellMax, within 1 Config.profileCount h.profile ]

/-- A well-formed window record (R28). -/
def Window.form (w : Window) : Bool :=
  coordinate w.x0 && coordinate w.y0 && coordinate w.x1 && coordinate w.y1 && decide (w.x0 < w.x1) &&
    decide (w.y0 < w.y1) && within 10 500 w.thickness && within 1 30 w.tolerance &&
    within 0 Config.siteCapacity w.mask

/-- A mask site record read from a request; none when it is not well formed (R29). -/
def SiteFields.read (r : SiteFields) : Option MaskSite :=
  match MaskKind.ofCode r.kind, MaskPolicy.ofCode r.policy with
  | some k, some p =>
    if coordinate r.x && coordinate r.y then some { kind := k, policy := p, x := r.x, y := r.y } else none
  | _, _ => none

/-- A stroke record read from a request; none when it is not well formed (R30). Valve ON is code 0 (2.2). -/
def StrokeFields.read (r : StrokeFields) : Option Stroke :=
  match yesNo r.serpentine, yesNo r.valve with
  | some sp, some v =>
    if within 1 2 r.head && within 0 Config.windowCapacity r.window && coordinate r.startX && coordinate r.startY &&
        coordinate r.endX && coordinate r.endY && within 30 600 r.height && within 1 64 r.passes &&
        coordinate r.stepX && coordinate r.stepY then
      some { head := r.head, window := r.window, startX := r.startX, startY := r.startY, endX := r.endX,
             endY := r.endY, height := r.height, passes := r.passes, stepX := r.stepX, stepY := r.stepY,
             serpentine := sp, valveOn := v }
    else none
  | _, _ => none

/-- Reads every record of a request, or gives the position, counted from 1, of the first that breaks its form
(R27). -/
def readAll {α β : Type} (read : α → Option β) : Nat → List α → Except Nat (List β)
  | _, [] => .ok []
  | n, r :: rest =>
    match read r with
    | none => .error n
    | some b =>
      match readAll read (n + 1) rest with
      | .error k => .error k
      | .ok bs => .ok (b :: bs)

/-- The checks of PutCureProfile's fields (R39, profile table). -/
def profileChecks (index : Nat) (p : Profile) : List Bool :=
  [within 1 Config.profileCount index, within 20 240 p.base] ++ p.weights.map (within 0 255) ++
    [ within 1 Config.doseMax p.required, within p.required Config.doseMax p.passMax,
      within p.passMax Config.doseMax p.lifeMax ]

/-- The checks of SetHead's fields (R44): the head, then the head table's fields in order. -/
def headChecks (heads head : Nat) (c : HeadConfig) : List Bool :=
  [ within 1 heads head, within 1 2000 c.flow, within 20 400 c.fan, within 50 500 c.height, within 30 600 c.zMin,
    within 30 600 c.zMax, within 10 600 c.fanMin, within 10 600 c.fanMax, within 10 8000 c.vMin,
    within 10 8000 c.vMax, within 100 8000 c.transit ]

/-- The pairs that may not be crossed, in the order z, W, v (R44). -/
def headPairs (c : HeadConfig) : List Bool :=
  [decide (c.zMin ≤ c.zMax), decide (c.fanMin ≤ c.fanMax), decide (c.vMin ≤ c.vMax)]

/-- The checks of MountLot's fields in the order R46 judges them: head, lot id, kind, charge, P, D, age at mount, low
threshold. -/
def lotChecks (heads head : Nat) (m : LotFields) : List Bool :=
  [ within 1 heads head, nameForm 12 m.id, within 1 15 m.kind, within 1 4000000 m.charge,
    within 10 1440 m.potLife, within 0 50 m.derate, decide (m.age + 1 ≤ m.potLife), within 0 4000000 m.lowLimit ]

/-- A position of the gantry limits configuration (R97). -/
def gantryPosition (n : Int) : Bool := withinInt (-1000000) 1000000 n

/-- The checks of SetGantryLimits' fields (R97): each field's range, a maximum above its minimum, and the park point
within the travel limits. A minimum that is not below its maximum is named by the maximum (DESIGN CHOICE, log 11). -/
def gantryChecks (l : GantryLimits) : List Bool :=
  [ gantryPosition l.xMin, gantryPosition l.xMax && decide (l.xMin < l.xMax),
    gantryPosition l.yMin, gantryPosition l.yMax && decide (l.yMin < l.yMax),
    gantryPosition l.zMin, gantryPosition l.zMax && decide (l.zMin < l.zMax),
    gantryPosition l.origin.x, gantryPosition l.origin.y, gantryPosition l.origin.z,
    gantryPosition l.park.x && withinInt l.xMin l.xMax l.park.x,
    gantryPosition l.park.y && withinInt l.yMin l.yMax l.park.y,
    gantryPosition l.park.z && withinInt l.zMin l.zMax l.park.z,
    within 100 8000 l.parkSpeed ]

/-- Strictly increasing from above `low` (R112). -/
def risingFrom : Nat → List Nat → Bool
  | _, [] => true
  | low, b :: rest => decide (low < b) && risingFrom b rest

/-- The checks of SetOvenGeometry's fields (R112): the length, the boundary list, the entry gap. -/
def geometryChecks (zones length : Nat) (bounds : List Nat) (gap : Nat) : List Bool :=
  [ within 1000 12000 length,
    decide (bounds.length = zones) && risingFrom 0 bounds && decide (bounds.getLast? = some length),
    within 20 500 gap ]

/-- The checks of SetTimeouts' fields (R184). -/
def timeoutChecks (t : Timeouts) : List Bool :=
  [ within 1 30 t.transfer, within 2 120 t.pre, within 2 120 t.post, within 200 5000 t.margin,
    within 1 100 t.fiducial, within 1 65535 t.reload ]

/-! ### Field builders (field type table of 11.1) -/

def u1 (n : Nat) : Field := .int 1 n
def u2 (n : Nat) : Field := .int 2 n
def u4 (n : Nat) : Field := .int 4 n
def i2 (n : Int) : Field := .int 2 n
def i4 (n : Int) : Field := .int 4 n
def uTime (t : Seconds) : Field := .int 4 t.toNat

/-- A list: its count, then its items. -/
def listOf {α : Type} (f : α → List Field) (l : List α) : List Field := .count l.length :: l.flatMap f

/-- An optional field: its presence byte, then the value when present. -/
def optional {α : Type} (f : α → List Field) : Option α → List Field
  | none => [.presence false]
  | some a => .presence true :: f a

end Sys2Proof.Machine
end

