-- ==== Sys2Proof/Machine/Flags.lean ====
section
/-! DEFINITION. The marks the part computes from its state: the class of a notice, the attention output of a link (R174)
and the three lamps of the stack light (R182). -/

namespace Sys2Proof.Machine

/-- The class of each notice kind (notice table of 11.4). -/
def NoticeKind.cls : NoticeKind → NoticeClass
  | .overcure .. | .zoneFailed .. | .zoneRestored .. | .ovenStall .. | .ovenResume .. | .lotExpired ..
  | .halted .. => .alarm
  | .holdRaised .. | .holdReleased .. => .hold
  | .inspectReady .. | .inspectAbandoned .. => .inspect
  | .lotMounted .. | .lotLow .. => .lot
  | .boardInducted .. | .boardStage .. | .boardRetired .. => .board
  | .modeChanged .. | .speedChanged .. | .lineCleared => .line

/-- Whether a link's attention output is asserted: its queue is at least as deep as its trigger level, or holds an
ALARM notice (R174). -/
def LinkState.wantsAttention (l : LinkState) : Bool :=
  decide (l.trigger ≤ l.queue.length) || l.queue.any fun n => n.kind.cls == .alarm

/-- The attention output judged again (R174). -/
def LinkState.judge (l : LinkState) : LinkState := { l with attention := l.wantsAttention }

/-- The traveler has an OPEN hold (R148). -/
def Traveler.held (r : Traveler) : Bool := r.holds.any fun h => h.state == .isOpen

/-- Some live traveler satisfies `p`. -/
def State.anyTraveler (s : State) (p : Traveler → Bool) : Bool := s.table.records.any fun o => o.any p

/-- The free count of the shelf (R155). -/
def State.freeSlots (s : State) : Nat := s.holds.shelf.countP (· == .free)

/-- Green lamp (R182). -/
def State.greenLamp (s : State) : Lamp :=
  match s.table.mode with
  | .drain => .blinking
  | .run => .steady
  | .idle | .halt => .dark

/-- Amber lamp (R182). -/
def State.amberLamp (s : State) : Lamp :=
  if s.freeSlots = 0 || s.cure.stalled then .blinking
  else if s.anyTraveler Traveler.held then .steady
  else .dark

/-- Red lamp (R182). -/
def State.redLamp (s : State) : Lamp :=
  match s.table.mode, s.table.cause with
  | .halt, some .jam | .halt, some .gantry => .blinking
  | .halt, some .estop | .halt, some .request => .steady
  | _, _ => .dark

/-- The stack light set again from the state of the line (R182). -/
def State.relight (s : State) : State :=
  { s with io := { s.io with outputs := { s.io.outputs with
      green := s.greenLamp, amber := s.amberLamp, red := s.redLamp } } }

/-- A lamp is lit when it is steady, or blinks in the on phase of the blink toggle (R178, R182). -/
def Lamp.lit (phase : Bool) : Lamp → Bool
  | .dark => false
  | .steady => true
  | .blinking => phase

end Sys2Proof.Machine
end

