-- ==== Sys2Proof/Machine/Ops.lean ====
section
/-! DEFINITION. The operations every block shares: tables numbered from 1, the time base's stamps and deadlines, updates
of one block, traveler records, posting a notice (R169, R170), hold records (R149), the reading of a sensor, and
the service of a request by a link interface (R163 to R167). -/

namespace Sys2Proof.Machine

/-! ### Tables numbered from 1 -/

/-- Entry `n` of a table whose entries are numbered from 1. -/
def nth {α : Type} (l : List α) (n : Nat) : Option α := if n = 0 then none else l[n - 1]?

/-- The table with entry `n` replaced; unchanged where it has no such entry. -/
def putNth {α : Type} (l : List α) (n : Nat) (a : α) : List α := if n = 0 then l else l.set (n - 1) a

/-- The number of the first entry that satisfies `p`. -/
def firstNth {α : Type} (p : α → Bool) (l : List α) : Option Nat := (l.findIdx? p).map (· + 1)

/-! ### Time (R177, R178) -/

/-- Whether line seconds has reached a deadline. Both counts wrap at 2^32; a deadline counts as reached for the half
of the circle that follows it (log 4). -/
def reached (now deadline : Seconds) : Bool := decide ((now - deadline).toNat < 2 ^ 31)

/-- Seconds gone by since a stamp, on the wrapping count (log 4). -/
def elapsed (now since : Seconds) : Nat := (now - since).toNat

/-- The deadline a number of seconds from now. -/
def deadlineIn (now : Seconds) (timeout : Nat) : Seconds := now + BitVec.ofNat 32 timeout

/-! ### One block at a time -/

def State.now (s : State) : Seconds := s.io.seconds
def State.mode (s : State) : LineMode := s.table.mode

def State.onTable (s : State) (f : TravelerTable → TravelerTable) : State := { s with table := f s.table }
def State.onRecipes (s : State) (f : RecipeStore → RecipeStore) : State := { s with recipes := f s.recipes }
def State.onLots (s : State) (f : LotTable → LotTable) : State := { s with lots := f s.lots }
def State.onMask (s : State) (f : MaskUnit → MaskUnit) : State := { s with mask := f s.mask }
def State.onEngine (s : State) (f : StrokeEngine → StrokeEngine) : State := { s with engine := f s.engine }
def State.onCure (s : State) (f : CureMonitor → CureMonitor) : State := { s with cure := f s.cure }
def State.onHolds (s : State) (f : HoldManager → HoldManager) : State := { s with holds := f s.holds }
def State.onLinks (s : State) (f : LinkInterfaces → LinkInterfaces) : State := { s with links := f s.links }
def State.onIo (s : State) (f : LineIo → LineIo) : State := { s with io := f s.io }
def State.onOutputs (s : State) (f : Outputs → Outputs) : State :=
  s.onIo fun io => { io with outputs := f io.outputs }

/-! ### Links -/

/-- The interface of a link. -/
def LinkInterfaces.link (x : LinkInterfaces) : Link → LinkState
  | .a => x.a | .b => x.b | .c => x.c

def LinkInterfaces.onLink (x : LinkInterfaces) (l : Link) (f : LinkState → LinkState) : LinkInterfaces :=
  match l with
  | .a => { x with a := f x.a }
  | .b => { x with b := f x.b }
  | .c => { x with c := f x.c }

def State.link (s : State) (l : Link) : LinkState := s.links.link l
def State.onLink (s : State) (l : Link) (f : LinkState → LinkState) : State := s.onLinks (·.onLink l f)

/-- The strapped level of a link (R183). -/
def State.strapped (s : State) : Link → Nat
  | .a => s.io.straps.levelA | .b => s.io.straps.levelB | .c => s.io.straps.levelC

/-! ### Notices -/

/-- A copy of a notice offered to a link (R169, R170): appended where the link has subscribed to its class and the
queue has room; dropped with the overrun marker set where the queue is full. -/
def LinkState.offer (l : LinkState) (n : Notice) : LinkState :=
  if l.subs.contains n.kind.cls then
    if l.queue.length < Config.noticeCapacity then LinkState.judge { l with queue := l.queue ++ [n] }
    else { l with overrun := true }
  else l

/-- Posts a notice: it takes the next serial and the current line seconds, and is offered to every link (R169). -/
def State.post (s : State) (k : NoticeKind) : State :=
  s.onLinks fun x =>
    let n : Notice := { serial := x.serial + 1, stamp := s.now, kind := k }
    { a := x.a.offer n, b := x.b.offer n, c := x.c.offer n, serial := x.serial + 1 }

/-! ### Traveler records -/

/-- The live traveler of a number (R1). -/
def State.traveler (s : State) (t : Nat) : Option Traveler := (nth s.table.records t).join

/-- The record of traveler `t` written. -/
def State.setTraveler (s : State) (t : Nat) (r : Traveler) : State :=
  s.onTable fun b => { b with records := putNth b.records t (some r) }

/-- The record of traveler `t` changed; nothing where it is not live. -/
def State.onTraveler (s : State) (t : Nat) (f : Traveler → Traveler) : State :=
  match s.traveler t with
  | none => s
  | some r => s.setTraveler t (f r)

/-- The live traveler of a tag, looked up in the tag index (R2). -/
def State.tagged (s : State) (tag : Text) : Option (Nat × Traveler) :=
  match s.table.index.find? (fun e => e.1 == tag) with
  | none => none
  | some e => (s.traveler e.2).map fun r => (e.2, r)

/-- The tag of a traveler; empty where it is not live. -/
def State.tagOf (s : State) (t : Nat) : Text :=
  match s.traveler t with
  | none => []
  | some r => r.tag

/-- The live travelers with their numbers, in ascending number. -/
def State.travelers (s : State) : List (Nat × Traveler) :=
  (s.table.records.zipIdx).filterMap fun e => e.1.map fun r => (e.2 + 1, r)

/-- The number of the traveler PRESENT in a stage, the lowest where there are several. -/
def State.presentIn (s : State) (g : Stage) : Option Nat :=
  firstNth (fun o => o.any fun r => r.stage == g && r.place == .present) s.table.records

/-- A traveler's stage and place state written, with the BOARD_STAGE notice of the change (R3). -/
def State.moveStage (s : State) (t : Nat) (g : Stage) (p : PlaceState) : State :=
  match s.traveler t with
  | none => s
  | some r =>
    (s.setTraveler t { r with stage := g, place := p }).post (.boardStage r.tag t r.stage g p)

/-- The recipe slot a traveler names. -/
def State.recipeOf (s : State) (r : Traveler) : RecipeSlot := (nth s.recipes.slots r.recipe).getD emptySlot

/-- The cure profile a traveler's recipe names; none where the slot is EMPTY. -/
def State.profileOf (s : State) (r : Traveler) : Option Profile :=
  match (s.recipeOf r).header with
  | none => none
  | some h => (nth s.recipes.profiles h.profile).join

/-! ### Hold records -/

/-- A hold record put in its place of the hold set: in reason order, replacing a record of the same reason (R148). -/
def putHold (h : Hold) : List Hold → List Hold
  | [] => [h]
  | g :: rest =>
    if g.reason = h.reason then h :: rest
    else if h.reason.code < g.reason.code then h :: g :: rest
    else g :: putHold h rest

/-- The record of a reason in a hold set. -/
def findHold (reason : HoldReason) (l : List Hold) : Option Hold := l.find? fun h => h.reason == reason

/-- The release level the table gives a reason (R147). -/
def HoldManager.levelOf (m : HoldManager) (reason : HoldReason) : Nat := (m.levels[reason.code]?).getD 0

/-- A transfer of the traveler to the outfeed is in flight (R150). -/
def State.leaving (s : State) (t : Nat) : Bool :=
  s.table.transfers.any fun e => e.traveler == t && e.dest == .outfeed

/-- The word a raise ends in: the record was opened, reopened or counted (R149, R151). -/
inductive RaiseResult where
  | opened | reopened | counted | refused
  deriving DecidableEq, Repr

/-- What raising `reason` on traveler `t` would do (R149, R150). -/
def State.raiseResult (s : State) (t : Nat) (reason : HoldReason) : RaiseResult :=
  match s.traveler t with
  | none => .refused
  | some r =>
    if s.leaving t then .refused
    else
      match findHold reason r.holds with
      | none => .opened
      | some h => if h.state = .isOpen then .counted else .reopened

/-- A raise asked of the hold manager (R149): a new or RELEASED record opens and HOLD_RAISED is posted; an OPEN one
counts; a traveler on its way to the outfeed is out of reach (R150). -/
def State.raiseHold (s : State) (t : Nat) (reason : HoldReason) (who : Raiser) (g : Stage)
    (detail : Option HoldDetail) : State :=
  match s.traveler t with
  | none => s
  | some r =>
    if s.leaving t then s
    else
      let fresh : Hold :=
        { reason := reason, state := .isOpen, raisedBy := who, stage := g, stamp := s.now,
          level := s.holds.levelOf reason, detail := detail, count := 1, releasedBy := none, releasedStamp := none }
      let opening : State :=
        (s.setTraveler t { r with holds := putHold fresh r.holds }).post
          (.holdRaised r.tag t reason who g (s.holds.levelOf reason) detail)
      match findHold reason r.holds with
      | none => opening
      | some h =>
        if h.state = .isOpen then
          s.setTraveler t { r with holds := putHold { h with count := min (h.count + 1) Config.occurrenceMax } r.holds }
        else opening

/-- One OPEN record released (R152): RELEASED with the releasing link and stamp, and HOLD_RELEASED posted. -/
def State.releaseRecord (s : State) (t : Nat) (h : Hold) (l : Link) (level : Nat) : State :=
  match s.traveler t with
  | none => s
  | some r =>
    let h' : Hold := { h with state := .released, releasedBy := some l, releasedStamp := some s.now }
    (s.setTraveler t { r with holds := putHold h' r.holds }).post
      (.holdReleased r.tag t h.reason l level h.count)

/-! ### Sensors -/

/-- A sensor's place among the 24 debounced readings (R179). -/
def Sensor.index : Sensor → Nat
  | .queueHead => 0 | .preArrival => 1 | .cellArrival => 2 | .flashEntry => 3 | .flashEnd => 4
  | .accumulatorHead => 5 | .postArrival => 6 | .outfeedExit => 7
  | .shelf n => Config.lineSensorCount + n - 1

/-- The sensor of a place: of its arrival for a destination, of its head for a source (R15). -/
def Place.sensor : Place → Sensor
  | .queue => .queueHead | .preStation => .preArrival | .cell => .cellArrival | .flashBelt => .flashEntry
  | .accumulator => .accumulatorHead | .postStation => .postArrival | .outfeed => .outfeedExit
  | .shelf n => .shelf n

/-- The debounced reading of a sensor; `true` is occupied (R179). -/
def State.occupied (s : State) (x : Sensor) : Bool :=
  match s.io.sensors[Sensor.index x]? with
  | none => false
  | some d => d.reading

/-! ### The service of a request by its link interface -/

/-- What an owner answers: the status word and the fields after it (R167). -/
structure Reply where
  status : Status
  fields : List Field
  deriving DecidableEq, Repr

/-- An answer that is the status word alone (R167). -/
def Reply.bare (w : Status) : Reply := { status := w, fields := [] }

/-- A frame has ended: the interface searches for the next start mark (R163). -/
def LinkState.frameEnded (l : LinkState) : LinkState := { l with reception := .searching }

/-- Places taken in the answer list, with the place a request in service holds open (R165). -/
def LinkState.placesTaken (l : LinkState) : Nat := l.answers.length + (if l.inService then 1 else 0)

/-- The answer list has no room, so a completed frame is discarded (R165). -/
def LinkState.answersFull (l : LinkState) : Bool := decide (Config.answerCapacity ≤ l.placesTaken)

/-- An answer placed at the tail of the answer list (R165). -/
def LinkState.answer (l : LinkState) (x : Answer) : LinkState := { l with answers := l.answers ++ [x] }

/-- The answer of the request in service placed; the request is no longer in service (R165). -/
def LinkState.finish (l : LinkState) (x : Answer) : LinkState :=
  { l with inService := false, answers := l.answers ++ [x] }

/-- The effective level of a request (R166). -/
def State.effective (s : State) (q : Req) : Nat := max (s.strapped q.link) q.level

/-- The frame is judged by its request, not answered by the interface: there is room for its answer, no request of the
link is in service, the level field is 0 to 3 and the effective level is no weaker than required
(R164, R165, R166). -/
def State.accepts (s : State) (q : Req) (need : Nat) : Bool :=
  !(s.link q.link).answersFull && !(s.link q.link).inService && !q.overlaps && decide (q.level ≤ 3) &&
    decide (s.effective q ≤ need)

/-- A request frame completed on its link (R163 to R167). The interface returns to SEARCHING. A frame that meets a
full answer list is discarded. One that meets a request in service is answered LINK_BUSY; one whose level field is
not 0 to 3, FORMAT; one whose effective level is too weak, LEVEL with the required level. Otherwise the request is
in service, its owner carries it out with everything it causes, and its answer is placed. -/
def State.serve (s : State) (q : Req) (code need : Nat) (owner : Nat → State → State × Reply) : State :=
  let s := s.onLink q.link LinkState.frameEnded
  if (s.link q.link).answersFull then s
  else if (s.link q.link).inService || q.overlaps then
    s.onLink q.link (·.answer
      { code := code, level := s.strapped q.link, corr := q.corr, status := .linkBusy, fields := [] })
  else if 3 < q.level then
    s.onLink q.link (·.answer
      { code := code, level := s.strapped q.link, corr := q.corr, status := .format, fields := [] })
  else if need < s.effective q then
    s.onLink q.link (·.answer
      { code := code, level := s.effective q, corr := q.corr, status := .level, fields := [u1 need] })
  else
    let out := owner (s.effective q) (s.onLink q.link fun l => { l with inService := true })
    out.1.onLink q.link (·.finish
      { code := code, level := s.effective q, corr := q.corr, status := out.2.status, fields := out.2.fields })

/-- A request that finds its conditions met or not, as a step of the block: served, and the stack light set again
(R167, R182). -/
def request (q : Req) (code need : Nat) (owner : Nat → State → State × Reply) (s : State) :
    Host.Outcome State Fault Refusal :=
  .next (s.serve q code need owner).relight

/-- An event as a step of the block: its effect, and the stack light set again (R182). -/
def event (s : State) : Host.Outcome State Fault Refusal := .next s.relight

/-- A request that changes nothing of its owner's: the answer alone. -/
def reads (f : State → Reply) (s : State) : State × Reply := (s, f s)

/-- A refusal by the owner: the state as it was, and the status word with its fields (R167). -/
def refuse (s : State) (w : Status) (fields : List Field := []) : State × Reply :=
  (s, { status := w, fields := fields })

/-- An acceptance: the state after everything the request causes, and OK with its fields (R167). -/
def accept (s : State) (fields : List Field := []) : State × Reply := (s, { status := .ok, fields := fields })

end Sys2Proof.Machine
end

