-- ==== Sys2Proof/Machine/Transfers.lean ====
section
/-! DEFINITION. The shared operations by which a board moves over the indexing places: the counts and vacancies that permit a
move (R5, R15, R110, R133), the start and the end of a transfer (R16, R17), the opening of an inspection (R56,
R57, R137), retirement (R19), and the decisions of the two diverters (R72, R73, R140). -/

namespace Sys2Proof.Machine

/-! ### Places, gates and diverters -/

/-- The stage of a traveler at a place, or on its way to it; POST_INSPECT on the way to the outfeed (R3, R15). -/
def Place.stage : Place → Stage
  | .queue => .queued | .preStation => .preInspect | .cell => .spray | .flashBelt => .flash
  | .accumulator => .ovenExit | .postStation => .postInspect | .outfeed => .postInspect | .shelf _ => .shelved

/-- The gate opened or the diverter set for a transfer (R15). -/
def openWay (source dest : Place) (o : Outputs) : Outputs :=
  match source, dest with
  | .queue, _ => { o with infeedGate := true }
  | .preStation, .shelf _ => { o with preDiverter := .shelf }
  | .preStation, _ => { o with preDiverter := .line }
  | .cell, _ => { o with cellGate := true }
  | .accumulator, _ => { o with accumulatorGate := true }
  | .postStation, .shelf _ => { o with exitDiverter := .shelf }
  | .postStation, _ => { o with exitDiverter := .outfeed }
  | _, _ => o

/-- The gate closed or the diverter returned to its rest position (R17). -/
def closeWay (source : Place) (o : Outputs) : Outputs :=
  match source with
  | .queue => { o with infeedGate := false }
  | .preStation => { o with preDiverter := .rest }
  | .cell => { o with cellGate := false }
  | .accumulator => { o with accumulatorGate := false }
  | .postStation => { o with exitDiverter := .rest }
  | _ => o

/-- The slot of the most recently started transfer to the shelf still in the transfer list, or 0 (R180). -/
def slotSelectOf (l : List Transfer) : Nat :=
  l.foldl (fun n e => match e.dest with | .shelf k => k | _ => n) 0

/-- The shelf slot select outputs set again from the transfer list (R180). -/
def State.reselect (s : State) : State := s.onOutputs fun o => { o with slotSelect := slotSelectOf s.table.transfers }

/-! ### Counts and vacancies -/

/-- The transfer list entry of a traveler. -/
def State.transferOf (s : State) (t : Nat) : Option Transfer := s.table.transfers.find? fun e => e.traveler == t

/-- Some transfer list entry names the place as source or destination (R15). -/
def State.named (s : State) (p : Place) : Bool := s.table.transfers.any fun e => e.source == p || e.dest == p

/-- An indexing station is vacant: no traveler is PRESENT there and no transfer entry names it (R15). -/
def State.vacant (s : State) (p : Place) : Bool := (s.presentIn p.stage).isNone && !s.named p

/-- The infeed queue's occupancy (R5). -/
def State.occupancy (s : State) : Nat := s.table.queue.length + s.table.transfers.countP (·.source == .queue)

/-- The flash count (R110). -/
def State.flashCount (s : State) : Nat := s.cure.flash.length + s.table.transfers.countP (·.dest == .flashBelt)

/-- The exit count (R133). -/
def State.exitCount (s : State) : Nat := s.cure.exit.length + s.table.transfers.countP (·.source == .accumulator)

/-- Some live traveler is in a stage from FLASH to OVEN_EXIT, in either place state (R40, R112). -/
def inCureStages (r : Traveler) : Bool := r.stage == .flash || r.stage == .cure || r.stage == .ovenExit

/-- The stages past the infeed queue that keep the line in DRAIN (R9). -/
def pastQueue (r : Traveler) : Bool := r.stage != .queued && r.stage != .shelved

/-! ### The shelf slot map (R155) -/

/-- The lowest-numbered free slot. -/
def State.lowestFree (s : State) : Option Nat := firstNth (· == .free) s.holds.shelf

/-- A slot granted to a transfer: assigned, and named by the traveler's shelf slot field. -/
def State.assignSlot (s : State) (n t : Nat) : State :=
  (s.onHolds fun m => { m with shelf := putNth m.shelf n (.assigned t) }).onTraveler t fun r =>
    { r with shelfSlot := some n }

/-- The slot of a board that rests in it. -/
def State.restSlot (s : State) (n t : Nat) : State :=
  s.onHolds fun m => { m with shelf := putNth m.shelf n (.resting t) }

/-- Every slot that names the traveler becomes free. -/
def freeSlotsOf (t : Nat) (l : List ShelfSlot) : List ShelfSlot :=
  l.map fun x => if x = .assigned t ∨ x = .resting t then .free else x

/-- The traveler's slot freed, and its shelf slot field made absent. -/
def State.freeSlot (s : State) (t : Nat) : State :=
  (s.onHolds fun m => { m with shelf := freeSlotsOf t m.shelf }).onTraveler t fun r => { r with shelfSlot := none }

/-! ### Inspection records (R55) -/

def MaskUnit.record (m : MaskUnit) : Station → Option Inspection
  | .pre => m.pre | .post => m.post

def MaskUnit.setRecord (m : MaskUnit) (x : Station) (i : Option Inspection) : MaskUnit :=
  match x with
  | .pre => { m with pre := i }
  | .post => { m with post := i }

/-- The record of a station. -/
def State.record (s : State) (x : Station) : Option Inspection := s.mask.record x

def State.setRecord (s : State) (x : Station) (i : Option Inspection) : State := s.onMask (·.setRecord x i)

/-- The station whose record names the traveler. -/
def State.stationOf (s : State) (t : Nat) : Option Station :=
  if s.mask.pre.any (·.traveler == t) then some .pre
  else if s.mask.post.any (·.traveler == t) then some .post
  else none

/-- The configured timeout of a station's inspections (R56, R137). -/
def State.inspectTimeout (s : State) : Station → Nat
  | .pre => s.io.timeouts.pre
  | .post => s.io.timeouts.post

/-- The record created when a board becomes PRESENT at a station: OPEN, with its timer running and INSPECT_READY
posted (R56, R137); for a RE_CURE board at the PRE station, ENDED with end cause PASSED, no timer and no notice
(R57). -/
def State.openInspection (s : State) (x : Station) (t : Nat) : State :=
  match s.traveler t with
  | none => s
  | some r =>
    if x = .pre ∧ r.route = .reCure then
      s.setRecord x (some { traveler := t, phase := .ended .passed, opened := s.now, deadline := none })
    else
      let timeout := s.inspectTimeout x
      let recipe := s.recipeOf r
      (s.setRecord x (some
        { traveler := t, phase := .isOpen, opened := s.now, deadline := some (deadlineIn s.now timeout) })).post
        (.inspectReady x r.tag t r.recipe r.route timeout
          (if x = .pre then recipe.sites else []) (if x = .post then recipe.windows else []))

/-! ### The flash clock (R111) -/

/-- The flash time of a traveler; none while it has no spray end stamp. -/
def State.flashTime (s : State) (r : Traveler) : Option Nat := r.sprayEnd.map (elapsed s.now)

/-- The flash maximum of a traveler: that of its recipe; none on route RE_CURE. -/
def State.flashMaximum (s : State) (r : Traveler) : Option Nat :=
  if r.route = .reCure then none else ((s.recipeOf r).header).map (·.flashMax)

/-- The flash minimum of a traveler: that of its recipe; 0 on route RE_CURE. -/
def State.flashMinimum (s : State) (r : Traveler) : Nat :=
  if r.route = .reCure then 0 else (((s.recipeOf r).header).map (·.flashMin)).getD 0

/-- The traveler is in FLASH with its overdue mark clear and its flash time at its flash maximum. -/
def State.overdueDue (s : State) (t : Nat) : Bool :=
  match s.traveler t with
  | none => false
  | some r =>
    r.stage == .flash && !s.cure.overdue.contains t &&
      match s.flashTime r, s.flashMaximum r with
      | some now, some most => decide (most ≤ now)
      | _, _ => false

/-- The overdue mark set and FLASH_OVERDUE raised, where the flash time has reached the flash maximum. -/
def State.examineOverdue (s : State) (t : Nat) : State :=
  if s.overdueDue t then
    (s.onCure fun c => { c with overdue := c.overdue ++ [t] }).raiseHold t .flashOverdue .cureMonitor .flash
      (((s.traveler t).bind s.flashTime).map HoldDetail.flashTime)
  else s

/-- Every traveler in FLASH examined for its flash maximum, in the order of their numbers (R111; the order is a DESIGN
CHOICE, log 25). -/
def State.examineFlash (s : State) : State :=
  (List.range Config.travelerCount).foldl (fun s k => s.examineOverdue (k + 1)) s

/-! ### The admitted range (R114, R120) -/

/-- The intersection of the ranges of the entries whose forced form is NONE, or the drive's range. -/
def admittedRange (l : List OvenEntry) : Nat × Nat :=
  l.foldl (fun i e =>
    match e.form, e.range with
    | .none, some r => (max i.1 r.1, min i.2 r.2)
    | _, _ => i) (Config.beltMin, Config.beltMax)

/-- The entry of a board that leaves the oven list removed, and I recomputed from those that remain (R120). -/
def CureMonitor.dropOven (c : CureMonitor) (t : Nat) : CureMonitor :=
  if c.oven.any (·.traveler == t) then
    let rest := c.oven.filter fun e => e.traveler != t
    { c with oven := rest, rangeLow := (admittedRange rest).1, rangeHigh := (admittedRange rest).2,
             overCured := c.overCured.filter (· != t) }
  else c

/-- The value the setpoint output carries: 0 in HALT and while the oven is stalled, else the setpoint (R115). -/
def State.driveOutput (s : State) : State :=
  s.onCure fun c => { c with output := if s.mode = .halt ∨ c.stalled then 0 else c.setpoint }

/-! ### Retirement (R19) -/

/-- The cell left by a board: VACANT, with no traveler and no held results (R76, R77). -/
def StrokeEngine.vacate (e : StrokeEngine) : StrokeEngine :=
  { e with cell := .vacant, board := none, work := none }

/-- A live traveler retired: removed from every list and place that holds it, its tag and its use of the recipe slot
given back, its number appended to the free list, and BOARD_RETIRED posted. -/
def State.retire (s : State) (t : Nat) (outcome : RetireOutcome) : State :=
  match s.traveler t with
  | none => s
  | some r =>
    let s := s.onTable fun b =>
      { b with records := putNth b.records t none, free := b.free ++ [t],
               index := b.index.filter (fun e => e.2 != t), queue := b.queue.filter (· != t),
               transfers := b.transfers.filter (fun e => e.traveler != t) }
    let s := s.onRecipes fun st =>
      match nth st.slots r.recipe with
      | none => st
      | some x => { st with slots := putNth st.slots r.recipe { x with useCount := x.useCount - 1 } }
    let s := s.onMask fun m =>
      { pre := m.pre.filter (·.traveler != t), post := m.post.filter (·.traveler != t) }
    let s := s.onEngine fun e => if e.board = some t then e.vacate else e
    let s := s.onCure fun c =>
      let c := c.dropOven t
      { c with flash := c.flash.filter (· != t), overdue := c.overdue.filter (· != t),
               exit := c.exit.filter (· != t) }
    let s := s.onHolds fun m => { m with shelf := freeSlotsOf t m.shelf }
    s.reselect.post (.boardRetired r.tag t outcome)

/-! ### The start of a transfer (R16) -/

/-- The traveler leaves the list it waited in: the infeed queue or the exit list (R16). -/
def State.leaveSource (s : State) (t : Nat) (source : Place) : State :=
  match source with
  | .queue => s.onTable fun b => { b with queue := b.queue.filter (· != t) }
  | .accumulator => s.onCure fun c => { c with exit := c.exit.filter (· != t) }
  | _ => s

/-- What the destination's owner takes at the start: the cell becomes LOADING (R77), the slot is assigned (R155), a
new stay in FLASH begins with its overdue mark clear (R111). -/
def State.expect (s : State) (t : Nat) (dest : Place) : State :=
  match dest with
  | .cell => s.onEngine fun e => { e with cell := .loading, board := some t }
  | .shelf n => s.assignSlot n t
  | .flashBelt => s.onCure fun c => { c with overdue := c.overdue.filter (· != t) }
  | _ => s

/-- A transfer started (R16): the way opened, the entry created with its timer, the traveler out of its list and
ARRIVING in the stage of the transfer, BOARD_STAGE posted; at the start of a transfer into the flash belt every
traveler in FLASH is examined for its flash maximum (R111). -/
def State.beginTransfer (s : State) (t : Nat) (source dest : Place) : State :=
  let s := s.onOutputs (openWay source dest)
  let s := s.onTable fun b =>
    { b with transfers := b.transfers ++
        [{ traveler := t, source := source, dest := dest,
           deadline := some (deadlineIn s.now s.io.timeouts.transfer) }] }
  let s := (s.leaveSource t source).expect t dest
  let s := s.reselect.moveStage t dest.stage .arriving
  if dest = .flashBelt then s.examineFlash else s

/-! ### The end of a transfer (R17) -/

/-- The entry removed, and the slot select set again (R17, R180). -/
def State.removeTransfer (s : State) (t : Nat) : State :=
  (s.onTable fun b => { b with transfers := b.transfers.filter fun e => e.traveler != t }).reselect

/-- The inspection record of the station a transfer came from is removed at its end (R55, R75, R144). -/
def State.leaveStation (s : State) (source : Place) : State :=
  match source with
  | .preStation => s.setRecord .pre none
  | .postStation => s.setRecord .post none
  | _ => s

/-- The owner of the destination receives the board, all but the opening of an inspection (R17, R77, R110, R155). -/
def State.receive (s : State) (t : Nat) (dest : Place) : State :=
  match dest with
  | .cell => s.onEngine fun e => { e with cell := .ready, board := some t }
  | .flashBelt => (s.onCure fun c => { c with flash := c.flash ++ [t] }).onEngine StrokeEngine.vacate
  | .shelf n => s.restSlot n t
  | _ => s

/-- The board is at the destination of its transfer: retired DEPARTED at the outfeed (R144), else PRESENT there with
BOARD_STAGE posted and received by the owner. -/
def State.settle (s : State) (e : Transfer) : State :=
  if e.dest = .outfeed then s.retire e.traveler .departed
  else ((s.moveStage e.traveler e.dest.stage .present).leaveStation e.source).receive e.traveler e.dest

/-- The inspection of a board that has become PRESENT at an inspection station (R17, R55). -/
def State.inspectAt (s : State) (t : Nat) (dest : Place) : State :=
  match dest with
  | .preStation => s.openInspection .pre t
  | .postStation => s.openInspection .post t
  | _ => s

/-- A transfer ended (R17): timer stopped with its entry, way closed, board settled, inspection begun. -/
def State.finishTransfer (s : State) (e : Transfer) : State :=
  (((s.onOutputs (closeWay e.source)).removeTransfer e.traveler).settle e).inspectAt e.traveler e.dest

/-- The transfer of a traveler ends now: it has an entry whose destination sensor reads occupied, outside HALT
(R17). -/
def State.transferEnds (s : State) (t : Nat) : Option Transfer :=
  match s.transferOf t with
  | none => none
  | some e => if s.occupied e.dest.sensor && s.mode != .halt then some e else none

/-- A transfer started, and ended at once where the destination sensor already reads occupied (R16). -/
def State.startTransfer (s : State) (t : Nat) (source dest : Place) : State :=
  let s := s.beginTransfer t source dest
  match s.transferEnds t with
  | none => s
  | some e => s.finishTransfer e

/-! ### The diverters -/

/-- The board at a station that its diverter may decide for: the record is ENDED, its traveler is PRESENT at the
station and not the subject of a transfer, and no entry names the station (R72, R140, R15). -/
def State.awaiting (s : State) (x : Station) : Option (Nat × Traveler) :=
  let place := match x with | .pre => Place.preStation | .post => Place.postStation
  match s.record x with
  | none => none
  | some i =>
    match s.traveler i.traveler with
    | none => none
    | some r =>
      if i.phase != .isOpen && r.stage == place.stage && r.place == .present && !s.named place then
        some (i.traveler, r)
      else none

/-- Where the pre diverter sends the waiting board now (R72, R73): to the lowest free shelf slot where it has an OPEN
hold and at least 2 slots are free; to the spray cell where it has none and the cell is vacant; none: it waits. -/
def State.preDecision (s : State) : Option (Nat × Place) :=
  if s.mode = .run ∨ s.mode = .drain then
    match s.awaiting .pre with
    | none => none
    | some (t, r) =>
      if r.held then
        if 2 ≤ s.freeSlots then s.lowestFree.map fun n => (t, Place.shelf n) else none
      else if s.vacant .cell then some (t, .cell)
      else none
  else none

/-- Where the exit diverter sends the waiting board now (R140): to the lowest free shelf slot where it has an OPEN
hold and a slot is free; to the outfeed where it has none; none: it waits. -/
def State.exitDecision (s : State) : Option (Nat × Place) :=
  if s.mode = .halt then none
  else
    match s.awaiting .post with
    | none => none
    | some (t, r) =>
      if r.held then s.lowestFree.map fun n => (t, Place.shelf n)
      else some (t, .outfeed)

/-- The pre diverter decides; a decision that starts no transfer leaves the board waiting (R72). -/
def State.decidePre (s : State) : State :=
  match s.preDecision with
  | none => s
  | some (t, p) => s.startTransfer t .preStation p

/-- The exit diverter decides (R140). -/
def State.decideExit (s : State) : State :=
  match s.exitDecision with
  | none => s
  | some (t, p) => s.startTransfer t .postStation p

/-- A raise, a release or an ended inspection of traveler `t` handed to the diverter that waits for it (R74, R142,
R154). -/
def State.decideFor (s : State) (t : Nat) : State :=
  match s.stationOf t with
  | some .pre => s.decidePre
  | some .post => s.decideExit
  | none => s

/-- A risen free count handed to both diverters (R156), the exit diverter first (log 9). -/
def State.decideBoth (s : State) : State := s.decideExit.decidePre

/-- What the end of a transfer hands to the pre diverter: a RE_CURE board that has just arrived (R57), or the spray
cell become vacant (R74, R77). -/
def State.handArrival (s : State) (dest : Place) : State :=
  match dest with
  | .preStation | .flashBelt => s.decidePre
  | _ => s

end Sys2Proof.Machine
end

