-- ==== Sys2Proof/Machine/Dispense.lean ====
section
/-! DEFINITION. The dispense arithmetic (chapter 6) as exact integer computations, the Euclidean lengths of the gantry
(R91, R105), the age of a lot (R49), and the volume account (R51, R52). -/

namespace Sys2Proof.Machine

/-! ### Integer arithmetic (00_scope.md, Conventions) -/

/-- `ceil(a / b)` for a positive divisor. -/
def ceilDiv (a b : Nat) : Nat := (a + b - 1) / b

/-- `round(a / b)`: to nearest, a half up. -/
def roundDiv (a b : Nat) : Nat := (2 * a + b) / (2 * b)

/-- `v` clamped to `[lo, hi]`. -/
def clamp (lo hi v : Nat) : Nat := if v < lo then lo else if hi < v then hi else v

/-- The integer square root by halving: `rootBits k n` tries the bits below `k` from the highest down, on top of the
root `r` found so far. -/
def rootBits : Nat → Nat → Nat → Nat
  | 0, _, r => r
  | k + 1, n, r => rootBits k n (if (r + 2 ^ k) * (r + 2 ^ k) ≤ n then r + 2 ^ k else r)

/-- The greatest integer whose square is at most `n`. -/
def floorRoot (n : Nat) : Nat := rootBits (Nat.log2 n / 2 + 1) n 0

/-- The integer nearest to the square root of `n` (00_scope.md: a Euclidean length is rounded to nearest, and the
root is never half-way). -/
def nearestRoot (n : Nat) : Nat :=
  if n - floorRoot n * floorRoot n ≤ floorRoot n then floorRoot n else floorRoot n + 1

/-- The Euclidean length between two points, rounded to nearest (R91). -/
def distance (p q : Point) : Nat :=
  nearestRoot ((p.x - q.x).natAbs ^ 2 + (p.y - q.y).natAbs ^ 2 + (p.z - q.z).natAbs ^ 2)

/-! ### Lots -/

/-- The age of a lot in minutes: floor((now − mix stamp) / 60), limited to its pot life (R49). -/
def Lot.age (m : Lot) (now : Seconds) : Int := min (((now.toNat : Int) - m.mixStamp) / 60) m.potLife

/-- The pot life of a lot has run out (R50). -/
def Lot.overAge (m : Lot) (now : Seconds) : Bool := decide ((m.potLife : Int) * 60 ≤ (now.toNat : Int) - m.mixStamp)

/-- The lot record the head map names for a head, with its number (R45). -/
def LotTable.mountedOn (b : LotTable) (head : Nat) : Option (Nat × Lot) :=
  match (nth b.map head).join with
  | none => none
  | some n => ((nth b.records n).join).map fun m => (n, m)

/-- A lot record written. -/
def State.setLot (s : State) (n : Nat) (m : Lot) : State :=
  s.onLots fun b => { b with records := putNth b.records n (some m) }

/-- The low warning of a record: where the remaining volume is below the threshold and the flag is no, the flag is set
and LOT_LOW posted (R52). -/
def State.warnLow (s : State) (n : Nat) : State :=
  match (nth s.lots.records n).join with
  | none => s
  | some m =>
    if m.remaining < m.lowLimit ∧ m.lowWarned = false then
      (s.setLot n { m with lowWarned := true }).post (.lotLow m.head n m.id m.remaining m.lowLimit)
    else s

/-- A draw of `amount` nL from the lot on a head, out of the remaining and into the dispensed volume in one step, and
the low warning examined after it (R51, R52). -/
def State.draw (s : State) (head amount : Nat) : State :=
  match s.lots.mountedOn head with
  | none => s
  | some (n, m) =>
    (s.setLot n { m with remaining := m.remaining - amount, dispensed := m.dispensed + amount }).warnLow n

/-! ### The seven stages (R99 to R106) -/

/-- Stage 1, effective flow (R100). -/
def effectiveFlow (reference potLife derate : Nat) (age : Int) : Nat :=
  let f := ((reference : Int) * (100 * (potLife : Int) - (derate : Int) * age)) / (100 * (potLife : Int))
  if f = 0 then 1 else f.toNat

/-- Stage 2, fan width (R101). -/
def fanWidth (c : HeadConfig) (z : Nat) : Nat := clamp c.fanMin c.fanMax (roundDiv (c.fan * z) c.height)

/-- Stage 3, the ideal head speed before the clamp (R102). -/
def idealSpeed (flow fan thickness : Nat) : Nat := roundDiv (flow * 100000) (fan * thickness)

/-- Stage 3, the clamp mark (R102). -/
def clampMark (c : HeadConfig) (ideal : Nat) : ClampMark :=
  if ideal < c.vMin then .clampedLow else if c.vMax < ideal then .clampedHigh else .unclamped

/-- Stage 4, achieved thickness (R103). -/
def achievedThickness (flow fan speed : Nat) : Nat := roundDiv (flow * 100000) (fan * speed)

/-- Stage 5, deviation verdict (R104). -/
def deviationOf (thickness tolerance film : Nat) : Deviation :=
  if film < thickness * (100 - tolerance) / 100 then .thin
  else if thickness * (100 + tolerance) / 100 < film then .heavy
  else .nominal

/-- Stage 6, pass length (R105). -/
def passLength (x : Stroke) : Nat := nearestRoot ((x.startX - x.endX).natAbs ^ 2 + (x.startY - x.endY).natAbs ^ 2)

/-- The dispense arithmetic of a spraying stroke (R99 to R106). -/
def dispense (c : HeadConfig) (potLife derate : Nat) (age : Int) (x : Stroke) (w : Window) : Dispense :=
  let flow := effectiveFlow c.flow potLife derate age
  let fan := fanWidth c x.height
  let ideal := idealSpeed flow fan w.thickness
  let speed := clamp c.vMin c.vMax ideal
  let film := achievedThickness flow fan speed
  let duration := ceilDiv (passLength x * 1000) speed
  { flow := flow, fan := fan, speed := speed, mark := clampMark c ideal, film := film,
    verdict := deviationOf w.thickness w.tolerance film, duration := duration,
    passVolume := flow * duration, strokeVolume := x.passes * (flow * duration) }

end Sys2Proof.Machine
end

