-- ==== Sys2Proof/Machine/Stroke.lean ====
section
/-! DEFINITION. The shared operations of the stroke engine (chapter 5): the gantry port (R90 to R92), the spray valve (R88,
R89), the decisions a stroke is taken up by (R79 to R86), its passes (R87), the end of a program and the park
(R93), and what the engine does at a HALT and when the line leaves it (R95, R96). -/

namespace Sys2Proof.Machine

/-! ### The gantry port -/

/-- The expected time of a MOVE in ms (R91): its distance from the reference point at its speed, or the diagonal of the
travel limits where the reference point is unknown. -/
def StrokeEngine.moveTime (e : StrokeEngine) (target : Point) (speed : Nat) : Nat :=
  match e.reference, e.limits with
  | some p, _ => ceilDiv (distance p target * 1000) speed
  | none, some l =>
    ceilDiv (distance { x := l.xMin, y := l.yMin, z := l.zMin } { x := l.xMax, y := l.yMax, z := l.zMax } * 1000) speed
  | none, none => 0

/-- A message sent: the port waits for its answer for its expected time plus the gantry margin (R90, R91). -/
def State.send (s : State) (m : GantryMessage) (target : Option Point) (expected : Nat) : State :=
  let o : Outstanding := { message := m, target := target, budget := expected + s.io.timeouts.margin, elapsed := 0 }
  s.onEngine fun e => { e with port := .waiting o }

def State.sendMove (s : State) (head : Nat) (p : Point) (speed : Nat) : State :=
  s.send (.move head p speed) (some p) (s.engine.moveTime p speed)

/-- STOP: sent over an outstanding message or from LOST; the reference point is unknown after it (R90). -/
def State.sendStop (s : State) : State :=
  (s.send .stop none 0).onEngine fun e => { e with reference := none }

/-- MOVE with head 0 to the park point at the park speed (R93). -/
def State.sendPark (s : State) : State :=
  match s.engine.limits with
  | none => s
  | some l => s.sendMove 0 l.park l.parkSpeed

/-- The port becomes QUIET with a reference point, or with it unknown (R92). -/
def State.quiet (s : State) (reference : Option Point) : State :=
  s.onEngine fun e => { e with port := .quiet, reference := reference }

/-! ### The spray valve -/

/-- A valve output is open: the engine holds the valve of the head open and the E-stop input does not hold it shut
(R88, R181). -/
def State.valveOutput (s : State) (head : Nat) : Bool :=
  s.engine.valve.any (·.head == head) && !s.io.inputs.estopLow

/-- The close of an open valve (R88, R89): the draw of the effective flow times the actual open time is taken at the
close, and the line second of the close is kept for the spray end stamp (R93). -/
def State.closeValve (s : State) : State :=
  match s.engine.valve with
  | none => s
  | some v =>
    (s.onEngine fun e => { e with valve := none, lastClose := some s.now }).draw v.head (v.flow * v.openMs)

/-- The opening of the valve of a pass (R87), unless the E-stop input is recognised as asserted (R88; log 14). -/
def State.openValve (s : State) (head : Nat) (d : Dispense) : State :=
  if s.io.estop then s
  else
    let v : OpenValve := { head := head, flow := d.flow, duration := d.duration, openMs := 0 }
    s.onEngine fun e => { e with valve := some v }

/-! ### Stroke faults (R86) -/

/-- A stroke fault counted; the first of a program is kept and raises STROKE_FAULT. -/
def State.recordFault (s : State) (t stroke pass : Nat) (cause : StrokeFaultCause) : State :=
  match s.traveler t with
  | none => s
  | some r =>
    let first := if r.coat.faults = 0 then some { stroke := stroke, pass := pass, cause := cause } else r.coat.first
    let s := s.setTraveler t { r with coat := { r.coat with faults := r.coat.faults + 1, first := first } }
    if r.coat.faults = 0 then
      s.raiseHold t .strokeFault .strokeEngine .spray (some (.strokeFault stroke pass cause))
    else s

/-- A stroke skipped (R79). -/
def State.countSkipped (s : State) (t : Nat) : State :=
  s.onTraveler t fun r => { r with coat := { r.coat with skipped := r.coat.skipped + 1 } }

/-! ### The decisions of a stroke (R79) -/

/-- How taking up a stroke ended: it was skipped, it ended the program, or its first pass has begun. -/
inductive TakeUp where
  | skipped | programOver | runs
  deriving DecidableEq, Repr

/-- The verdict lets the dependent strokes spray (R64, R81). -/
def SiteVerdict.lets : SiteVerdict → Bool
  | .present | .notFitted => true
  | .unchecked | .absent | .damaged => false

/-- The site that stops a stroke at its mask dependency; none where the decision passes (R81). -/
def maskStop (r : Traveler) (w : Window) : Option Nat :=
  if w.mask = 0 then none
  else if ((nth r.sites w.mask).getD .unchecked).lets then none
  else some w.mask

/-- The configuration of a stroke's head where it is CONFIGURED and the spray height lies in its range (R82). -/
def LotTable.headFor (b : LotTable) (x : Stroke) : Option HeadConfig :=
  match (nth b.heads x.head).join with
  | none => none
  | some c => if within c.zMin c.zMax x.height then some c else none

/-- The material check (R83): the lot that passes it with the results of the arithmetic, or the first cause that
applies. The VOLUME test compares the remaining volume with the planned stroke volume. -/
def LotTable.material (b : LotTable) (now : Seconds) (kind : Nat) (c : HeadConfig) (x : Stroke) (w : Window) :
    Except MaterialCause (Lot × Dispense) :=
  match b.mountedOn x.head with
  | none => .error .noLot
  | some (_, m) =>
    if m.state = .expired then .error .expired
    else if m.kind ≠ kind then .error .kind
    else
      let d := dispense c m.potLife m.derate (m.age now) x w
      if m.remaining < d.strokeVolume then .error .volume else .ok (m, d)

/-- The two points of pass `k` in the board frame, from first to second (R87). -/
def Stroke.passPoints (x : Stroke) (k : Nat) : (Int × Int) × (Int × Int) :=
  let a := (x.startX + k * x.stepX, x.startY + k * x.stepY)
  let b := (x.endX + k * x.stepX, x.endY + k * x.stepY)
  if x.serpentine && k % 2 == 1 then (b, a) else (a, b)

/-- The offset added to a board's pass points: its fiducial offset, (0, 0) where it is absent or not found (R85). -/
def Traveler.shift (r : Traveler) : Int × Int :=
  match r.fiducial with
  | some (.offset dx dy) => (dx, dy)
  | _ => (0, 0)

/-- A board-frame point at spray height `z` in the machine frame (R85). -/
def translatePoint (l : GantryLimits) (shift p : Int × Int) (z : Nat) : Point :=
  { x := p.1 + shift.1 + l.origin.x, y := p.2 + shift.2 + l.origin.y, z := z + l.origin.z }

/-- The machine points of every pass of a stroke (R85). -/
def machinePasses (l : GantryLimits) (shift : Int × Int) (x : Stroke) : List (Point × Point) :=
  (List.range x.passes).map fun k =>
    (translatePoint l shift (x.passPoints k).1 x.height, translatePoint l shift (x.passPoints k).2 x.height)

/-- A machine point lies within the travel limits, ends included (R85). -/
def withinTravel (l : GantryLimits) (p : Point) : Bool :=
  withinInt l.xMin l.xMax p.x && withinInt l.yMin l.yMax p.y && withinInt l.zMin l.zMax p.z

/-- The number, from 0, of the first pass with a point outside the travel limits (R85). -/
def firstOutside (l : GantryLimits) (passes : List (Point × Point)) : Option Nat :=
  passes.findIdx? fun p => !(withinTravel l p.1 && withinTravel l p.2)

/-- Pass `k` of the stroke in work begins: MOVE to its start at the head's transit speed (R80, R87). -/
def State.startPass (s : State) (w : StrokeWork) (k : Nat) : State :=
  match w.passes[k]? with
  | none => s
  | some p =>
    (s.onEngine fun e => { e with work := some { w with phase := .toStart } }).sendMove w.head p.1 w.transit

/-- Steps 6 and 7: the translation and travel check (R85), and the passes begun. -/
def State.travelStep (s : State) (t k : Nat) (r : Traveler) (x : Stroke) (c : HeadConfig) (d : Option Dispense) :
    State × TakeUp :=
  match s.engine.limits with
  | none => (s, .programOver)
  | some l =>
    let passes := machinePasses l r.shift x
    match firstOutside l passes with
    | some p => ((s.countSkipped t).recordFault t k p .travel, .skipped)
    | none =>
      (s.startPass
        { stroke := k, head := x.head, transit := c.transit, results := d, passes := passes, phase := .toStart } 0,
       .runs)

/-- Steps 4 and 5 of a spraying stroke: material (R83), and the deviation verdict (R84), which never stops it. -/
def State.materialStep (s : State) (t k kind : Nat) (r : Traveler) (x : Stroke) (w : Window) (c : HeadConfig) :
    State × TakeUp :=
  match s.lots.material s.now kind c x w with
  | .error cause =>
    ((s.countSkipped t).raiseHold t .material .strokeEngine .spray (some (.material cause)), .programOver)
  | .ok (m, d) =>
    let s := s.onTraveler t fun r => { r with lotsUsed := putNth r.lotsUsed x.head (some m.id) }
    let s :=
      if d.verdict = .nominal then s
      else s.raiseHold t .coatDeviation .strokeEngine .spray (some (.deviation k d.verdict d.mark))
    s.travelStep t k r x c (some d)

/-- Step 3: the head check (R82). -/
def State.headStep (s : State) (t k : Nat) (x : Stroke) (next : HeadConfig → State × TakeUp) : State × TakeUp :=
  match s.lots.headFor x with
  | none => ((s.countSkipped t).recordFault t k 0 .head, .skipped)
  | some c => next c

/-- Stroke `k` of the traveler in the cell taken up (R79): the cursors set, then the decisions in their order; a dry
stroke takes steps 3, 6 and 7 only (R80). -/
def State.takeStroke (s : State) (t k : Nat) : State × TakeUp :=
  let s := s.onTraveler t fun r => { r with strokeCursor := k, passCursor := 0 }
  match s.traveler t with
  | none => (s, .programOver)
  | some r =>
    let recipe := s.recipeOf r
    match nth recipe.strokes k with
    | none => (s, .programOver)
    | some x =>
      if x.valveOn then
        match nth recipe.windows x.window, recipe.header with
        | some w, some h =>
          match maskStop r w with
          | some site =>
            ((s.countSkipped t).raiseHold t .partialCoat .strokeEngine .spray (some (.site site)), .skipped)
          | none => s.headStep t k x fun c => s.materialStep t k h.kind r x w c
        | _, _ => (s, .programOver)
      else s.headStep t k x fun c => s.travelStep t k r x c none

/-- A program is over (R93): program state DONE, the gantry sent to its park point, the cell PARKING. -/
def State.endProgram (s : State) (t : Nat) : State :=
  ((s.onTraveler t fun r => { r with program := .done }).onEngine fun e =>
    { e with cell := .parking, work := none }).sendPark

/-- Strokes taken up in list order from stroke `k`, `n` of them left in the program's range, until one runs or the
program is over (R79, R93). -/
def State.takeUp (t : Nat) : Nat → Nat → State → State
  | 0, _, s => s.endProgram t
  | n + 1, k, s =>
    match s.takeStroke t k with
    | (s', .skipped) => State.takeUp t n (k + 1) s'
    | (s', .programOver) => s'.endProgram t
    | (s', .runs) => s'

/-- First and last stroke of a traveler's program (R78). -/
def programRange (r : Traveler) (strokes : Nat) : Nat × Nat :=
  match r.route with
  | .touchUp f l => (f, l)
  | _ => (1, strokes)

/-- The last stroke of the program of traveler `t`. -/
def State.lastStroke (s : State) (t : Nat) : Nat :=
  match s.traveler t with
  | none => 0
  | some r => (programRange r (s.recipeOf r).strokes.length).2

/-- The pass in flight ended (R87): the pass cursor rises; the next pass begins, or the stroke counts as run and the
next stroke is taken up (R79). -/
def State.endPass (s : State) (t : Nat) (w : StrokeWork) : State :=
  match s.traveler t with
  | none => s
  | some r =>
    let s := s.setTraveler t { r with passCursor := r.passCursor + 1 }
    if r.passCursor + 1 < w.passes.length then s.startPass w (r.passCursor + 1)
    else
      let s := s.onTraveler t fun r => { r with coat := { r.coat with run := r.coat.run + 1 } }
      let s := s.onEngine fun e => { e with work := none }
      State.takeUp t (s.lastStroke t - w.stroke) (w.stroke + 1) s

/-- The gantry is parked (R93): the cell DONE and the spray end stamp set to the line second of the program's last
valve close, or now where no valve opened; a board aborted by a HALT keeps the stamp set there (R96). -/
def State.parked (s : State) : State :=
  match s.engine.cell, s.engine.board with
  | .parking, some t =>
    (s.onEngine fun e => { e with cell := .done }).onTraveler t fun r =>
      if r.program = .aborted then r else { r with sprayEnd := some (s.engine.lastClose.getD s.now) }
  | _, _ => s

/-! ### HALT and the way out of it -/

/-- STOP sent over an outstanding MOVE or PASS; nothing is sent where the port is QUIET or LOST or a STOP is already
outstanding (R95, R96). -/
def State.stopMotion (s : State) : State :=
  match s.engine.port with
  | .waiting o => if o.message = .stop then s else s.sendStop
  | .quiet | .lost => s

/-- SPRAY_INTERRUPTED raised with the cursors where the program stopped (R95). -/
def State.raiseInterrupted (s : State) (t : Nat) : State :=
  match s.traveler t with
  | none => s
  | some r =>
    s.raiseHold t .sprayInterrupted .strokeEngine .spray (some (.cursors r.strokeCursor r.passCursor))

/-- The entry into HALT in the stroke engine (R95, R96): a running program is aborted; a park MOVE is stopped; the
other cell states stand. -/
def State.haltEngine (s : State) : State :=
  match s.engine.cell, s.engine.board with
  | .running, some t =>
    let s := s.closeValve.stopMotion
    let s := s.onTraveler t fun r => { r with program := .aborted, sprayEnd := some s.now }
    (s.raiseInterrupted t).onEngine fun e => { e with cell := .aborted, work := none }
  | .parking, _ => s.stopMotion
  | _, _ => s

/-- With the port QUIET and the line out of HALT, an ABORTED or PARKING cell sends the park MOVE (R96). -/
def State.parkAgain (s : State) : State :=
  if s.mode ≠ .halt ∧ s.engine.port = .quiet ∧ (s.engine.cell = .aborted ∨ s.engine.cell = .parking) then
    (s.onEngine fun e => { e with cell := .parking }).sendPark
  else s

/-- The line leaves HALT by Recover (R96): a LOST port is sent STOP; a QUIET one parks the cell's board. -/
def State.leaveHaltEngine (s : State) : State :=
  if s.engine.port = .lost then s.sendStop else s.parkAgain

end Sys2Proof.Machine
end

