-- ==== Sys2Proof/Machine/OvenOps.lean ====
section
/-! DEFINITION. The shared operations of the cure monitor (chapters 7 and 8): board speed ranges (R113), the form of an
admission and the admission itself (R116 to R118), the belt's setpoint (R115), dose accrual and the over-cure test
(R128 to R131), the zone records (R125), the stall (R134, R135) and the move out of the oven (R132). -/

namespace Sys2Proof.Machine

/-! ### Speed ranges and the setpoint -/

/-- The speed range of a board (R113): none where it is unreachable. The kept length is in 0.1 mm, so
L_oven × 60 mm is six times it. -/
def speedRange (g : OvenGeometry) (h : Header) : Option (Nat × Nat) :=
  let low := clamp Config.beltMin Config.beltMax (ceilDiv (g.length * 6) h.dwellMax)
  let high := clamp Config.beltMin Config.beltMax (g.length * 6 / h.dwellMin)
  if low ≤ high then some (low, high) else none

/-- The setpoint given a value: SPEED_CHANGED posted when it changes, and the output follows (R115). -/
def State.setSpeed (s : State) (v : Nat) (cause : SpeedCause) : State :=
  let before := s.cure.setpoint
  let s := (s.onCure fun c => { c with setpoint := v }).driveOutput
  if before = v then s else s.post (.speedChanged before v cause)

/-- The voltage on the oven speed setpoint output, in mV: 5 mV per mm/min of the value it carries (R180). -/
def CureMonitor.millivolts (c : CureMonitor) : Nat := Config.millivoltsPerSpeed * c.output

/-! ### Admission -/

/-- The entry is clear (R116): the oven list is empty, or the tail board's trailing edge is at least the entry gap in. -/
def State.entryClear (s : State) (g : OvenGeometry) : Bool :=
  match s.cure.oven.getLast? with
  | none => true
  | some e =>
    match s.traveler e.traveler with
    | none => true
    | some r =>
      match r.lead, (s.recipeOf r).header with
      | some p, some h => decide ((g.gap : Int) ≤ (p : Int) - h.length)
      | _, _ => false

/-- An admission that may be taken: the board, its form and its range. -/
structure Admission where
  traveler : Nat
  form     : ForcedForm
  range    : Option (Nat × Nat)
  deriving DecidableEq, Repr

/-- The form of an admission (R117), taking the first case that applies; none: case 5, no admission. -/
def admissionForm (profile : Option Profile) (range : Option (Nat × Nat)) (low high : Nat) (overdue : Bool) :
    Option ForcedForm :=
  match profile, range with
  | none, _ => some .profile
  | some _, none => some .dwell
  | some _, some r =>
    if max r.1 low ≤ min r.2 high then some .none else if overdue then some .overdue else none

/-- The admission the head of the flash list may take now, all the conditions of R116 together. -/
def State.admission (s : State) : Option Admission :=
  match s.cure.flash, s.cure.geometry with
  | t :: _, some g =>
    match s.traveler t with
    | none => none
    | some r =>
      match (s.recipeOf r).header with
      | none => none
      | some h =>
        let range := speedRange g h
        let waited := (s.flashTime r).any fun x => decide (s.flashMinimum r ≤ x)
        if s.mode ≠ .halt ∧ s.cure.oven.length < Config.ovenCapacity ∧ s.entryClear g = true ∧
            s.cure.stopUp = true ∧ s.occupied .flashEnd = true ∧ waited = true then
          (admissionForm (s.profileOf r) range s.cure.rangeLow s.cure.rangeHigh (s.cure.overdue.contains t)).map
            fun f => { traveler := t, form := f, range := range }
        else none
  | _, _ => none

/-- The hold of a forced form, raised before the stage changes (R117, R118). -/
def State.raiseForced (s : State) (t : Nat) (form : ForcedForm) : State :=
  match form with
  | .profile => s.raiseHold t .cureUnverified .cureMonitor .flash (some (.unverified .profile))
  | .dwell => s.raiseHold t .cureUnverified .cureMonitor .flash (some (.unverified .dwell))
  | .none | .overdue => s

/-- I narrowed by an ordinary admission (R118, step 4). -/
def CureMonitor.narrow (c : CureMonitor) (form : ForcedForm) (range : Option (Nat × Nat)) : CureMonitor :=
  match form, range with
  | .none, some r => { c with rangeLow := max c.rangeLow r.1, rangeHigh := min c.rangeHigh r.2 }
  | _, _ => c

/-- An admission carried out in the order of R118. -/
def State.admitBoard (s : State) (a : Admission) : State :=
  let t := a.traveler
  let s := s.raiseForced t a.form
  let s := s.onCure fun c =>
    { c with flash := c.flash.filter (· != t), overdue := c.overdue.filter (· != t),
             overCured := c.overCured.filter (· != t), stopUp := false,
             oven := c.oven ++ [{ traveler := t, stamp := s.now, range := a.range, form := a.form }] }
  let s := s.onTraveler t fun r => { r with lead := some 0, passDose := 0, forced := a.form != .none }
  let s := s.moveStage t .cure .present
  let s := s.onCure (·.narrow a.form a.range)
  s.setSpeed (clamp s.cure.rangeLow s.cure.rangeHigh s.cure.setpoint) .admission

/-! ### Zone records -/

/-- The range of a valid temperature, −50 to 450 °C, tested on the reading with its fraction (R124, log 20). -/
def withinTemperature (r : Rat) : Bool := decide (-50 ≤ r) && decide (r ≤ 450)

/-- A reading in whole °C, its fraction dropped toward zero (R124). -/
def wholeDegrees (r : Rat) : Int := r.num.tdiv r.den

/-- A sample is valid (R124). -/
def validSample (x : ChannelSignals) : Bool := x.answered && x.checked && !x.faulted && withinTemperature x.reading

/-- The sample of one channel: the value of a valid one, none for an invalid one (R124). -/
def channelSample (x : ChannelSignals) : Option Int :=
  if validSample x then some (wholeDegrees x.reading) else none

/-- What a sample makes of a zone record (R125); `none` is an invalid sample. -/
def Zone.sample (z : Zone) (x : Option Int) : Zone :=
  match z.state, x with
  | .normal, some v => { z with last := some v }
  | .normal, none => { z with state := .holding, invalidRun := 1 }
  | .holding, some v => { z with state := .normal, invalidRun := 0, last := some v }
  | .holding, none =>
    if Config.zoneFailRun ≤ z.invalidRun + 1 then
      { z with state := .failed, invalidRun := z.invalidRun + 1, validRun := 0 }
    else { z with invalidRun := z.invalidRun + 1 }
  | .failed, some v =>
    if Config.zoneRestoreRun ≤ z.validRun + 1 then
      { state := .normal, last := some v, invalidRun := 0, validRun := 0 }
    else { z with last := some v, validRun := z.validRun + 1 }
  | .failed, none => { z with validRun := 0 }

/-- The value of a zone used for dose: none while it is FAILED (R126). -/
def Zone.value (z : Zone) : Option Int := if z.state = .failed then none else z.last

/-- One sample handed to the record of zone `k`, with the notice of its failure or restoration (R125). -/
def State.sampleZone (s : State) (k : Nat) (x : Option Int) : State :=
  match nth s.cure.zones k with
  | none => s
  | some z =>
    let after := z.sample x
    let s := s.onCure fun c => { c with zones := putNth c.zones k after }
    if z.state ≠ .failed ∧ after.state = .failed then s.post (.zoneFailed k after.last)
    else
      match z.state, after.state, after.last with
      | .failed, .normal, some v => s.post (.zoneRestored k v)
      | _, _, _ => s

/-- A sampling round (R124): one sample to each zone from 1 on; a zone whose channel delivered nothing has an invalid
sample. -/
def State.sampleFrom (k : Nat) : Nat → List ChannelSignals → State → State
  | 0, _, s => s
  | n + 1, [], s => State.sampleFrom (k + 1) n [] (s.sampleZone k none)
  | n + 1, x :: rest, s =>
    State.sampleFrom (k + 1) n rest (s.sampleZone k (channelSample x))

/-! ### Dose -/

/-- A board's centre in 0.1 mm from the oven entry: its lead position minus half its length by floor (R127). -/
def centre (lead length : Nat) : Int := (lead : Int) - (length / 2 : Nat)

/-- The weight a profile gives a temperature (R128, step 4). -/
def Profile.weight (p : Profile) (t : Int) : Nat :=
  if t < p.base then 0 else (p.weights[min ((t - p.base) / 5).toNat 15]?).getD 0

/-- A dose raised, saturating (R130). -/
def addDose (d w : Nat) : Nat := min (d + w) Config.doseMax

/-- What a second tick gives a board in CURE (R128, steps 1 to 4): nothing, the weight of its zone, or a failed zone. -/
inductive Accrual where
  | nothing
  | weight (w : Nat)
  | failedZone (zone : Nat)
  deriving DecidableEq, Repr

/-- The accrual of a board at a tick (R128). -/
def State.accrual (s : State) (e : OvenEntry) (r : Traveler) : Accrual :=
  match s.cure.geometry, r.lead, (s.recipeOf r).header with
  | some g, some lead, some h =>
    let c := centre lead h.length
    if c < 0 ∨ (g.length : Int) ≤ c then .nothing
    else
      match firstNth (fun b => decide (c < (b : Int))) g.bounds with
      | none => .nothing
      | some k =>
        match (nth s.cure.zones k).bind Zone.value with
        | none => .failedZone k
        | some t =>
          if e.form = .profile then .weight 1
          else
            match s.profileOf r with
            | none => .weight 0
            | some p => .weight (Profile.weight p t)
  | _, _, _ => .nothing

/-- The over-cure test (R131), made at every tick while the mark is clear; an equal dose is not an excess. -/
def State.testOverCure (s : State) (e : OvenEntry) : State :=
  match s.traveler e.traveler with
  | none => s
  | some r =>
    match s.profileOf r with
    | none => s
    | some p =>
      if e.form ≠ .profile ∧ s.cure.overCured.contains e.traveler = false ∧
          (p.passMax < r.passDose ∨ p.lifeMax < r.lifeDose) then
        let bound : DoseBound := if p.passMax < r.passDose then .pass else .life
        let s := s.onCure fun c => { c with overCured := c.overCured ++ [e.traveler] }
        let s := s.raiseHold e.traveler .overCure .cureMonitor .cure (some (.overCure bound r.passDose r.lifeDose))
        s.post (.overcure r.tag e.traveler r.passDose r.lifeDose bound)
      else s

/-- The dose accrual of one board at a second tick, with its over-cure test (R128, R129). -/
def State.accrue (s : State) (e : OvenEntry) : State :=
  match s.traveler e.traveler with
  | none => s
  | some r =>
    let s :=
      match s.accrual e r with
      | .nothing => s
      | .weight w =>
        s.setTraveler e.traveler { r with passDose := addDose r.passDose w, lifeDose := addDose r.lifeDose w }
      | .failedZone k =>
        s.raiseHold e.traveler .cureUnverified .cureMonitor .cure (some (.unverified (.zone k)))
    s.testOverCure e

/-! ### The oven end -/

/-- The head of the oven list where its board has reached the oven end (R132). -/
def State.atOvenEnd (s : State) : Option OvenEntry :=
  match s.cure.oven, s.cure.geometry with
  | e :: _, some g =>
    match (s.traveler e.traveler).bind (·.lead) with
    | none => none
    | some lead => if g.length ≤ lead then some e else none
  | _, _ => none

/-- The oven stalls when, outside HALT, a board waits at the oven end and the exit count is 2 (R134). -/
def State.examineStall (s : State) : State :=
  match s.atOvenEnd with
  | none => s
  | some e =>
    if s.mode ≠ .halt ∧ s.cure.stalled = false ∧ Config.exitCapacity ≤ s.exitCount then
      ((s.onCure fun c => { c with stalled := true }).driveOutput).post (.ovenStall (s.tagOf e.traveler) e.traveler)
    else s

/-- The board that may move to the exit accumulator now (R132). -/
def State.exitMove (s : State) : Option OvenEntry :=
  match s.atOvenEnd with
  | none => none
  | some e => if s.mode ≠ .halt ∧ s.exitCount < Config.exitCapacity then some e else none

/-- The exit verdict (R132, step 3): UNDER_CURE where the pass dose is below the Dreq of the profile. -/
def State.exitVerdict (s : State) (e : OvenEntry) : State :=
  match s.traveler e.traveler with
  | none => s
  | some r =>
    match s.profileOf r with
    | none => s
    | some p =>
      if e.form ≠ .profile ∧ r.passDose < p.required then
        s.raiseHold e.traveler .underCure .cureMonitor .ovenExit (some (.underCure r.passDose p.required))
      else s

/-- The end of a stall (R135): the mark cleared, the output driven again, OVEN_RESUME posted. -/
def State.endStall (s : State) (t : Nat) : State :=
  if s.cure.stalled then
    let s := (s.onCure fun c => { c with stalled := false }).driveOutput
    s.post (.ovenResume (s.tagOf t) t s.cure.output)
  else s

/-- The move of the oven's head board to the exit accumulator, in the order of R132. -/
def State.moveOut (s : State) (e : OvenEntry) : State :=
  let t := e.traveler
  let s := s.onCure fun c =>
    let c := c.dropOven t
    { c with exit := c.exit ++ [t] }
  let s := s.onTraveler t fun r => { r with lead := none }
  let s := s.moveStage t .ovenExit .present
  (s.exitVerdict e).endStall t

end Sys2Proof.Machine
end

