-- ==== Sys2Proof/Machine/Encode.lean ====
section
/-! DEFINITION. The encoding of the links (R162): a field's bytes, the CRC and the layout of a frame, the fields of a
traveler, a hold, a notice and an answer. -/

namespace Sys2Proof.Machine

/-! ### Bytes and frames -/

/-- The `width` low bytes of an integer, low byte first, in two's complement (R162). -/
def leBytes : Nat → Int → List Byte
  | 0, _ => []
  | w + 1, v => BitVec.ofInt 8 v :: leBytes w (v / 256)

/-- The bytes of a field (field type table). -/
def Field.bytes : Field → List Byte
  | .int w v => leBytes w v
  | .word c => [BitVec.ofNat 8 c]
  | .text t => BitVec.ofNat 8 t.length :: t
  | .count n => [BitVec.ofNat 8 n]
  | .presence b => [if b then 1 else 0]

def bodyBytes (l : List Field) : List Byte := l.flatMap Field.bytes

/-- `n` bits shifted into the CRC, most significant first, with x¹⁶ + x¹² + x⁵ + 1 (R162). -/
def crcBits : Nat → BitVec 16 → BitVec 16
  | 0, c => c
  | n + 1, c => crcBits n (if c.msb then (c <<< 1) ^^^ 0x1021#16 else c <<< 1)

/-- The CRC-16 of a list of bytes: initial value FFFF, no inversion (R162). -/
def crc16 (l : List Byte) : BitVec 16 :=
  l.foldl (fun c b => crcBits 8 (c ^^^ (BitVec.setWidth 16 b <<< (8 : Nat)))) 0xFFFF#16

/-- The start mark (frame table). -/
def startMark : Byte := 0xA5#8

/-- A frame as it stands on a link (frame table): start mark, length, request code, level, correlation, body, CRC. -/
def frameBytes (code level : Nat) (corr : Byte) (body : List Byte) : List Byte :=
  let covered := leBytes 2 (3 + body.length : Nat) ++ BitVec.ofNat 8 code :: BitVec.ofNat 8 level :: corr :: body
  startMark :: covered ++ leBytes 2 (crc16 covered).toNat

/-- The frame an answer leaves the link as (R162): the status word leads its body. -/
def Answer.frame (x : Answer) : List Byte :=
  frameBytes x.code x.level x.corr (bodyBytes (.word x.status.code :: x.fields))

/-! ### Fields of the records -/

/-- A route: its word, with the first and last stroke of a TOUCH_UP (1.1). -/
def routeFields : Route → List Field
  | .full => [.word 0]
  | .touchUp f l => [.word 1, u1 f, u1 l]
  | .reCure => [.word 2]

/-- The cause of a stroke fault, a GANTRY fault with its code (R86). -/
def strokeCauseFields (c : StrokeFaultCause) : List Field :=
  match c with
  | .gantry code => [.word c.code, u1 code]
  | .head | .travel => [.word c.code]

/-- A hold's detail, in the form of the reason table (10.1). How the zone number that a CURE_UNVERIFIED may carry is told
from PROFILE and DWELL is left open there: it is sent as a third word, 2, and the zone in one byte after it (DESIGN
CHOICE, log 12). -/
def HoldDetail.fields : HoldDetail → List Field
  | .site n => [u1 n]
  | .fiducial c => [.word c.code]
  | .station x => [.word (Station.code x)]
  | .strokeFault k p c => [u1 k, u1 p] ++ strokeCauseFields c
  | .deviation k v m => [u1 k, .word v.code, .word m.code]
  | .cursors k p => [u1 k, u1 p]
  | .material c => [.word c.code]
  | .flashTime n => [u4 n]
  | .underCure d r => [u4 d, u4 r]
  | .overCure b p l => [.word b.code, u4 p, u4 l]
  | .unverified .profile => [.word 0]
  | .unverified .dwell => [.word 1]
  | .unverified (.zone k) => [.word 2, u1 k]
  | .coverage w v => [u1 w, .word v.code]
  | .note n => [u2 n]

/-- A hold record (R148). -/
def Hold.fields (h : Hold) : List Field :=
  [.word h.reason.code, .word h.state.code, .word h.raisedBy.code, .word h.stage.code, uTime h.stamp, u1 h.level] ++
    optional HoldDetail.fields h.detail ++ [u2 h.count] ++
    optional (fun l => [.word (Link.code l)]) h.releasedBy ++ optional (fun t => [uTime t]) h.releasedStamp

/-- A claim field: the word none, or the link (1.1: none, A, B, C). -/
def claimCode : Option Link → Nat
  | none => 0
  | some l => 1 + Link.code l

/-- A fiducial offset: found YES with its components, or NO (R63). -/
def fiducialFields : Fiducial → List Field
  | .offset dx dy => [.word 0, i2 dx, i2 dy]
  | .notFound => [.word 1]

def strokeFaultFields (x : StrokeFault) : List Field := [u1 x.stroke, u1 x.pass] ++ strokeCauseFields x.cause

/-- Every field of a live traveler, in the order of the field table (R21). -/
def travelerFields (t : Nat) (r : Traveler) : List Field :=
  [u1 t, .text r.tag, u1 r.recipe] ++ routeFields r.route ++
    [.word r.stage.code, .word r.place.code, uTime r.inducted, .word (claimCode r.claim)] ++
    optional fiducialFields r.fiducial ++ listOf (fun v => [.word (SiteVerdict.code v)]) r.sites ++
    [.word r.program.code, u1 r.strokeCursor, u1 r.passCursor, u1 r.coat.run, u1 r.coat.skipped, u1 r.coat.faults] ++
    optional strokeFaultFields r.coat.first ++ r.lotsUsed.flatMap (optional fun id => [.text id]) ++
    optional (fun x => [uTime x]) r.sprayEnd ++ [.word (yesNoCode r.forced)] ++
    optional (fun n => [u4 n]) r.lead ++ [u4 r.passDose, u4 r.lifeDose] ++
    listOf (fun v => [.word (CoverageVerdict.code v)]) r.coverage ++ listOf Hold.fields r.holds ++
    optional (fun n => [u1 n]) r.shelfSlot

/-! ### Notices -/

/-- A notice kind's row in the notice table, counted from 0 (R162). -/
def NoticeKind.row : NoticeKind → Nat
  | .overcure .. => 0 | .zoneFailed .. => 1 | .zoneRestored .. => 2 | .ovenStall .. => 3 | .ovenResume .. => 4
  | .lotExpired .. => 5 | .halted .. => 6 | .holdRaised .. => 7 | .holdReleased .. => 8 | .inspectReady .. => 9
  | .inspectAbandoned .. => 10 | .lotMounted .. => 11 | .lotLow .. => 12 | .boardInducted .. => 13
  | .boardStage .. => 14 | .boardRetired .. => 15 | .modeChanged .. => 16 | .speedChanged .. => 17
  | .lineCleared => 18

/-- A halt detail (R7). -/
def HaltDetail.fields : HaltDetail → List Field
  | .link l => [.word (Link.code l)]
  | .board tag t => [.text tag, u1 t]

/-- A list of records, each with its number. R38 says of a page of GetRecipe only "each with its number"; that the number
stands before the record's fields there is a DESIGN CHOICE (log 12). The lists of INSPECT_READY put it first (R56). -/
def numbered {α : Type} (f : α → List Field) (first : Nat) (l : List α) : List Field :=
  .count l.length :: (l.zipIdx first).flatMap fun x => u1 x.2 :: f x.1

def siteFields (x : MaskSite) : List Field := [.word x.kind.code, .word x.policy.code, i2 x.x, i2 x.y]
def rectangleFields (w : Window) : List Field := [i2 w.x0, i2 w.y0, i2 w.x1, i2 w.y1]

/-- The fields of each notice kind (notice table of 11.4). Which of the fields that a record may hold as none, but that
are never none in the notice, carry a presence byte is left open (R162): HALTED's cause and ZONE_RESTORED's value are
sent without one, ZONE_FAILED's last value and HOLD_RAISED's detail with one (DESIGN CHOICE, log 12). -/
def NoticeKind.fields : NoticeKind → List Field
  | .overcure tag t p l b => [.text tag, u1 t, u4 p, u4 l, .word b.code]
  | .zoneFailed k v => u1 k :: optional (fun x => [i2 x]) v
  | .zoneRestored k v => [u1 k, i2 v]
  | .ovenStall tag t => [.text tag, u1 t]
  | .ovenResume tag t v => [.text tag, u1 t, u2 v]
  | .lotExpired h n id => [u1 h, u1 n, .text id]
  | .halted c d => .word c.code :: optional HaltDetail.fields d
  | .holdRaised tag t r who g level d =>
    [.text tag, u1 t, .word r.code, .word who.code, .word g.code, u1 level] ++ optional HoldDetail.fields d
  | .holdReleased tag t r l level n => [.text tag, u1 t, .word r.code, .word (Link.code l), u1 level, u2 n]
  | .inspectReady x tag t k route timeout sites windows =>
    [.word (Station.code x), .text tag, u1 t, u1 k] ++ routeFields route ++ [u1 timeout] ++
      (if x = .pre then numbered siteFields 1 sites else numbered rectangleFields 1 windows)
  | .inspectAbandoned x tag t l n =>
    [.word (Station.code x), .text tag, u1 t] ++ optional (fun l => [.word (Link.code l)]) l ++ [u1 n]
  | .lotMounted h n id kind charge age => [u1 h, u1 n, .text id, u1 kind, u4 charge, u2 age]
  | .lotLow h n id rem low => [u1 h, u1 n, .text id, i4 rem, i4 low]
  | .boardInducted tag t k => [.text tag, u1 t, u1 k]
  | .boardStage tag t before after p => [.text tag, u1 t, .word before.code, .word after.code, .word p.code]
  | .boardRetired tag t o => [.text tag, u1 t, .word o.code]
  | .modeChanged before after => [.word before.code, .word after.code]
  | .speedChanged before after c => [u2 before, u2 after, .word c.code]
  | .lineCleared => []

/-- A notice in an answer (11.4): serial, stamp, class, kind, then the fields of its kind. -/
def Notice.fields (n : Notice) : List Field :=
  [uTime n.serial, uTime n.stamp, .word n.kind.cls.code, .word n.kind.row] ++ n.kind.fields

/-- The bytes a notice takes in an answer body. -/
def Notice.size (n : Notice) : Nat := (bodyBytes n.fields).length

/-! ### Fields of recipes, profiles, heads -/

def headerFields (h : Header) : List Field :=
  [.text h.name, u2 h.revision, u2 h.length, u2 h.width, u1 h.kind, u2 h.flashMin, u2 h.flashMax, u2 h.dwellMin,
    u2 h.dwellMax, u1 h.profile]

def windowFields (w : Window) : List Field := rectangleFields w ++ [u2 w.thickness, u1 w.tolerance, u1 w.mask]

/-- Serpentine is yes or no, the valve ON or OFF, each with its first word 0 (2.2). -/
def strokeFields (x : Stroke) : List Field :=
  [u1 x.head, u1 x.window, i2 x.startX, i2 x.startY, i2 x.endX, i2 x.endY, u2 x.height, u1 x.passes, i2 x.stepX,
    i2 x.stepY, .word (yesNoCode x.serpentine), .word (yesNoCode x.valveOn)]

/-- A cure profile's fields (R39); the sixteen weights stand one byte each, with no count (DESIGN CHOICE, log 12). -/
def profileFields (p : Profile) : List Field :=
  u1 p.base :: p.weights.map u1 ++ [u4 p.required, u4 p.passMax, u4 p.lifeMax]

def headFields (c : HeadConfig) : List Field :=
  [u2 c.flow, u2 c.fan, u2 c.height, u2 c.zMin, u2 c.zMax, u2 c.fanMin, u2 c.fanMax, u2 c.vMin, u2 c.vMax,
    u2 c.transit]

def pointFields (p : Point) : List Field := [i4 p.x, i4 p.y, i4 p.z]

def gantryFields (l : GantryLimits) : List Field :=
  [i4 l.xMin, i4 l.xMax, i4 l.yMin, i4 l.yMax, i4 l.zMin, i4 l.zMax] ++ pointFields l.origin ++ pointFields l.park ++
    [u2 l.parkSpeed]

def timeoutFields (t : Timeouts) : List Field :=
  [u1 t.transfer, u1 t.pre, u1 t.post, u2 t.margin, u1 t.fiducial, u2 t.reload]

end Sys2Proof.Machine
end

