-- ==== Sys2Proof/Machine/LineModes.lean ====
section
/-! DEFINITION. The line mode (R7, R9, R10), the entry into HALT with what every block does at it (R10, R11, R95, R96), and
the resolution of transfers by Recover (R13). -/

namespace Sys2Proof.Machine

/-- A change of line mode, with its cause and detail, and its MODE_CHANGED notice (R7). -/
def State.setMode (s : State) (m : LineMode) (cause : Option HaltCause) (detail : Option HaltDetail) : State :=
  (s.onTable fun b => { b with mode := m, cause := cause, detail := detail }).post (.modeChanged s.mode m)

/-- On entry into HALT every transfer timer is stopped and every gate and diverter that an unfinished transfer had
opened is closed (R11). -/
def State.haltTransfers (s : State) : State :=
  (s.onOutputs fun o => s.table.transfers.foldl (fun o e => closeWay e.source o) o).onTable fun b =>
    { b with transfers := b.transfers.map fun e => { e with deadline := none } }

/-- The entry into HALT (R10): mode, cause and detail, the notices of R7, and HALT applied by every block. In HALT the
first entry's cause is kept and nothing is posted. -/
def State.enterHalt (s : State) (cause : HaltCause) (detail : Option HaltDetail) : State :=
  if s.mode = .halt then s
  else
    (((s.setMode .halt (some cause) detail).post (.halted cause detail)).haltEngine).driveOutput.haltTransfers

/-- No live traveler is past the infeed queue (R9). -/
def State.lineEmpty (s : State) : Bool := !s.anyTraveler pastQueue

/-- In DRAIN, with the line past the infeed queue empty, the mode becomes IDLE (R9). -/
def State.drainDone (s : State) : State :=
  if s.mode = .drain ∧ s.lineEmpty = true then s.setMode .idle none none else s

/-! ### Recover (R13) -/

/-- An unfinished transfer returned to its source (R13, second case): the slot or the cell it was bound for is given
back, the overdue mark dropped, and the board rejoins the head of the list it left. -/
def State.returnBoard (s : State) (e : Transfer) : State :=
  let t := e.traveler
  let s :=
    match e.dest with
    | .shelf _ => s.freeSlot t
    | .cell => s.onEngine StrokeEngine.vacate
    | .flashBelt => s.onCure fun c => { c with overdue := c.overdue.filter (· != t) }
    | _ => s
  let s :=
    match e.source with
    | .queue => s.onTable fun b => { b with queue := t :: b.queue }
    | .accumulator => s.onCure fun c => { c with exit := t :: c.exit }
    | _ => s
  s.moveStage t e.source.stage .present

/-- One entry of the transfer list resolved from its two sensors (R13): arrived, returned, or LOST. The inspection of
a board found at a station is begun after the mode has changed (R56, R137). -/
def State.resolve (s : State) (e : Transfer) : State :=
  let s := s.removeTransfer e.traveler
  if s.occupied e.dest.sensor then s.settle e
  else if s.occupied e.source.sensor then s.returnBoard e
  else s.retire e.traveler .lost

/-- The inspection of a board that Recover found at its station (R55, R56, R137). -/
def State.inspectFound (s : State) (e : Transfer) : State :=
  if s.occupied e.dest.sensor then s.inspectAt e.traveler e.dest else s

/-- Recover out of HALT (R12): every transfer resolved, then cause, detail and mode, then what the change to IDLE lets
happen: inspections begun, the belt's output and stall examined (R115, R134), the gantry brought back (R96), the exit
diverter's decision (R142). -/
def State.recoverLine (s : State) : State :=
  let found := s.table.transfers
  let s := found.foldl State.resolve s
  let s := s.setMode .idle none none
  let s := found.foldl State.inspectFound s
  s.driveOutput.examineStall.leaveHaltEngine.decideExit

end Sys2Proof.Machine
end

