-- ==== Sys2Proof/Machine/BoardFlow.lean ====
section
/-! DEFINITION. The meanings of the traveler table's commands (chapter 1): Induct, Start, Drain, Halt, Recover, ClearLine,
GetLine, GetTraveler, ListTravelers, and the events QUEUE_RELEASE, TRANSFER_END, TRANSFER_TIMER_EXPIRY, ESTOP_TAKEN
and DRAIN_COMPLETE. -/

namespace Sys2Proof.Machine

/-! ### Induct (R4) -/

/-- The traveler an induction creates (R4). -/
def freshTraveler (now : Seconds) (heads : Nat) (tag : Text) (slot : Nat) (recipe : RecipeSlot) : Traveler :=
  { tag := tag, recipe := slot, route := .full, stage := .queued, place := .present, inducted := now, claim := none,
    fiducial := none, sites := List.replicate recipe.sites.length .unchecked, program := .notStarted,
    strokeCursor := 0, passCursor := 0, coat := { run := 0, skipped := 0, faults := 0, first := none },
    lotsUsed := List.replicate heads none, sprayEnd := none, forced := false, lead := none, passDose := 0,
    lifeDose := 0, coverage := List.replicate recipe.windows.length .unchecked, holds := [], shelfSlot := none }

/-- A new traveler in the record at the head of the free list, its tag indexed, at the tail of the infeed queue, its
recipe slot's use counted and BOARD_INDUCTED posted (R4). -/
def State.inductBoard (s : State) (t : Nat) (rest : List Nat) (tag : Text) (slot : Nat) (x : RecipeSlot) : State :=
  let s := s.onTable fun b =>
    { b with records := putNth b.records t (some (freshTraveler s.now s.io.straps.heads tag slot x)),
             free := rest, index := b.index ++ [(tag, t)], queue := b.queue ++ [t] }
  let s := s.onRecipes fun st => { st with slots := putNth st.slots slot { x with useCount := x.useCount + 1 } }
  s.post (.boardInducted tag t slot)

/-- Induct judged in the order of R4. -/
def ownInduct (tag : Text) (slot : Nat) (s : State) : State × Reply :=
  if s.mode = .drain then refuse s .mode
  else if !(tagForm tag && within 1 Config.recipeCount slot) then refuse s .invalid
  else if (s.tagged tag).isSome then refuse s .duplicate
  else
    match nth s.recipes.slots slot with
    | none => refuse s .notReady
    | some x =>
      if x.state ≠ .ready then refuse s .notReady
      else
        match s.table.free with
        | [] => refuse s .full
        | t :: rest =>
          if Config.queueCapacity ≤ s.occupancy then refuse s .full
          else accept (s.inductBoard t rest tag slot x) [u1 t]

/-- INDUCT (R4). -/
def execInduct (q : Req) (tag : Text) (slot : Nat) (s : State) : Host.Outcome State Fault Refusal :=
  request q 1 1 (fun _ => ownInduct tag slot) s

/-! ### Line modes -/

/-- The mode becomes RUN, and a board waiting at the pre-inspection station is decided again (R8, R74). -/
def State.run (s : State) : State := (s.setMode .run none none).decidePre

/-- Start judged by the mode (R8). -/
def ownStart (s : State) : State × Reply :=
  match s.mode with
  | .idle =>
    if s.io.estop then refuse s .estop
    else if s.cure.geometry = none ∨ s.engine.limits = none then refuse s .notConfigured
    else accept s.run
  | .drain => accept s.run
  | .run => accept s
  | .halt => refuse s .mode

/-- START (R8). -/
def execStart (q : Req) (s : State) : Host.Outcome State Fault Refusal := request q 2 1 (fun _ => ownStart) s

/-- Drain judged by the mode (R9): the change to DRAIN is followed by the decision of R74 and by the examination for
an empty line, both before the answer. -/
def ownDrain (s : State) : State × Reply :=
  match s.mode with
  | .run => accept ((s.setMode .drain none none).decidePre).drainDone
  | .drain => accept s
  | .idle | .halt => refuse s .mode

/-- DRAIN (R9). -/
def execDrain (q : Req) (s : State) : Host.Outcome State Fault Refusal := request q 3 1 (fun _ => ownDrain) s

/-- HALT (R10): cause REQUEST with the requesting link as detail; in HALT it is answered OK and changes nothing. -/
def execHalt (q : Req) (s : State) : Host.Outcome State Fault Refusal :=
  request q 4 2 (fun _ s => accept (s.enterHalt .request (some (.link q.link)))) s

/-- Recover judged by the mode and the E-stop input (R12). -/
def ownRecover (s : State) : State × Reply :=
  if s.mode ≠ .halt then refuse s .mode
  else if s.io.estop then refuse s .estop
  else accept s.recoverLine

/-- RECOVER (R12, R13). -/
def execRecover (q : Req) (s : State) : Host.Outcome State Fault Refusal := request q 5 1 (fun _ => ownRecover) s

/-! ### Line clear (R20) -/

/-- The effects of a line clear in the order of R20, block by block, with LINE_CLEARED in place of the notices of
retirement. -/
def State.clear (s : State) : State :=
  let s := s.onTable fun b =>
    { b with records := List.replicate Config.travelerCount none,
             free := (List.range Config.travelerCount).map (· + 1), index := [], queue := [], transfers := [] }
  let s := s.onRecipes fun st => { st with slots := st.slots.map fun x => { x with useCount := 0 } }
  let s := s.onMask fun _ => MaskUnit.reset
  let s := s.onEngine StrokeEngine.vacate
  let s := s.onCure fun c =>
    { c with flash := [], overdue := [], stopUp := true, oven := [], rangeLow := Config.beltMin,
             rangeHigh := Config.beltMax, exit := [], stalled := false, overCured := [] }
  let s := s.onHolds fun m => { m with shelf := m.shelf.map fun _ => .free }
  let s := s.onOutputs fun o =>
    { o with infeedGate := false, cellGate := false, accumulatorGate := false, preDiverter := .rest,
             exitDiverter := .rest, slotSelect := 0 }
  s.driveOutput.post .lineCleared

/-- ClearLine is taken in IDLE and in HALT (R20). -/
def ownClearLine (s : State) : State × Reply :=
  match s.mode with
  | .idle | .halt => accept s.clear
  | .run | .drain => refuse s .mode

/-- CLEAR_LINE (R20). -/
def execClearLine (q : Req) (s : State) : Host.Outcome State Fault Refusal :=
  request q 6 0 (fun _ => ownClearLine) s

/-! ### Reading the line (R21, R22) -/

/-- A shelf slot in GetLine: its state, and the tag of its traveler (R21, R155); the tag of a free slot is an absent
optional field (DESIGN CHOICE, log 12). -/
def State.slotFields (s : State) : ShelfSlot → List Field
  | .free => [.word 0, .presence false]
  | .assigned t => [.word 1, .presence true, .text (s.tagOf t)]
  | .resting t => [.word 2, .presence true, .text (s.tagOf t)]

/-- The answer of GetLine (R21). The mark vacant of a station is an absent optional field: presence byte 0 and no tag
(DESIGN CHOICE, log 12). -/
def State.lineReply (s : State) : Reply :=
  { status := .ok
    fields :=
      [.word s.mode.code] ++ optional (fun c => [.word (HaltCause.code c)]) s.table.cause ++
        optional HaltDetail.fields s.table.detail ++ [u1 s.travelers.length, u1 s.table.free.length] ++
        listOf (fun t => [.text (s.tagOf t)]) s.table.queue ++ [u1 s.occupancy] ++
        optional (fun t => [.text (s.tagOf t)]) (s.presentIn .preInspect) ++
        optional (fun t => [.text (s.tagOf t)]) (s.presentIn .spray) ++
        optional (fun t => [.text (s.tagOf t)]) (s.presentIn .postInspect) ++
        listOf (fun e => [.text (s.tagOf e.traveler), .word e.source.code, .word e.dest.code]) s.table.transfers ++
        s.holds.shelf.flatMap s.slotFields ++ [u1 s.freeSlots, .word (yesNoCode s.io.estop)] }

/-- GET_LINE (R21). -/
def execGetLine (q : Req) (s : State) : Host.Outcome State Fault Refusal :=
  request q 7 3 (fun _ => reads State.lineReply) s

/-- The live traveler a request names by tag: a malformed tag is answered INVALID, one that names no live traveler
NOT_FOUND (R2). -/
def withTag (tag : Text) (k : Nat → Traveler → State → State × Reply) (s : State) : State × Reply :=
  if !tagForm tag then refuse s .invalid
  else
    match s.tagged tag with
    | none => refuse s .notFound
    | some (t, r) => k t r s

/-- GET_TRAVELER (R21). -/
def execGetTraveler (q : Req) (tag : Text) (s : State) : Host.Outcome State Fault Refusal :=
  request q 8 3 (fun _ => withTag tag fun t r s => accept s (travelerFields t r)) s

/-- The live travelers of a stage word from a number on, in ascending number (R22). -/
def State.listed (s : State) (stage first : Nat) : List (Nat × Traveler) :=
  s.travelers.filter fun x => decide (first ≤ x.1) && (stage == stageAll || x.2.stage.code == stage)

/-- The answer of ListTravelers (R22): up to 12 entries, then the number from which to continue, or the mark end. The
number is that of the next listed traveler, an optional field whose absence is the mark end (DESIGN CHOICE, log 12). -/
def ownListTravelers (stage first : Nat) (s : State) : State × Reply :=
  if !(within 0 stageAll stage && within 1 Config.travelerCount first) then refuse s .invalid
  else
    let all := s.listed stage first
    accept s
      (listOf (fun x => [u1 x.1, .text x.2.tag, .word x.2.place.code]) (all.take Config.listTravelersMax) ++
        optional (fun x => [u1 x.1]) (all[Config.listTravelersMax]?))

/-- LIST_TRAVELERS (R22). -/
def execListTravelers (q : Req) (stage first : Nat) (s : State) : Host.Outcome State Fault Refusal :=
  request q 9 3 (fun _ => ownListTravelers stage first) s

/-! ### Events of the traveler table -/

/-- The board the infeed queue may release now: its head, PRESENT, in RUN, with the pre-inspection station vacant
(R6). -/
def State.queueReady (s : State) : Option Nat :=
  match s.table.queue with
  | [] => none
  | t :: _ =>
    if s.mode = .run ∧ (s.traveler t).any (·.place == .present) = true ∧ s.vacant .preStation = true ∧
        s.named .queue = false then some t
    else none

/-- QUEUE_RELEASE (R6): the head released; a RE_CURE board that arrives at once is decided at once (R57). -/
def execQueueRelease (s : State) : Host.Outcome State Fault Refusal :=
  event
    (match s.queueReady with
    | none => s
    | some t => (s.startTransfer t .queue .preStation).handArrival .preStation)

/-- TRANSFER_END (R17) of a traveler's transfer, with what the arrival hands to the pre diverter (R57, R74). -/
def execTransferEnd (t : Nat) (s : State) : Host.Outcome State Fault Refusal :=
  event
    (match s.transferEnds t with
    | none => s
    | some e => (s.finishTransfer e).handArrival e.dest)

/-- The transfer timer of a traveler has expired (R18, R178). -/
def State.transferExpired (s : State) (t : Nat) : Bool :=
  match s.transferOf t with
  | none => false
  | some e => e.deadline.any (reached s.now)

/-- TRANSFER_TIMER_EXPIRY (R18): the line enters HALT with cause JAM, naming the traveler. -/
def execTransferTimerExpiry (t : Nat) (s : State) : Host.Outcome State Fault Refusal :=
  event (if s.transferExpired t then s.enterHalt .jam (some (.board (s.tagOf t) t)) else s)

/-- ESTOP_TAKEN (R10, R181): the recognised assertion handed to the traveler table is taken. -/
def execEstopTaken (s : State) : Host.Outcome State Fault Refusal :=
  event
    (if s.io.estopHanded then (s.onIo fun io => { io with estopHanded := false }).enterHalt .estop none else s)

/-- DRAIN_COMPLETE (R9). -/
def execDrainComplete (s : State) : Host.Outcome State Fault Refusal := event s.drainDone

end Sys2Proof.Machine
end

