-- ==== Sys2Proof/Machine/Recipes.lean ====
section
/-! DEFINITION. The meanings of the recipe store's commands (chapter 2): loading, validation and reading of recipes and
cure profiles. -/

namespace Sys2Proof.Machine

/-- A recipe slot written. -/
def State.setSlot (s : State) (n : Nat) (x : RecipeSlot) : State :=
  s.onRecipes fun st => { st with slots := putNth st.slots n x }

/-- A profile slot written. -/
def State.setProfile (s : State) (n : Nat) (p : Option Profile) : State :=
  s.onRecipes fun st => { st with profiles := putNth st.profiles n p }

/-! ### Loading (R26, R27) -/

/-- OpenRecipe judged in the order of R26. -/
def ownOpenRecipe (slot : Nat) (h : Header) (s : State) : State × Reply :=
  match firstAtFault (headerChecks slot h) with
  | some k => refuse s .invalid [.word k]
  | none =>
    match nth s.recipes.slots slot with
    | none => refuse s .invalid [.word 0]
    | some x =>
      if x.state = .loading then refuse s .stage
      else if x.useCount ≠ 0 then refuse s .inUse
      else
        accept (s.setSlot slot
          { x with state := .loading, header := some h, windows := [], sites := [], strokes := [] })

/-- OPEN_RECIPE (R26). -/
def execOpenRecipe (q : Req) (slot : Nat) (h : Header) (s : State) : Host.Outcome State Fault Refusal :=
  request q 10 0 (fun _ => ownOpenRecipe slot h) s

/-- The shared form of PutWindows, PutSites and PutStrokes (R27): the slot and the number of records, the slot's state,
the records' forms, the list's capacity; then every record is appended in order, answered with the new length. -/
def ownPut {α β : Type} (read : α → Option β) (capacity : Nat) (get : RecipeSlot → List β)
    (put : RecipeSlot → List β → RecipeSlot) (slot : Nat) (records : List α) (s : State) : State × Reply :=
  if !(within 1 Config.recipeCount slot && within 1 8 records.length) then refuse s .invalid
  else
    match nth s.recipes.slots slot with
    | none => refuse s .invalid
    | some x =>
      if x.state ≠ .loading then refuse s .stage
      else
        match readAll read 1 records with
        | .error k => refuse s .invalid [u1 k]
        | .ok new =>
          if capacity < (get x ++ new).length then refuse s .full
          else accept (s.setSlot slot (put x (get x ++ new))) [u1 (get x ++ new).length]

/-- PUT_WINDOWS (R27, R28). -/
def execPutWindows (q : Req) (slot : Nat) (records : List Window) (s : State) : Host.Outcome State Fault Refusal :=
  request q 11 0
    (fun _ => ownPut (fun w => if Window.form w then some w else none) Config.windowCapacity (·.windows)
      (fun x l => { x with windows := l }) slot records) s

/-- PUT_SITES (R27, R29). -/
def execPutSites (q : Req) (slot : Nat) (records : List SiteFields) (s : State) : Host.Outcome State Fault Refusal :=
  request q 12 0
    (fun _ => ownPut SiteFields.read Config.siteCapacity (·.sites) (fun x l => { x with sites := l }) slot records) s

/-- PUT_STROKES (R27, R30). -/
def execPutStrokes (q : Req) (slot : Nat) (records : List StrokeFields) (s : State) :
    Host.Outcome State Fault Refusal :=
  request q 13 0
    (fun _ => ownPut StrokeFields.read Config.strokeCapacity (·.strokes) (fun x l => { x with strokes := l }) slot
      records) s

/-! ### Validation (R31 to R36) -/

/-- The list a failing item was found in (R31). -/
inductive ItemList where
  | header | windows | sites | strokes
  deriving DecidableEq, Repr

/-- The cause words, in the order of the table of R32. -/
inductive ItemCause where
  | noWindows | noStrokes | outsideBoard | noSite | headAbsent | noWindow | transitSpray | heightRange | zeroLength
  | outsideWindow
  deriving DecidableEq, Repr

/-- A failing item: the list, the index of the record (0 for the list as a whole) and the cause (R31). -/
structure FailingItem where
  list  : ItemList
  index : Nat
  cause : ItemCause
  deriving DecidableEq, Repr

def ItemList.code : ItemList → Nat
  | .header => 0 | .windows => 1 | .sites => 2 | .strokes => 3

def ItemCause.code : ItemCause → Nat
  | .noWindows => 0 | .noStrokes => 1 | .outsideBoard => 2 | .noSite => 3 | .headAbsent => 4 | .noWindow => 5
  | .transitSpray => 6 | .heightRange => 7 | .zeroLength => 8 | .outsideWindow => 9

/-- The first failure of a list of records checked in order from record `n`. -/
def firstFailure {α : Type} (list : ItemList) (check : α → Option ItemCause) : Nat → List α → Option FailingItem
  | _, [] => none
  | n, a :: rest =>
    match check a with
    | some c => some { list := list, index := n, cause := c }
    | none => firstFailure list check (n + 1) rest

/-- A window is checked for OUTSIDE_BOARD and then for NO_SITE (R33). -/
def checkWindow (h : Header) (siteCount : Nat) (w : Window) : Option ItemCause :=
  if !(decide (0 ≤ w.x0) && decide (w.x1 ≤ h.length) && decide (0 ≤ w.y0) && decide (w.y1 ≤ h.width)) then
    some .outsideBoard
  else if w.mask ≠ 0 ∧ siteCount < w.mask then some .noSite
  else none

/-- A site's point lies on the board (R33). -/
def checkSite (h : Header) (x : MaskSite) : Option ItemCause :=
  if withinInt 0 h.length x.x && withinInt 0 h.width x.y then none else some .outsideBoard

/-- A point lies in a window's rectangle, corners and edges included (R35). -/
def inWindow (w : Window) (p : Int × Int) : Bool := withinInt w.x0 w.x1 p.1 && withinInt w.y0 w.y1 p.2

/-- A stroke's checks in the order of R32: head present, window index, transit spray, spray height (skipped where the
head is UNCONFIGURED), pass length, containment of each pass (R34 to R36). -/
def checkStroke (heads : List (Option HeadConfig)) (windows : List Window) (x : Stroke) : Option ItemCause :=
  if heads.length < x.head then some .headAbsent
  else if windows.length < x.window then some .noWindow
  else if x.window = 0 ∧ x.valveOn = true then some .transitSpray
  else if ((nth heads x.head).join).any (fun c => !within c.zMin c.zMax x.height) then some .heightRange
  else if x.startX = x.endX ∧ x.startY = x.endY then some .zeroLength
  else
    match nth windows x.window with
    | none => none
    | some w =>
      if (List.range x.passes).all fun k => inWindow w (x.passPoints k).1 && inWindow w (x.passPoints k).2 then none
      else some .outsideWindow

/-- The whole recipe validated in the fixed order of R32; none when every check passes. -/
def validate (heads : List (Option HeadConfig)) (h : Header) (x : RecipeSlot) : Option FailingItem :=
  if x.windows = [] then some { list := .header, index := 0, cause := .noWindows }
  else if x.strokes = [] then some { list := .header, index := 0, cause := .noStrokes }
  else
    match firstFailure .windows (checkWindow h x.sites.length) 1 x.windows with
    | some f => some f
    | none =>
      match firstFailure .sites (checkSite h) 1 x.sites with
      | some f => some f
      | none => firstFailure .strokes (checkStroke heads x.windows) 1 x.strokes

/-- FinishRecipe (R31): READY where every check passes; else the slot emptied and the failing item answered. -/
def ownFinishRecipe (slot : Nat) (s : State) : State × Reply :=
  match nth s.recipes.slots slot with
  | none => refuse s .invalid
  | some x =>
    match x.state, x.header with
    | .loading, some h =>
      match validate s.lots.heads h x with
      | none =>
        accept (s.setSlot slot { x with state := .ready })
          [u1 x.windows.length, u1 x.sites.length, u1 x.strokes.length]
      | some f =>
        refuse (s.setSlot slot { emptySlot with useCount := x.useCount }) .invalid
          [.word f.list.code, u1 f.index, .word f.cause.code]
    | _, _ => refuse s .stage

/-- FINISH_RECIPE (R31). -/
def execFinishRecipe (q : Req) (slot : Nat) (s : State) : Host.Outcome State Fault Refusal :=
  request q 14 0 (fun _ => ownFinishRecipe slot) s

/-- DropRecipe (R37). -/
def ownDropRecipe (slot : Nat) (s : State) : State × Reply :=
  match nth s.recipes.slots slot with
  | none => refuse s .invalid
  | some x => if x.useCount ≠ 0 then refuse s .inUse else accept (s.setSlot slot emptySlot)

/-- DROP_RECIPE (R37). -/
def execDropRecipe (q : Req) (slot : Nat) (s : State) : Host.Outcome State Fault Refusal :=
  request q 15 0 (fun _ => ownDropRecipe slot) s

/-! ### Reading (R38) -/

/-- Up to 8 records of a list from record `first`, each with its number, then the number from which to continue or
the mark end (R38). The number is an optional field, whose absence is the mark end (DESIGN CHOICE, log 12). -/
def recordPage {α : Type} (f : α → List Field) (first : Nat) (l : List α) : List Field :=
  numbered f first ((l.drop (first - 1)).take Config.recordsMax) ++
    optional (fun n => [u1 n])
      (if first + Config.recordsMax ≤ l.length then some (first + Config.recordsMax) else none)

/-- GetRecipe with a part word of a recipe (R38): HEADER 0, WINDOWS 1, SITES 2, STROKES 3. -/
def ownGetRecipe (slot part first : Nat) (s : State) : State × Reply :=
  if first = 0 then refuse s .invalid
  else
    match nth s.recipes.slots slot with
    | none => refuse s .invalid
    | some x =>
      let front :=
        [.word x.state.code, u1 x.useCount, u1 x.windows.length, u1 x.sites.length, u1 x.strokes.length]
      match part with
      | 0 => accept s (front ++ optional headerFields x.header)
      | 1 => accept s (front ++ recordPage windowFields first x.windows)
      | 2 => accept s (front ++ recordPage siteFields first x.sites)
      | 3 => accept s (front ++ recordPage strokeFields first x.strokes)
      | _ => refuse s .invalid

/-- GET_RECIPE (R38). -/
def execGetRecipe (q : Req) (slot part first : Nat) (s : State) : Host.Outcome State Fault Refusal :=
  request q 16 3 (fun _ => ownGetRecipe slot part first) s

/-- A profile is in use (R40): some live traveler in FLASH, CURE or OVEN_EXIT belongs to a recipe whose header names
it. -/
def State.profileInUse (s : State) (index : Nat) : Bool :=
  s.anyTraveler fun r => inCureStages r && ((s.recipeOf r).header).any (·.profile == index)

/-- GetRecipe with the part word PROFILE (R38): state (LOADED or EMPTY), fields if loaded, in-use mark. The from field is not read. -/
def ownGetRecipeProfile (index : Nat) (s : State) : State × Reply :=
  match nth s.recipes.profiles index with
  | none => refuse s .invalid
  | some p => accept s (.word (if p.isSome then 0 else 1) :: optional profileFields p ++ [.word (markCode (s.profileInUse index))])

/-- GET_RECIPE_PROFILE (R38). -/
def execGetRecipeProfile (q : Req) (index _first : Nat) (s : State) : Host.Outcome State Fault Refusal :=
  request q 16 3 (fun _ => ownGetRecipeProfile index) s

/-! ### Cure profiles (R39, R40) -/

/-- PutCureProfile judged in the order of R39. -/
def ownPutCureProfile (index : Nat) (p : Profile) (s : State) : State × Reply :=
  match firstAtFault (profileChecks index p) with
  | some k => refuse s .invalid [.word k]
  | none => if s.profileInUse index then refuse s .inUse else accept (s.setProfile index (some p))

/-- PUT_CURE_PROFILE (R39). -/
def execPutCureProfile (q : Req) (index : Nat) (p : Profile) (s : State) : Host.Outcome State Fault Refusal :=
  request q 17 0 (fun _ => ownPutCureProfile index p) s

/-- DropCureProfile (R40). -/
def ownDropCureProfile (index : Nat) (s : State) : State × Reply :=
  if !within 1 Config.profileCount index then refuse s .invalid
  else if s.profileInUse index then refuse s .inUse
  else accept (s.setProfile index none)

/-- DROP_CURE_PROFILE (R40). -/
def execDropCureProfile (q : Req) (index : Nat) (s : State) : Host.Outcome State Fault Refusal :=
  request q 18 0 (fun _ => ownDropCureProfile index) s

end Sys2Proof.Machine
end

