-- ==== Sys2Proof/Machine/Lots.lean ====
section
/-! DEFINITION. The meanings of the lot table's commands (chapter 3): heads, mounting and unmounting, expiry, reading. -/

namespace Sys2Proof.Machine

/-- The spray cell is RUNNING: from the start of a program to its last stroke (R44). -/
def State.running (s : State) : Bool := s.engine.cell == .running

/-! ### Heads (R44) -/

/-- The field a crossed pair is named by: zmin, Wmin or vmin, by its position in the request (log 11). -/
def pairField (k : Nat) : Nat := 4 + 2 * k

/-- SetHead judged in the order of R44. -/
def ownSetHead (head : Nat) (c : HeadConfig) (s : State) : State × Reply :=
  match firstAtFault (headChecks s.lots.heads.length head c) with
  | some k => refuse s .invalid [.word k]
  | none =>
    match firstAtFault (headPairs c) with
    | some k => refuse s .invalid [.word (pairField k)]
    | none =>
      if s.running then refuse s .busy
      else accept (s.onLots fun b => { b with heads := putNth b.heads head (some c) })

/-- SET_HEAD (R44). -/
def execSetHead (q : Req) (head : Nat) (c : HeadConfig) (s : State) : Host.Outcome State Fault Refusal :=
  request q 19 0 (fun _ => ownSetHead head c) s

/-! ### Mounting (R46, R47) -/

/-- The lowest-numbered record that satisfies `p`. -/
def LotTable.firstRecord (b : LotTable) (p : Option Lot → Bool) : Option Nat := firstNth p b.records

/-- A record holds a MOUNTED or EXPIRED lot. -/
def Lot.onHead (m : Lot) : Bool := m.state != .unmounted

/-- The record a MountLot takes (R47): the UNMOUNTED record of the same id, else the lowest free record, else the head
of the unmount order. -/
def LotTable.choose (b : LotTable) (id : Text) : Option Nat :=
  match b.firstRecord (fun o => o.any fun m => !m.onHead && m.id == id) with
  | some n => some n
  | none =>
    match b.firstRecord (·.isNone) with
    | some n => some n
    | none => b.unmount.head?

/-- The record a mount fills (R47): volumes in nL, the mix stamp signed, the low-warned flag no. -/
def freshLot (now : Seconds) (head : Nat) (m : LotFields) : Lot :=
  { state := .mounted, id := m.id, kind := m.kind, head := head, charged := m.charge * 1000,
    remaining := m.charge * 1000, dispensed := 0, mixStamp := (now.toNat : Int) - m.age * 60, potLife := m.potLife,
    derate := m.derate, lowLimit := m.lowLimit * 1000, lowWarned := false }

/-- A lot mounted in record `n`: the record filled, the head map naming it, LOT_MOUNTED posted, and the low warning
examined (R47, R52). -/
def State.mount (s : State) (n head : Nat) (m : LotFields) : State :=
  let s := s.onLots fun b =>
    { b with records := putNth b.records n (some (freshLot s.now head m)),
             map := putNth b.map head (some n), unmount := b.unmount.filter (· != n) }
  (s.post (.lotMounted head n m.id m.kind m.charge m.age)).warnLow n

/-- The field that the check at position `k` of `lotChecks` is named by: its position in the request, which lists the
age before P and D (R46, log 11). -/
def lotField (k : Nat) : Nat := (([0, 1, 2, 3, 5, 6, 4, 7] : List Nat)[k]?).getD k

/-- MountLot judged in the order of R46. -/
def ownMountLot (head : Nat) (m : LotFields) (s : State) : State × Reply :=
  match firstAtFault (lotChecks s.lots.heads.length head m) with
  | some k => refuse s .invalid [.word (lotField k)]
  | none =>
    if s.running then refuse s .busy
    else if ((nth s.lots.map head).join).isSome then refuse s .inUse
    else if s.lots.records.any fun o => o.any fun x => x.onHead && x.id == m.id then refuse s .duplicate
    else
      match s.lots.choose m.id with
      | none => refuse s .inUse
      | some n => accept (s.mount n head m) [u1 n]

/-- MOUNT_LOT (R46, R47). -/
def execMountLot (q : Req) (head : Nat) (m : LotFields) (s : State) : Host.Outcome State Fault Refusal :=
  request q 20 2 (fun _ => ownMountLot head m) s

/-! ### Unmounting (R48) -/

/-- UnmountLot judged in the order of R48. -/
def ownUnmountLot (head : Nat) (s : State) : State × Reply :=
  if !within 1 s.lots.heads.length head then refuse s .invalid
  else if s.running then refuse s .busy
  else
    match s.lots.mountedOn head with
    | none => refuse s .notFound
    | some (n, m) =>
      accept
        ((s.setLot n { m with state := .unmounted }).onLots fun b =>
          { b with map := putNth b.map head none, unmount := b.unmount ++ [n] })
        [u1 n, i4 m.remaining, i4 m.dispensed]

/-- UNMOUNT_LOT (R48). -/
def execUnmountLot (q : Req) (head : Nat) (s : State) : Host.Outcome State Fault Refusal :=
  request q 21 2 (fun _ => ownUnmountLot head) s

/-! ### Reading (R53) -/

/-- A lot record in GetLot: its number, its state and every field of the lot table, with the age of R49. The number
stands first and the age last (DESIGN CHOICE, log 12). -/
def lotRecordFields (now : Seconds) (n : Nat) (m : Lot) : List Field :=
  [u1 n, .word m.state.code, .text m.id, u1 m.kind, u1 m.head, i4 m.charged, i4 m.remaining, i4 m.dispensed,
    i4 m.mixStamp, u2 m.potLife, u1 m.derate, i4 m.lowLimit, .word (yesNoCode m.lowWarned), i2 (m.age now)]

/-- A head in GetLot: UNCONFIGURED or CONFIGURED with its fields, and the record the head map names or none. -/
def headEntry (c : Option HeadConfig) (n : Option Nat) : List Field :=
  [.word (if c.isSome then 1 else 0)] ++ (match c with | none => [] | some c => headFields c) ++
    optional (fun n => [u1 n]) n

/-- The answer of GetLot (R53). A free record is presence byte 0, and any other stands behind presence byte 1 (DESIGN
CHOICE, log 12). -/
def State.lotReply (s : State) : Reply :=
  { status := .ok
    fields :=
      [u1 s.lots.heads.length] ++ (s.lots.heads.zip s.lots.map).flatMap (fun x => headEntry x.1 x.2) ++
        (s.lots.records.zipIdx 1).flatMap (fun x => optional (lotRecordFields s.now x.2) x.1) ++
        listOf (fun n => [u1 n]) s.lots.unmount }

/-- GET_LOT (R53). -/
def execGetLot (q : Req) (s : State) : Host.Outcome State Fault Refusal :=
  request q 22 3 (fun _ => reads State.lotReply) s

/-! ### Expiry (R50) -/

/-- The MOUNTED lot of a record whose pot life has run out. -/
def State.lotExpires (s : State) (n : Nat) : Option Lot :=
  match (nth s.lots.records n).join with
  | none => none
  | some m => if m.state = .mounted ∧ m.overAge s.now = true then some m else none

/-- LOT_EXPIRY (R50): the record becomes EXPIRED, the head map keeps naming it, LOT_EXPIRED posted. -/
def execLotExpiry (n : Nat) (s : State) : Host.Outcome State Fault Refusal :=
  event
    (match s.lotExpires n with
    | none => s
    | some m => (s.setLot n { m with state := .expired }).post (.lotExpired m.head n m.id))

end Sys2Proof.Machine
end

