-- ==== Sys2Proof/Machine/Inspections.lean ====
section
/-! DEFINITION. The meanings of the mask verification unit's commands (chapters 4 and 9): claims, posts, the end of an
inspection by Complete or by expiry, and the decisions of the pre diverter and the exit diverter as events. -/

namespace Sys2Proof.Machine

/-! ### Claims (R59 to R61) -/

/-- The end cause a Claim refused STAGE reports: that of the station's record where it names the traveler and is ENDED
(R60). -/
def State.endCauseFor (s : State) (x : Station) (t : Nat) : Option EndCause :=
  match s.record x with
  | none => none
  | some i =>
    if i.traveler = t then
      match i.phase with
      | .isOpen => none
      | .ended c => some c
    else none

/-- The OPEN record of a station that names the traveler (R55: its inspection not ended). -/
def State.openRecord (s : State) (x : Station) (t : Nat) : Option Inspection :=
  (s.record x).filter fun i => i.traveler == t && i.phase == .isOpen

/-- The stage of a traveler at a station. -/
def stationStage : Station → Stage
  | .pre => .preInspect
  | .post => .postInspect

/-- The seconds left before a deadline: the deadline minus line seconds (R60). -/
def secondsLeft (now : Seconds) (d : Option Seconds) : Nat :=
  match d with
  | none => 0
  | some d => (d - now).toNat

/-- Claim judged in the order of R60. The end cause of an answer STAGE is an optional field, absent by its presence byte
(DESIGN CHOICE, log 12). -/
def ownClaim (l : Link) (tag : Text) (station : Nat) (s : State) : State × Reply :=
  match tagForm tag, Station.ofCode station with
  | true, some x =>
    match s.tagged tag with
    | none => refuse s .notFound
    | some (t, r) =>
      match s.openRecord x t with
      | none => refuse s .stage (optional (fun c => [.word (EndCause.code c)]) (s.endCauseFor x t))
      | some i =>
        if !(r.stage == stationStage x && r.place == .present) then refuse s .stage [.presence false]
        else
          let reply := [.word station, u1 (secondsLeft s.now i.deadline)]
          match r.claim with
          | some k => if k = l then accept s reply else refuse s .claimed [.word (Link.code k)]
          | none => accept (s.setTraveler t { r with claim := some l }) reply
  | _, _ => refuse s .invalid

/-- CLAIM (R60). -/
def execClaim (q : Req) (tag : Text) (station : Nat) (s : State) : Host.Outcome State Fault Refusal :=
  request q 23 2 (fun _ => ownClaim q.link tag station) s

/-- A request on a traveler whose claim field must name the requesting link (R61, R62). -/
def withClaim (l : Link) (tag : Text) (k : Nat → Traveler → State → State × Reply) (s : State) : State × Reply :=
  withTag tag (fun t r s => if r.claim = some l then k t r s else refuse s .notClaimed) s

/-- UNCLAIM (R61). -/
def execUnclaim (q : Req) (tag : Text) (s : State) : Host.Outcome State Fault Refusal :=
  request q 24 2
    (fun _ => withClaim q.link tag fun t r s => accept (s.setTraveler t { r with claim := none })) s

/-! ### Posts (R62 to R64, R138) -/

/-- A post accepted for a board at one station and refused STAGE at the other (R62). -/
def atStation (x : Station) (k : Nat → Traveler → State → State × Reply) (t : Nat) (r : Traveler) (s : State) :
    State × Reply :=
  if s.stationOf t = some x then k t r s else refuse s .stage

/-- The offset a PostFiducials records (R63); none where the found word is neither YES nor NO, or a component is out
of range. -/
def readFiducial (found : Nat) (dx dy : Int) : Option Fiducial :=
  if !(coordinate dx && coordinate dy) then none
  else
    match yesNo found with
    | some true => some (.offset dx dy)
    | some false => some .notFound
    | none => none

/-- PostFiducials after its form (R63). -/
def ownPostFiducials (l : Link) (tag : Text) (found : Nat) (dx dy : Int) (s : State) : State × Reply :=
  match readFiducial found dx dy with
  | none => refuse s .invalid
  | some f =>
    withClaim l tag (atStation .pre fun t r s => accept (s.setTraveler t { r with fiducial := some f })) s

/-- POST_FIDUCIALS (R63). -/
def execPostFiducials (q : Req) (tag : Text) (found : Nat) (dx dy : Int) (s : State) :
    Host.Outcome State Fault Refusal :=
  request q 25 2 (fun _ => ownPostFiducials q.link tag found dx dy) s

/-- PostSite after its form (R64): a site beyond the recipe's site count is answered INVALID after the STAGE check. -/
def ownPostSite (l : Link) (tag : Text) (site verdict : Nat) (s : State) : State × Reply :=
  match within 1 Config.siteCapacity site, SiteVerdict.ofCode verdict with
  | true, some v =>
    withClaim l tag (atStation .pre fun t r s =>
      if r.sites.length < site then refuse s .invalid
      else accept (s.setTraveler t { r with sites := putNth r.sites site v })) s
  | _, _ => refuse s .invalid

/-- POST_SITE (R64). -/
def execPostSite (q : Req) (tag : Text) (site verdict : Nat) (s : State) : Host.Outcome State Fault Refusal :=
  request q 26 2 (fun _ => ownPostSite q.link tag site verdict) s

/-- PostCoverage after its form (R138). -/
def ownPostCoverage (l : Link) (tag : Text) (window verdict : Nat) (s : State) : State × Reply :=
  match within 1 Config.windowCapacity window, CoverageVerdict.ofCode verdict with
  | true, some v =>
    withClaim l tag (atStation .post fun t r s =>
      if r.coverage.length < window then refuse s .invalid
      else accept (s.setTraveler t { r with coverage := putNth r.coverage window v })) s
  | _, _ => refuse s .invalid

/-- POST_COVERAGE (R138). -/
def execPostCoverage (q : Req) (tag : Text) (window verdict : Nat) (s : State) : Host.Outcome State Fault Refusal :=
  request q 27 2 (fun _ => ownPostCoverage q.link tag window verdict) s

/-! ### The end of an inspection (R65 to R67, R139) -/

/-- A site verdict fails a REQUIRED site at evaluation (R65). -/
def siteFails (x : MaskSite × SiteVerdict) : Bool := x.1.policy == .required && !x.2.lets

/-- The first REQUIRED site whose verdict fails, by its number (R65). -/
def firstSiteFailing (sites : List MaskSite) (verdicts : List SiteVerdict) : Option Nat :=
  firstNth siteFails (sites.zip verdicts)

/-- Why a fiducial offset fails, if it does; a component equal to the limit passes (R65). -/
def fiducialFails (limit : Nat) : Option Fiducial → Option FiducialCause
  | none => some .notPosted
  | some .notFound => some .notFound
  | some (.offset dx dy) => if limit < dx.natAbs ∨ limit < dy.natAbs then some .limit else none

/-- The first window whose coverage verdict is not COVERED, with its verdict (R139). -/
def firstWindowFailing : Nat → List CoverageVerdict → Option (Nat × CoverageVerdict)
  | _, [] => none
  | n, v :: rest => if v = .covered then firstWindowFailing (n + 1) rest else some (n, v)

/-- The evaluation at the PRE station: MASK_MISSING for the first failing site, then FIDUCIAL (R65); with the number of
holds raised. -/
def State.evaluatePre (s : State) (t : Nat) : State × Nat :=
  match s.traveler t with
  | none => (s, 0)
  | some r =>
    let s1 :=
      match firstSiteFailing (s.recipeOf r).sites r.sites with
      | none => (s, 0)
      | some n => (s.raiseHold t .maskMissing .maskVerification .preInspect (some (.site n)), 1)
    match fiducialFails s.io.timeouts.fiducial r.fiducial with
    | none => s1
    | some c => (s1.1.raiseHold t .fiducial .maskVerification .preInspect (some (.fiducial c)), s1.2 + 1)

/-- The evaluation at the POST station: COVERAGE for the first failing window (R139); with the number of holds
raised. -/
def State.evaluatePost (s : State) (t : Nat) : State × Nat :=
  match s.traveler t with
  | none => (s, 0)
  | some r =>
    match firstWindowFailing 1 r.coverage with
    | none => (s, 0)
    | some (w, v) => (s.raiseHold t .coverage .maskVerification .postInspect (some (.coverage w v)), 1)

def State.evaluate (s : State) (x : Station) (t : Nat) : State × Nat :=
  match x with
  | .pre => s.evaluatePre t
  | .post => s.evaluatePost t

/-- The diverter of a station decides for its board (R72, R140). -/
def State.decideAt (s : State) : Station → State
  | .pre => s.decidePre
  | .post => s.decideExit

/-- The station's record set ENDED with its cause, its timer stopped, and the claim on its board dropped (R59, R66,
R67). -/
def State.endInspection (s : State) (x : Station) (i : Inspection) (c : EndCause) : State :=
  (s.setRecord x (some { i with phase := .ended c, deadline := none })).onTraveler i.traveler fun r =>
    { r with claim := none }

/-- Complete after the checks of R62 (R66, R139): the inspection ended COMPLETED, the posts evaluated, the diverter's
decision taken, then OK with the number of holds raised. -/
def ownComplete (l : Link) (tag : Text) (s : State) : State × Reply :=
  withClaim l tag (fun t _ s =>
    match s.stationOf t with
    | none => refuse s .stage
    | some x =>
      match s.record x with
      | none => refuse s .stage
      | some i =>
        let out := (s.endInspection x i .completed).evaluate x t
        accept (out.1.decideAt x) [u1 out.2]) s

/-- COMPLETE (R66). -/
def execComplete (q : Req) (tag : Text) (s : State) : Host.Outcome State Fault Refusal :=
  request q 28 2 (fun _ => ownComplete q.link tag) s

/-- The sites or windows whose verdict is no longer UNCHECKED (R67, R139). -/
def postedCount (x : Station) (r : Traveler) : Nat :=
  match x with
  | .pre => r.sites.countP (· != .unchecked)
  | .post => r.coverage.countP (· != .unchecked)

/-- The OPEN record of a station whose deadline line seconds has reached (R67, R178). -/
def State.inspectionExpired (s : State) (x : Station) : Option Inspection :=
  (s.record x).filter fun i => i.phase == .isOpen && i.deadline.any (reached s.now)

/-- The expiry of an inspection (R67): ENDED with cause EXPIRED, claim dropped, INSPECT_TIMEOUT raised, the posts
evaluated, INSPECT_ABANDONED posted, and the diverter's decision. The stage at raise of INSPECT_TIMEOUT is that of the
station, PRE_INSPECT or POST_INSPECT (DESIGN CHOICE, log 26). -/
def State.expireInspection (s : State) (x : Station) (i : Inspection) : State :=
  let t := i.traveler
  match s.traveler t with
  | none => s.endInspection x i .expired
  | some r =>
    let s := s.endInspection x i .expired
    let s := s.raiseHold t .inspectTimeout .maskVerification (stationStage x) (some (.station x))
    let s := (s.evaluate x t).1
    (s.post (.inspectAbandoned x r.tag t r.claim (postedCount x r))).decideAt x

/-- INSPECTION_TIMER_EXPIRY (R67). -/
def execInspectionTimerExpiry (x : Station) (s : State) : Host.Outcome State Fault Refusal :=
  event
    (match s.inspectionExpired x with
    | none => s
    | some i => s.expireInspection x i)

/-! ### The diverters as events -/

/-- PRE_DIVERTER_DECISION (R72, R73). -/
def execPreDiverterDecision (s : State) : Host.Outcome State Fault Refusal := event s.decidePre

/-- EXIT_DIVERTER_DECISION (R140). -/
def execExitDiverterDecision (s : State) : Host.Outcome State Fault Refusal := event s.decideExit

end Sys2Proof.Machine
end

