-- ==== Sys2Proof/Machine/SprayCell.lean ====
section
/-! DEFINITION. The meanings of the stroke engine's commands (chapter 5): the start of a program, the gantry's answers and
their timeout, the valve timer, the transfer to the flash belt, and SetGantryLimits. -/

namespace Sys2Proof.Machine

/-! ### The start of a program (R78) -/

/-- The board whose program may start now: the cell READY, the mode RUN or DRAIN, the port QUIET. -/
def State.programReady (s : State) : Option Nat :=
  if s.engine.cell = .ready ∧ (s.mode = .run ∨ s.mode = .drain) ∧ s.engine.port = .quiet then s.engine.board else none

/-- A program started (R78): for RE_CURE an empty one, the cell DONE at once with the spray end stamp set; else the
program fields cleared, the cell RUNNING, and the first stroke of the route taken up. -/
def State.startProgram (s : State) (t : Nat) : State :=
  match s.traveler t with
  | none => s
  | some r =>
    if r.route = .reCure then
      (s.setTraveler t { r with sprayEnd := some s.now }).onEngine fun e => { e with cell := .done }
    else
      let range := programRange r (s.recipeOf r).strokes.length
      let s := s.setTraveler t
        { r with program := .running, strokeCursor := 0, passCursor := 0,
                 coat := { run := 0, skipped := 0, faults := 0, first := none }, sprayEnd := none }
      let s := s.onEngine fun e => { e with cell := .running, work := none, lastClose := none }
      State.takeUp t (range.2 + 1 - range.1) range.1 s

/-- PROGRAM_START (R78). -/
def execProgramStart (s : State) : Host.Outcome State Fault Refusal :=
  event
    (match s.programReady with
    | none => s
    | some t => s.startProgram t)

/-! ### The valve timer (R89) -/

/-- VALVE_TIMER_EXPIRY (R89): the valve closes at the pass duration and the planned pass volume is drawn; the pass
waits for PASS_DONE. -/
def execValveTimerExpiry (s : State) : Host.Outcome State Fault Refusal :=
  event
    (match s.engine.valve with
    | none => s
    | some v => (s.onEngine fun e => { e with valve := some { v with openMs := v.duration } }).closeValve)

/-! ### The gantry's answers (R92) -/

/-- The outstanding message is the park MOVE: head 0, the carriage as a whole (R93). -/
def GantryMessage.isPark : GantryMessage → Bool
  | .move 0 _ _ => true
  | _ => false

/-- The step that waited for the MOVE to a pass start goes on: a dry stroke sends the MOVE to the pass end (R80); a
spraying one sends PASS and opens its valve at the same moment (R87). -/
def State.alongPass (s : State) (w : StrokeWork) (p : Point × Point) : State :=
  let s := s.onEngine fun e => { e with work := some { w with phase := .along } }
  match w.results with
  | none => s.sendMove w.head p.2 w.transit
  | some d => (s.send (.pass w.head p.2.x p.2.y d.speed) (some p.2) d.duration).openValve w.head d

/-- ARRIVED to a MOVE of a program (R80, R87). -/
def State.arrivedInProgram (s : State) : State :=
  match s.engine.cell, s.engine.board, s.engine.work with
  | .running, some t, some w =>
    match w.phase with
    | .along => s.endPass t w
    | .toStart =>
      match (s.traveler t).bind fun r => w.passes[r.passCursor]? with
      | none => s
      | some p => s.alongPass w p
  | _, _, _ => s

/-- ARRIVED (R92): the expected answer to a MOVE makes the port QUIET with the reference point at its target, and the
waiting step goes on; any other ARRIVED is discarded. -/
def execArrived (s : State) : Host.Outcome State Fault Refusal :=
  event
    (match s.engine.port with
    | .waiting o =>
      match o.message with
      | .move h _ _ =>
        let s := s.quiet o.target
        if h = 0 then s.parked else s.arrivedInProgram
      | .pass _ _ _ _ | .stop => s
    | .quiet | .lost => s)

/-- PASS_DONE (R87, R92): the expected answer to a PASS makes the port QUIET, closes the valve where it is still open,
and ends the pass; any other PASS_DONE is discarded. -/
def execPassDone (s : State) : Host.Outcome State Fault Refusal :=
  event
    (match s.engine.port with
    | .waiting o =>
      match o.message with
      | .pass _ _ _ _ =>
        let s := (s.quiet o.target).closeValve
        match s.engine.cell, s.engine.board, s.engine.work with
        | .running, some t, some w => s.endPass t w
        | _, _, _ => s
      | .move _ _ _ | .stop => s
    | .quiet | .lost => s)

/-- STOPPED (R92, R95, R96): the expected answer to a STOP makes the port QUIET with the reference point unknown; out of
HALT a cell that waits to be parked is parked. -/
def execStopped (s : State) : Host.Outcome State Fault Refusal :=
  event
    (match s.engine.port with
    | .waiting o => if o.message = .stop then (s.quiet none).parkAgain else s
    | .quiet | .lost => s)

/-- FAULT to a message of a program (R92): the valve closes with its draw, the stroke fault is recorded with the cursors
of the pass in flight, and the program ends. -/
def State.faultInProgram (s : State) (code : Nat) : State :=
  match s.engine.cell, s.engine.board with
  | .running, some t =>
    let s := s.closeValve
    match s.traveler t with
    | none => s
    | some r => (s.recordFault t r.strokeCursor r.passCursor (.gantry code)).endProgram t
  | _, _ => s

/-- FAULT to the park MOVE (R93): the cell DONE as at ARRIVED, and a stroke fault of stroke 0, pass 0. -/
def State.faultAtPark (s : State) (code : Nat) : State :=
  match s.engine.cell, s.engine.board with
  | .parking, some t => s.parked.recordFault t 0 0 (.gantry code)
  | _, _ => s

/-- GANTRY_FAULT (R92): the code is recorded whatever the port state; in WAITING the port becomes QUIET with the
reference point unknown, and the outstanding message is ended. -/
def execGantryFault (code : Nat) (s : State) : Host.Outcome State Fault Refusal :=
  event
    (let s := s.onEngine fun e => { e with lastFault := some code }
    match s.engine.port with
    | .waiting o =>
      let s := s.quiet none
      match o.message with
      | .stop => s.parkAgain
      | m => if m.isPark then s.faultAtPark code else s.faultInProgram code
    | .quiet | .lost => s)

/-- GANTRY_PORT_TIMEOUT (R91): any open valve closes with its draw, the port is LOST with the reference point unknown,
and the line enters HALT with cause GANTRY. -/
def execGantryPortTimeout (s : State) : Host.Outcome State Fault Refusal :=
  event
    (match s.engine.port with
    | .waiting _ =>
      ((s.closeValve).onEngine fun e => { e with port := .lost, reference := none }).enterHalt .gantry none
    | .quiet | .lost => s)

/-! ### The transfer to the flash belt (R94) -/

/-- The board the stroke engine may send to the flash belt now. -/
def State.flashReady (s : State) : Option Nat :=
  match s.engine.cell, s.engine.board with
  | .done, some t =>
    if (s.traveler t).any (fun r => r.stage == .spray && r.place == .present) = true ∧ s.named .cell = false ∧
        s.mode ≠ .halt ∧ s.flashCount < Config.flashCapacity then some t
    else none
  | _, _ => none

/-- FLASH_TRANSFER_START (R94); where it ends at once the cell is vacant and the pre diverter decides (R77). -/
def execFlashTransferStart (s : State) : Host.Outcome State Fault Refusal :=
  event
    (match s.flashReady with
    | none => s
    | some t =>
      let s := s.startTransfer t .cell .flashBelt
      if s.engine.cell = .vacant then s.handArrival .flashBelt else s)

/-! ### SetGantryLimits (R97) -/

/-- SetGantryLimits judged in the order of R97. -/
def ownSetGantryLimits (l : GantryLimits) (s : State) : State × Reply :=
  match firstAtFault (gantryChecks l) with
  | some k => refuse s .invalid [.word k]
  | none =>
    match s.engine.cell with
    | .running | .parking | .aborted => refuse s .busy
    | .vacant | .loading | .ready | .done => accept (s.onEngine fun e => { e with limits := some l })

/-- SET_GANTRY_LIMITS (R97). -/
def execSetGantryLimits (q : Req) (l : GantryLimits) (s : State) : Host.Outcome State Fault Refusal :=
  request q 29 0 (fun _ => ownSetGantryLimits l) s

end Sys2Proof.Machine
end

