-- ==== Sys2Proof/Machine/Oven.lean ====
section
/-! DEFINITION. The meanings of the cure monitor's commands (chapters 7 and 8): the oven geometry and speed, reading the
oven, the second tick's dose accrual, sampling rounds, belt advances, overdue marks, admission, the move out of the
oven and the start of the transfer to the post-inspection station. -/

namespace Sys2Proof.Machine

/-! ### Geometry and speed -/

/-- SetOvenGeometry judged in the order of R112; lengths are kept in 0.1 mm. -/
def ownSetOvenGeometry (length : Nat) (bounds : List Nat) (gap : Nat) (s : State) : State × Reply :=
  match firstAtFault (geometryChecks s.io.straps.zones length bounds gap) with
  | some k => refuse s .invalid [.word k]
  | none =>
    if s.anyTraveler inCureStages then refuse s .busy
    else
      accept (s.onCure fun c =>
        { c with geometry := some { length := length * 10, bounds := bounds.map (· * 10), gap := gap * 10 } })

/-- SET_OVEN_GEOMETRY (R112). -/
def execSetOvenGeometry (q : Req) (length : Nat) (bounds : List Nat) (gap : Nat) (s : State) :
    Host.Outcome State Fault Refusal :=
  request q 30 0 (fun _ => ownSetOvenGeometry length bounds gap) s

/-- SetOvenSpeed judged in the order of R121: clamped into I, answered CLAMPED with the value applied where the clamp
changes it. -/
def ownSetOvenSpeed (v : Nat) (s : State) : State × Reply :=
  if !within Config.beltMin Config.beltMax v then refuse s .invalid
  else if s.mode = .halt then refuse s .mode
  else
    let applied := clamp s.cure.rangeLow s.cure.rangeHigh v
    (s.setSpeed applied .request,
      if applied = v then { status := .ok, fields := [] } else { status := .clamped, fields := [u2 applied] })

/-- SET_OVEN_SPEED (R121). -/
def execSetOvenSpeed (q : Req) (v : Nat) (s : State) : Host.Outcome State Fault Refusal :=
  request q 31 1 (fun _ => ownSetOvenSpeed v) s

/-! ### Reading the oven (R122) -/

/-- The geometry in mm, as the request gave it (R122). -/
def geometryFields (g : OvenGeometry) : List Field :=
  u2 (g.length / 10) :: listOf (fun b => [u2 (b / 10)]) g.bounds ++ [u2 (g.gap / 10)]

/-- An entry of the flash list: tag, number, flash time, flash minimum and maximum, overdue mark (R122). The flash time
is an optional field with its presence byte (DESIGN CHOICE, log 12). -/
def State.flashEntry (s : State) (t : Nat) : List Field :=
  match s.traveler t with
  | none => []
  | some r =>
    [.text r.tag, u1 t] ++ optional (fun n => [u4 n]) (s.flashTime r) ++ [u2 (s.flashMinimum r)] ++
      optional (fun n => [u2 n]) (s.flashMaximum r) ++ [.word (markCode (s.cure.overdue.contains t))]

/-- An entry of the oven list: tag, number, lead position, admission stamp, range or the mark unreachable, forced form,
both doses (R122). The lead position is an optional field, and the mark unreachable an absent one (DESIGN CHOICE,
log 12). -/
def State.ovenEntry (s : State) (e : OvenEntry) : List Field :=
  match s.traveler e.traveler with
  | none => []
  | some r =>
    [.text r.tag, u1 e.traveler] ++ optional (fun n => [u4 n]) r.lead ++ [uTime e.stamp] ++
      optional (fun x => [u2 x.1, u2 x.2]) e.range ++ [.word e.form.code, u4 r.passDose, u4 r.lifeDose]

/-- A zone in GetOven: its state, its last value or none, and its two runs (R126). -/
def zoneFields (z : Zone) : List Field :=
  .word z.state.code :: optional (fun v => [i2 v]) z.last ++ [u1 z.invalidRun, u1 z.validRun]

/-- The answer of GetOven (R122). -/
def State.ovenReply (s : State) : Reply :=
  { status := .ok
    fields :=
      optional geometryFields s.cure.geometry ++
        [u2 s.cure.setpoint, u2 s.cure.output, u2 s.cure.rangeLow, u2 s.cure.rangeHigh,
          .word (yesNoCode s.cure.stalled), .word (if s.cure.stopUp then 0 else 1)] ++
        listOf s.flashEntry s.cure.flash ++ [u1 s.flashCount] ++ listOf s.ovenEntry s.cure.oven ++
        listOf (fun t => [.text (s.tagOf t)]) s.cure.exit ++ s.cure.zones.flatMap zoneFields }

/-- GET_OVEN (R122). -/
def execGetOven (q : Req) (s : State) : Host.Outcome State Fault Refusal :=
  request q 32 3 (fun _ => reads State.ovenReply) s

/-! ### Ticks, samples and belt -/

/-- SECOND_TICK (R177, R128): line seconds rises by one, and every board in CURE accrues its dose and is tested, in the
order of the oven list (log 24). -/
def execSecondTick (s : State) : Host.Outcome State Fault Refusal :=
  event
    (let s := s.onIo fun io => { io with seconds := io.seconds + 1 }
    s.cure.oven.foldl State.accrue s)

/-- FLASH_OVERDUE (R111) of a traveler. -/
def execFlashOverdue (t : Nat) (s : State) : Host.Outcome State Fault Refusal := event (s.examineOverdue t)

/-- SAMPLING_ROUND (R124): one sample from each channel of zones 1 to the strapped zone count. -/
def execSamplingRound (channels : List ChannelSignals) (s : State) : Host.Outcome State Fault Refusal :=
  event (State.sampleFrom 1 s.io.straps.zones channels s)

/-- The lead position of every board in CURE advanced by 0.1 mm (R127). -/
def advanceLead (o : Option Traveler) : Option Traveler :=
  o.map fun r => if r.stage = .cure then { r with lead := r.lead.map (· + 1) } else r

/-- BELT_ADVANCE (R127): the prescaler underflows and reloads, the boards in CURE advance, and the head of the oven
list is examined for a stall (R134). -/
def execBeltAdvance (s : State) : Host.Outcome State Fault Refusal :=
  event
    ((s.onCure fun c => { c with prescaler := s.io.timeouts.reload }).onTable fun b =>
      { b with records := b.records.map advanceLead }).examineStall

/-! ### Moves of the cure monitor -/

/-- OVEN_ADMISSION (R116 to R118). -/
def execOvenAdmission (s : State) : Host.Outcome State Fault Refusal :=
  event
    (match s.admission with
    | none => s
    | some a => s.admitBoard a)

/-- OVEN_EXIT_MOVE (R132). -/
def execOvenExitMove (s : State) : Host.Outcome State Fault Refusal :=
  event
    (match s.exitMove with
    | none => s
    | some e => s.moveOut e)

/-- The board of the exit list that may start for the post-inspection station now (R133). -/
def State.exitReady (s : State) : Option Nat :=
  match s.cure.exit with
  | [] => none
  | t :: _ =>
    if (s.traveler t).any (·.place == .present) = true ∧ s.vacant .postStation = true ∧
        s.named .accumulator = false ∧ s.mode ≠ .halt then some t
    else none

/-- EXIT_TRANSFER_START (R133). -/
def execExitTransferStart (s : State) : Host.Outcome State Fault Refusal :=
  event
    (match s.exitReady with
    | none => s
    | some t => s.startTransfer t .accumulator .postStation)

end Sys2Proof.Machine
end

