-- ==== Sys2Proof/Machine/HoldDesk.lean ====
section
/-! DEFINITION. The meanings of the hold manager's requests (chapter 10): release levels, placing and releasing holds, and
the five dispositions of a shelved board. -/

namespace Sys2Proof.Machine

/-! ### Release levels (R147) -/

/-- SetReleaseLevel (R147): answered with the level before and after. -/
def ownSetReleaseLevel (reason level : Nat) (s : State) : State × Reply :=
  match HoldReason.ofCode reason, within 0 3 level with
  | some r, true =>
    accept (s.onHolds fun m => { m with levels := m.levels.set r.code level }) [u1 (s.holds.levelOf r), u1 level]
  | _, _ => refuse s .invalid

/-- SET_RELEASE_LEVEL (R147). -/
def execSetReleaseLevel (q : Req) (reason level : Nat) (s : State) : Host.Outcome State Fault Refusal :=
  request q 33 0 (fun _ => ownSetReleaseLevel reason level) s

/-! ### Placing a hold (R151) -/

/-- The word of a PlaceHold answer: OPENED, REOPENED or COUNTED (R151). -/
def RaiseResult.code : RaiseResult → Nat
  | .opened => 0 | .reopened => 1 | .counted => 2 | .refused => 3

/-- The occurrence count of a traveler's record for a reason. -/
def State.occurrences (s : State) (t : Nat) (reason : HoldReason) : Nat :=
  match s.traveler t with
  | none => 0
  | some r => ((findHold reason r.holds).map (·.count)).getD 0

/-- PlaceHold (R151): OPERATOR raised by the link at the traveler's stage; a raise that opens or reopens the record is
handed to the diverter that waits for the board (R149). -/
def ownPlaceHold (l : Link) (tag : Text) (note : Nat) (s : State) : State × Reply :=
  if !within 0 65535 note then refuse s .invalid
  else
    withTag tag (fun t r s =>
      if s.leaving t then refuse s .stage
      else
        let word := s.raiseResult t .operator
        let after := s.raiseHold t .operator (.link l) r.stage (some (.note note))
        let reply := [.word word.code, u2 (after.occurrences t .operator)]
        if word = .counted then accept after reply else accept (after.decideFor t) reply) s

/-- PLACE_HOLD (R151). -/
def execPlaceHold (q : Req) (tag : Text) (note : Nat) (s : State) : Host.Outcome State Fault Refusal :=
  request q 34 2 (fun _ => ownPlaceHold q.link tag note) s

/-! ### Releasing holds (R152 to R154) -/

/-- ReleaseHold of one reason judged in the order of R152; the release is handed to the waiting diverter (R154). -/
def ownReleaseHold (l : Link) (eff : Nat) (tag : Text) (reason : Nat) (s : State) : State × Reply :=
  match HoldReason.ofCode reason with
  | none => refuse s .invalid
  | some k =>
    withTag tag (fun t r s =>
      match (findHold k r.holds).filter (·.state == .isOpen) with
      | none => refuse s .notFound [.word k.code]
      | some h =>
        if h.level < eff then refuse s .level [u1 h.level]
        else accept ((s.releaseRecord t h l eff).decideFor t)) s

/-- RELEASE_HOLD (R152). -/
def execReleaseHold (q : Req) (tag : Text) (reason : Nat) (s : State) : Host.Outcome State Fault Refusal :=
  request q 35 3 (fun eff => ownReleaseHold q.link eff tag reason) s

/-- The OPEN records of a hold set, in set order. -/
def openHolds (l : List Hold) : List Hold := l.filter (·.state == .isOpen)

/-- A list of reasons in an answer. -/
def reasonFields (l : List Hold) : List Field := listOf (fun h => [.word h.reason.code]) l

/-- ReleaseHold of ALL (R153): every OPEN record that the effective level allows is released in set order, and the
releases are handed on together after the last of them. -/
def ownReleaseHoldAll (l : Link) (eff : Nat) (tag : Text) (s : State) : State × Reply :=
  withTag tag (fun t r s =>
    let found := openHolds r.holds
    let allowed := found.filter fun h => decide (eff ≤ h.level)
    let kept := found.filter fun h => decide (h.level < eff)
    if found.isEmpty then refuse s .notFound
    else if allowed.isEmpty then refuse s .level (reasonFields kept)
    else
      accept ((allowed.foldl (fun s h => s.releaseRecord t h l eff) s).decideFor t)
        (reasonFields allowed ++ reasonFields kept)) s

/-- RELEASE_HOLD_ALL (R153). -/
def execReleaseHoldAll (q : Req) (tag : Text) (s : State) : Host.Outcome State Fault Refusal :=
  request q 35 3 (fun eff => ownReleaseHoldAll q.link eff tag) s

/-! ### Dispositions (R157 to R161) -/

/-- The weakest level a disposition may be asked at (R157); none for a word that is none of the five. -/
def dispositionLevel : DispositionField → Option Nat
  | .redoFull | .touchUp _ _ | .reCure => some 2
  | .accept => some 0
  | .scrap => some 1
  | .other _ => none

/-- The route of a re-entry disposition. -/
def reentryRoute : DispositionField → Option Route
  | .redoFull => some .full
  | .touchUp f l => some (.touchUp f l)
  | .reCure => some .reCure
  | .accept | .scrap | .other _ => none

/-- Every RELEASED record removed from a hold set (R158). -/
def dropReleased (l : List Hold) : List Hold := l.filter (·.state != .released)

/-- The traveler's fields at a re-entry (R158 to R160): RE_CURE clears the coverage verdicts and the RELEASED records;
REDO_FULL and TOUCH_UP also the site verdicts, offset, program, coat summary and spray end stamp; REDO_FULL alone the
pass dose. The lifetime dose is kept by all three. -/
def reentryFields (recipe : RecipeSlot) (route : Route) (r : Traveler) : Traveler :=
  let r := { r with route := route, coverage := List.replicate recipe.windows.length .unchecked,
                    holds := dropReleased r.holds }
  match route with
  | .reCure => r
  | .full | .touchUp _ _ =>
    { r with sites := List.replicate recipe.sites.length .unchecked, fiducial := none, program := .notStarted,
             strokeCursor := 0, passCursor := 0, coat := { run := 0, skipped := 0, faults := 0, first := none },
             sprayEnd := none, passDose := if route = .full then 0 else r.passDose }

/-- A re-entry carried out in the order of R157: the fields, the slot freed, QUEUED at the tail of the infeed queue
with BOARD_STAGE posted, the freed slot handed to the diverters. -/
def State.reenter (s : State) (t : Nat) (r : Traveler) (route : Route) : State :=
  let s := s.setTraveler t (reentryFields (s.recipeOf r) route r)
  let s := s.freeSlot t
  let s := s.onTable fun b => { b with queue := b.queue ++ [t] }
  (s.moveStage t .queued .present).decideBoth

/-- The stroke range of a TOUCH_UP (R157); the other dispositions have none to check. -/
def strokesInRange (strokes : Nat) : DispositionField → Bool
  | .touchUp f l => decide (1 ≤ f) && decide (f ≤ l) && decide (l ≤ strokes)
  | _ => true

/-- Dispose judged in the order of R157, then carried out. -/
def ownDispose (eff : Nat) (tag : Text) (d : DispositionField) (s : State) : State × Reply :=
  match dispositionLevel d with
  | none => refuse s .invalid
  | some need =>
    withTag tag (fun t r s =>
      if need < eff then refuse s .level
      else if !(r.stage == .shelved && r.place == .present) then refuse s .stage
      else if !strokesInRange (s.recipeOf r).strokes.length d then refuse s .invalid
      else if r.held && d != .scrap then refuse s .holdsOpen (reasonFields (openHolds r.holds))
      else
        match reentryRoute d with
        | some route =>
          if s.mode = .drain then refuse s .mode
          else if Config.queueCapacity ≤ s.occupancy then refuse s .full
          else accept (s.reenter t r route)
        | none => accept (s.retire t (if d = .accept then .accepted else .scrapped)).decideBoth) s

/-- DISPOSE (R157). -/
def execDispose (q : Req) (tag : Text) (d : DispositionField) (s : State) : Host.Outcome State Fault Refusal :=
  request q 36 2 (fun eff => ownDispose eff tag d) s

end Sys2Proof.Machine
end

