-- ==== Sys2Proof/Machine/LinkDesk.lean ====
section
/-! DEFINITION. The meanings of the link interfaces' commands (chapter 11): Subscribe, Take, Peek, SetTrigger, Restart,
GetConfig, frames that are no request, discarded frames, start marks and answers that leave. -/

namespace Sys2Proof.Machine

/-! ### Subscriptions (R171) -/

/-- The six classes in their order (11.4). -/
def allClasses : List NoticeClass := [.alarm, .hold, .inspect, .lot, .board, .line]

/-- The classes a list of words names; none where a word is none of the six. -/
def readClasses : List Nat → Option (List NoticeClass)
  | [] => some []
  | n :: rest =>
    match NoticeClass.ofCode n, readClasses rest with
    | some c, some cs => some (c :: cs)
    | _, _ => none

/-- The set after SET (0) or CLEAR (1) of the named classes (R171). R171 gives a set without an order; it is kept, and so
sent by Subscribe and Peek, in class order (DESIGN CHOICE, log 12). -/
def nextSubs (mode : Nat) (subs named : List NoticeClass) : Option (List NoticeClass) :=
  match mode with
  | 0 => some (allClasses.filter fun c => subs.contains c || named.contains c)
  | 1 => some (allClasses.filter fun c => subs.contains c && !named.contains c)
  | _ => none

/-- A set of classes in an answer. -/
def classFields (l : List NoticeClass) : List Field := listOf (fun c => [.word (NoticeClass.code c)]) l

/-- Subscribe (R171). -/
def ownSubscribe (l : Link) (mode : Nat) (classes : List Nat) (s : State) : State × Reply :=
  match readClasses classes with
  | none => refuse s .invalid
  | some named =>
    match nextSubs mode (s.link l).subs named with
    | none => refuse s .invalid
    | some subs =>
      if 6 < classes.length then refuse s .invalid
      else accept (s.onLink l fun x => { x with subs := subs }) (classFields subs)

/-- SUBSCRIBE (R171). -/
def execSubscribe (q : Req) (mode : Nat) (classes : List Nat) (s : State) : Host.Outcome State Fault Refusal :=
  request q 37 3 (fun _ => ownSubscribe q.link mode classes) s

/-! ### Take (R172) -/

/-- How many of the queued notices a Take of `n` returns: it stops after `n`, at the end of the queue, or at the first
that no longer fits in the room left (R172). -/
def fitting : Nat → Nat → List Notice → Nat
  | 0, _, _ => 0
  | _ + 1, _, [] => 0
  | n + 1, room, x :: rest => if x.size ≤ room then 1 + fitting n (room - x.size) rest else 0

/-- The bytes of a Take answer's body that stand before its notices: status, count, depth and marker. The notices carry
no list count of their own besides the number returned (DESIGN CHOICE, log 12). -/
def takeHead : Nat := 4

/-- Take (R172). -/
def ownTake (l : Link) (n : Nat) (s : State) : State × Reply :=
  if !within 1 8 n then refuse s .invalid
  else
    let x := s.link l
    let k := fitting n (Config.bodyCapacity - takeHead) x.queue
    accept (s.onLink l fun x => LinkState.judge { x with queue := x.queue.drop k, overrun := false })
      ([u1 k, u1 (x.queue.length - k), .word (markCode x.overrun)] ++ (x.queue.take k).flatMap Notice.fields)

/-- TAKE (R172). -/
def execTake (q : Req) (n : Nat) (s : State) : Host.Outcome State Fault Refusal :=
  request q 38 3 (fun _ => ownTake q.link n) s

/-! ### Peek, SetTrigger, Restart -/

/-- The highest class among the queued notices (R173). -/
def highestClass (l : List Notice) : Option NoticeClass := allClasses.find? fun c => l.any fun n => n.kind.cls == c

/-- The answer of Peek (R173). -/
def peekReply (l : Link) (s : State) : Reply :=
  let x := s.link l
  { status := .ok
    fields :=
      u1 x.queue.length :: optional (fun c => [.word (NoticeClass.code c)]) (highestClass x.queue) ++
        [.word (markCode x.overrun), u1 x.trigger] ++ classFields x.subs }

/-- PEEK (R173). -/
def execPeek (q : Req) (s : State) : Host.Outcome State Fault Refusal :=
  request q 39 3 (fun _ => reads (peekReply q.link)) s

/-- SetTrigger (R173): the attention output is judged again at once. -/
def ownSetTrigger (l : Link) (k : Nat) (s : State) : State × Reply :=
  if !within 1 Config.noticeCapacity k then refuse s .invalid
  else
    accept (s.onLink l fun x => LinkState.judge { x with trigger := k }) [u1 (s.link l).queue.length]

/-- SET_TRIGGER (R173). -/
def execSetTrigger (q : Req) (k : Nat) (s : State) : Host.Outcome State Fault Refusal :=
  request q 40 3 (fun _ => ownSetTrigger q.link k) s

/-- The link holds the claim on the board of a station (R59). -/
def State.claimsAt (s : State) (l : Link) (x : Station) : Option Nat :=
  match s.record x with
  | none => none
  | some i => if (s.traveler i.traveler).any (·.claim == some l) then some i.traveler else none

/-- The claim a link holds at a station dropped; the inspection stays OPEN with its timer and posts (R70). -/
def State.dropClaim (s : State) (l : Link) (x : Station) : State :=
  match s.claimsAt l x with
  | none => s
  | some t => s.onTraveler t fun r => { r with claim := none }

/-- The notice state of a link at its values after reset (R175). -/
def LinkState.restart (x : LinkState) : LinkState :=
  LinkState.judge { x with queue := [], subs := [], trigger := 1, overrun := false }

/-- Restart (R175): the link's notice state, then the claims it holds at both stations; answered with their number. -/
def ownRestart (l : Link) (s : State) : State × Reply :=
  let n := (if (s.claimsAt l .pre).isSome then 1 else 0) + (if (s.claimsAt l .post).isSome then 1 else 0)
  accept (((s.onLink l LinkState.restart).dropClaim l .pre).dropClaim l .post) [u1 n]

/-- RESTART (R175). -/
def execRestart (q : Req) (s : State) : Host.Outcome State Fault Refusal :=
  request q 41 3 (fun _ => ownRestart q.link) s

/-! ### GetConfig (R168) -/

/-- The gantry port state's word (R90). -/
def PortState.code : PortState → Nat
  | .quiet => 0 | .waiting _ => 1 | .lost => 2

/-- The answer of GetConfig to a request of an effective level (R168). The marks unset (gantry limits) and unknown
(reference point) are absent optional fields (DESIGN CHOICE, log 12). -/
def configReply (eff : Nat) (s : State) : Reply :=
  { status := .ok
    fields :=
      [u1 s.io.straps.heads, u1 s.io.straps.zones, u1 s.io.straps.levelA, u1 s.io.straps.levelB,
          u1 s.io.straps.levelC] ++
        timeoutFields s.io.timeouts ++ optional gantryFields s.engine.limits ++ [.word s.engine.port.code] ++
        optional pointFields s.engine.reference ++ optional (fun n => [u1 n]) s.engine.lastFault ++
        [.word (if s.cure.geometry.isSome then 0 else 1)] ++ s.holds.levels.map u1 ++ [u1 eff] }

/-- GET_CONFIG (R168). -/
def execGetConfig (q : Req) (s : State) : Host.Outcome State Fault Refusal :=
  request q 42 3 (fun eff => reads (configReply eff)) s

/-! ### SetTimeouts (R184) -/

/-- SetTimeouts (R184): all six values together. -/
def ownSetTimeouts (t : Timeouts) (s : State) : State × Reply :=
  match firstAtFault (timeoutChecks t) with
  | some k => refuse s .invalid [.word k]
  | none => accept (s.onIo fun io => { io with timeouts := t })

/-- SET_TIMEOUTS (R184). -/
def execSetTimeouts (q : Req) (t : Timeouts) (s : State) : Host.Outcome State Fault Refusal :=
  request q 43 0 (fun _ => ownSetTimeouts t) s

/-! ### Frames that are no request, reception and answers -/

/-- A complete frame that is no request of the index (R164): LINK_BUSY where a request of the link is in service, else
FORMAT, with the strapped level and the code and correlation as received; discarded where the answer list is full
(R165). -/
def State.badFrame (s : State) (q : Req) (code : Nat) : State :=
  let s := s.onLink q.link LinkState.frameEnded
  if (s.link q.link).answersFull then s
  else
    let status : Status := if (s.link q.link).inService || q.overlaps then .linkBusy else .format
    s.onLink q.link (·.answer
      { code := code, level := s.strapped q.link, corr := q.corr, status := status, fields := [] })

/-- BAD_FRAME (R164). -/
def execBadFrame (q : Req) (code : Nat) (s : State) : Host.Outcome State Fault Refusal := event (s.badFrame q code)

/-- FRAME_DISCARDED (R163, R165): no answer is sent and the interface returns to SEARCHING, whatever the cause. -/
def execFrameDiscarded (l : Link) (_cause : DiscardCause) (s : State) : Host.Outcome State Fault Refusal :=
  event (s.onLink l LinkState.frameEnded)

/-- INTER_BYTE_TIMEOUT (R163): the bytes received so far are discarded. -/
def execInterByteTimeout (l : Link) (s : State) : Host.Outcome State Fault Refusal :=
  event (s.onLink l LinkState.frameEnded)

/-- START_MARK_RECEIVED (R163): a link that is SEARCHING enters a frame. Inside a frame the event does not arise: the
byte is one of the frame's own. -/
def execStartMarkReceived (l : Link) (s : State) : Host.Outcome State Fault Refusal :=
  event (s.onLink l fun x =>
    match x.reception with
    | .searching => { x with reception := .inFrame [] 0 }
    | .inFrame _ _ => x)

/-- ANSWER_SENT (R165): the answer at the head of the list has left; while a request in service holds the head of the
list open, no answer leaves. -/
def execAnswerSent (l : Link) (s : State) : Host.Outcome State Fault Refusal :=
  event (s.onLink l fun x => if x.inService then x else { x with answers := x.answers.drop 1 })

end Sys2Proof.Machine
end

