-- ==== Sys2Proof/Machine/LineInputs.lean ====
section
/-! DEFINITION. The meanings of line I/O and time base events (chapter 12): the two resets, the blink toggle, a change of a
debounced sensor, and the E-stop input. -/

namespace Sys2Proof.Machine

/-- A pin reads 1 when it is open (R183). -/
def pinValue (isOpen : Bool) : Nat := if isOpen then 1 else 0

/-- The values the straps latch (R183). -/
def latchStraps (p : StrapPins) : Straps :=
  { levelA := 2 * pinValue p.lva1 + pinValue p.lva0
    levelB := 2 * pinValue p.lvb1 + pinValue p.lvb0
    levelC := 2 * pinValue p.lvc1 + pinValue p.lvc0
    heads := if p.hds then 1 else 2
    zones := 3 + 2 * pinValue p.zns1 + pinValue p.zns0 }

/-- Every block at its reset values and the straps latched at the end of reset; the commands that wait and the input
pins are the outside's (R23, R42, R54, R55, R98, R123, R126, R136, R146, R147, R155, R176 to R184). -/
def State.resetBlocks (s : State) (p : StrapPins) : State :=
  State.afterReset (latchStraps p) s.io.inputs s.pending

/-- POWER_ON_RESET (R23, R183). -/
def execPowerOnReset (p : StrapPins) (s : State) : Host.Outcome State Fault Refusal := event (s.resetBlocks p)

/-- RESET_PIN (R23, R183). -/
def execResetPin (p : StrapPins) (s : State) : Host.Outcome State Fault Refusal := event (s.resetBlocks p)

/-- BLINK_TOGGLE (R178): the blink phase changes, in every line mode. -/
def execBlinkToggle (s : State) : Host.Outcome State Fault Refusal :=
  event (s.onIo fun io => { io with blinkOn := !io.blinkOn })

/-- A debounced reading changed, and the input pin that has shown the level (R179). -/
def LineIo.setSensor (io : LineIo) (x : Sensor) (occupied : Bool) : LineIo :=
  { io with sensors := io.sensors.set (Sensor.index x) { reading := occupied, run := 0 },
            inputs := { io.inputs with sensors := io.inputs.sensors.set (Sensor.index x) occupied } }

/-- SENSOR_CHANGE (R179): the reading changes. The end stop rises when the flash-end sensor next reads vacant (R110);
the end of a transfer is a step of its own (R17). -/
def execSensorChange (x : Sensor) (occupied : Bool) (s : State) : Host.Outcome State Fault Refusal :=
  event
    (if s.occupied x = occupied then s
    else
      let s := s.onIo (·.setSensor x occupied)
      if x = .flashEnd ∧ occupied = false then s.onCure fun c => { c with stopUp := true } else s)

/-- ESTOP_ASSERTION (R181): the input recognised as asserted; an open valve closes with its draw (R88), and the event is
handed to the traveler table. -/
def execEstopAssertion (s : State) : Host.Outcome State Fault Refusal :=
  event
    (if s.io.estop then s
    else
      (s.onIo fun io =>
        { io with estop := true, estopHanded := true, estopRun := 0,
                  inputs := { io.inputs with estopLow := true } }).closeValve)

/-- ESTOP_RELEASE (R181): the input recognised as released; nothing moves. -/
def execEstopRelease (s : State) : Host.Outcome State Fault Refusal :=
  event
    (if s.io.estop then
      s.onIo fun io =>
        { io with estop := false, estopRun := 0, inputs := { io.inputs with estopLow := false } }
    else s)

end Sys2Proof.Machine
end

