-- ==== Sys2Proof/Machine/Frame.lean ====
section
/-! DEFINITION. Request frames (R162, R163, R164): the body each request is sent with, its reading back from bytes, and the
command a completed frame stands for. -/

namespace Sys2Proof.Machine

/-! ### The body of each request -/

def siteRequestFields (r : SiteFields) : List Field := [.word r.kind, .word r.policy, i2 r.x, i2 r.y]

def strokeRequestFields (r : StrokeFields) : List Field :=
  [u1 r.head, u1 r.window, i2 r.startX, i2 r.startY, i2 r.endX, i2 r.endY, u2 r.height, u1 r.passes, i2 r.stepX,
    i2 r.stepY, .word r.serpentine, .word r.valve]

def lotRequestFields (m : LotFields) : List Field :=
  [.text m.id, u1 m.kind, u4 m.charge, u2 m.age, u2 m.potLife, u1 m.derate, u4 m.lowLimit]

/-- A disposition: its word, with the two strokes of a TOUCH_UP (R157). -/
def dispositionFields : DispositionField → List Field
  | .redoFull => [.word 0]
  | .touchUp f l => [.word 1, u1 f, u1 l]
  | .reCure => [.word 2]
  | .accept => [.word 3]
  | .scrap => [.word 4]
  | .other c => [.word c]

/-- The head, request code and body of a request command, the fields in the order its rule lists them (R162, request
index of 11.3); none for an event. -/
def requestParts : Instr → Option (Req × Nat × List Field)
  | .induct q tag slot => some (q, 1, [.text tag, u1 slot])
  | .start q => some (q, 2, [])
  | .drain q => some (q, 3, [])
  | .halt q => some (q, 4, [])
  | .recover q => some (q, 5, [])
  | .clearLine q => some (q, 6, [])
  | .getLine q => some (q, 7, [])
  | .getTraveler q tag => some (q, 8, [.text tag])
  | .listTravelers q stage first => some (q, 9, [.word stage, u1 first])
  | .openRecipe q slot h => some (q, 10, u1 slot :: headerFields h)
  | .putWindows q slot l => some (q, 11, u1 slot :: listOf windowFields l)
  | .putSites q slot l => some (q, 12, u1 slot :: listOf siteRequestFields l)
  | .putStrokes q slot l => some (q, 13, u1 slot :: listOf strokeRequestFields l)
  | .finishRecipe q slot => some (q, 14, [u1 slot])
  | .dropRecipe q slot => some (q, 15, [u1 slot])
  | .getRecipe q slot part first => some (q, 16, [u1 slot, .word part, u1 first])
  | .getRecipeProfile q index first => some (q, 16, [u1 index, .word 4, u1 first])
  | .putCureProfile q index p => some (q, 17, u1 index :: profileFields p)
  | .dropCureProfile q index => some (q, 18, [u1 index])
  | .setHead q head c => some (q, 19, u1 head :: headFields c)
  | .mountLot q head m => some (q, 20, u1 head :: lotRequestFields m)
  | .unmountLot q head => some (q, 21, [u1 head])
  | .getLot q => some (q, 22, [])
  | .claim q tag station => some (q, 23, [.text tag, .word station])
  | .unclaim q tag => some (q, 24, [.text tag])
  | .postFiducials q tag found dx dy => some (q, 25, [.text tag, .word found, i2 dx, i2 dy])
  | .postSite q tag site v => some (q, 26, [.text tag, u1 site, .word v])
  | .postCoverage q tag window v => some (q, 27, [.text tag, u1 window, .word v])
  | .complete q tag => some (q, 28, [.text tag])
  | .setGantryLimits q l => some (q, 29, gantryFields l)
  | .setOvenGeometry q length bounds gap => some (q, 30, u2 length :: listOf (fun b => [u2 b]) bounds ++ [u2 gap])
  | .setOvenSpeed q v => some (q, 31, [u2 v])
  | .getOven q => some (q, 32, [])
  | .setReleaseLevel q reason level => some (q, 33, [.word reason, u1 level])
  | .placeHold q tag note => some (q, 34, [.text tag, u2 note])
  | .releaseHold q tag reason => some (q, 35, [.text tag, .word reason])
  | .releaseHoldAll q tag => some (q, 35, [.text tag, .word reasonAll])
  | .dispose q tag d => some (q, 36, .text tag :: dispositionFields d)
  | .subscribe q mode classes => some (q, 37, .word mode :: listOf (fun c => [.word c]) classes)
  | .take q n => some (q, 38, [u1 n])
  | .peek q => some (q, 39, [])
  | .setTrigger q k => some (q, 40, [u1 k])
  | .restart q => some (q, 41, [])
  | .getConfig q => some (q, 42, [])
  | .setTimeouts q t => some (q, 43, timeoutFields t)
  | .badFrame .. | .frameDiscarded .. | .interByteTimeout .. | .powerOnReset .. | .resetPin .. | .secondTick
  | .lotExpiry .. | .flashOverdue .. | .samplingRound .. | .blinkToggle | .beltAdvance | .sensorChange ..
  | .transferEnd .. | .transferTimerExpiry .. | .inspectionTimerExpiry .. | .valveTimerExpiry | .gantryPortTimeout
  | .arrived | .passDone | .stopped | .gantryFault .. | .estopAssertion | .estopTaken | .estopRelease
  | .queueRelease | .preDiverterDecision | .programStart | .flashTransferStart | .ovenAdmission | .ovenExitMove
  | .exitTransferStart | .exitDiverterDecision | .drainComplete | .startMarkReceived .. | .answerSent .. => none

/-- The frame a partner sends for a request command (R162). -/
def requestFrame (i : Instr) : Option (List Byte) :=
  (requestParts i).map fun x => frameBytes x.2.1 x.1.level x.1.corr (bodyBytes x.2.2)

/-! ### Reading a body (R164) -/

/-- A reader of body fields: what is read and the bytes left, or none where the bytes do not have the form. -/
abbrev Reader (α : Type) := List Byte → Option (α × List Byte)

def Reader.pure {α : Type} (a : α) : Reader α := fun l => some (a, l)

def Reader.bind {α β : Type} (x : Reader α) (f : α → Reader β) : Reader β := fun l =>
  match x l with
  | none => none
  | some (a, rest) => f a rest

/-- An unsigned integer of `width` bytes, low byte first. -/
def readNat : Nat → Reader Nat
  | 0, l => some (0, l)
  | _ + 1, [] => none
  | w + 1, b :: l =>
    match readNat w l with
    | none => none
    | some (n, rest) => some (b.toNat + 256 * n, rest)

/-- A signed integer of `width` bytes in two's complement. -/
def readInt (w : Nat) : Reader Int :=
  Reader.bind (readNat w) fun n =>
    Reader.pure (if n < 2 ^ (8 * w - 1) then (n : Int) else (n : Int) - 2 ^ (8 * w))

/-- A number of single bytes. -/
def readBytes : Nat → Reader Text
  | 0, l => some ([], l)
  | _ + 1, [] => none
  | n + 1, b :: l =>
    match readBytes n l with
    | none => none
    | some (t, rest) => some (b :: t, rest)

/-- A text: its length, then its characters. -/
def readText : Reader Text := Reader.bind (readNat 1) readBytes

/-- `n` items. -/
def readItems {α : Type} (item : Reader α) : Nat → Reader (List α)
  | 0 => Reader.pure []
  | n + 1 => Reader.bind item fun a => Reader.bind (readItems item n) fun as => Reader.pure (a :: as)

/-- A list: its count, then its items. -/
def readList {α : Type} (item : Reader α) : Reader (List α) := Reader.bind (readNat 1) (readItems item)

def readHeader : Reader Header :=
  Reader.bind readText fun name => Reader.bind (readNat 2) fun revision => Reader.bind (readNat 2) fun length =>
  Reader.bind (readNat 2) fun width => Reader.bind (readNat 1) fun kind => Reader.bind (readNat 2) fun flashMin =>
  Reader.bind (readNat 2) fun flashMax => Reader.bind (readNat 2) fun dwellMin =>
  Reader.bind (readNat 2) fun dwellMax => Reader.bind (readNat 1) fun profile =>
  Reader.pure
    { name := name, revision := revision, length := length, width := width, kind := kind, flashMin := flashMin,
      flashMax := flashMax, dwellMin := dwellMin, dwellMax := dwellMax, profile := profile }

def readWindow : Reader Window :=
  Reader.bind (readInt 2) fun x0 => Reader.bind (readInt 2) fun y0 => Reader.bind (readInt 2) fun x1 =>
  Reader.bind (readInt 2) fun y1 => Reader.bind (readNat 2) fun t => Reader.bind (readNat 1) fun tol =>
  Reader.bind (readNat 1) fun mask =>
  Reader.pure { x0 := x0, y0 := y0, x1 := x1, y1 := y1, thickness := t, tolerance := tol, mask := mask }

def readSite : Reader SiteFields :=
  Reader.bind (readNat 1) fun kind => Reader.bind (readNat 1) fun policy => Reader.bind (readInt 2) fun x =>
  Reader.bind (readInt 2) fun y => Reader.pure { kind := kind, policy := policy, x := x, y := y }

def readStroke : Reader StrokeFields :=
  Reader.bind (readNat 1) fun head => Reader.bind (readNat 1) fun window => Reader.bind (readInt 2) fun startX =>
  Reader.bind (readInt 2) fun startY => Reader.bind (readInt 2) fun endX => Reader.bind (readInt 2) fun endY =>
  Reader.bind (readNat 2) fun height => Reader.bind (readNat 1) fun passes => Reader.bind (readInt 2) fun stepX =>
  Reader.bind (readInt 2) fun stepY => Reader.bind (readNat 1) fun serpentine => Reader.bind (readNat 1) fun valve =>
  Reader.pure
    { head := head, window := window, startX := startX, startY := startY, endX := endX, endY := endY,
      height := height, passes := passes, stepX := stepX, stepY := stepY, serpentine := serpentine, valve := valve }

/-- A cure profile's fields (R39), the sixteen weights read without a count (DESIGN CHOICE, log 12). -/
def readProfile : Reader Profile :=
  Reader.bind (readNat 1) fun base => Reader.bind (readItems (readNat 1) 16) fun weights =>
  Reader.bind (readNat 4) fun required => Reader.bind (readNat 4) fun passMax => Reader.bind (readNat 4) fun lifeMax =>
  Reader.pure { base := base, weights := weights, required := required, passMax := passMax, lifeMax := lifeMax }

def readHeadConfig : Reader HeadConfig :=
  Reader.bind (readNat 2) fun flow => Reader.bind (readNat 2) fun fan => Reader.bind (readNat 2) fun height =>
  Reader.bind (readNat 2) fun zMin => Reader.bind (readNat 2) fun zMax => Reader.bind (readNat 2) fun fanMin =>
  Reader.bind (readNat 2) fun fanMax => Reader.bind (readNat 2) fun vMin => Reader.bind (readNat 2) fun vMax =>
  Reader.bind (readNat 2) fun transit =>
  Reader.pure
    { flow := flow, fan := fan, height := height, zMin := zMin, zMax := zMax, fanMin := fanMin, fanMax := fanMax,
      vMin := vMin, vMax := vMax, transit := transit }

def readLot : Reader LotFields :=
  Reader.bind readText fun id => Reader.bind (readNat 1) fun kind => Reader.bind (readNat 4) fun charge =>
  Reader.bind (readNat 2) fun age => Reader.bind (readNat 2) fun potLife => Reader.bind (readNat 1) fun derate =>
  Reader.bind (readNat 4) fun lowLimit =>
  Reader.pure
    { id := id, kind := kind, charge := charge, age := age, potLife := potLife, derate := derate,
      lowLimit := lowLimit }

def readPoint : Reader Point :=
  Reader.bind (readInt 4) fun x => Reader.bind (readInt 4) fun y => Reader.bind (readInt 4) fun z =>
  Reader.pure { x := x, y := y, z := z }

def readLimits : Reader GantryLimits :=
  Reader.bind (readInt 4) fun xMin => Reader.bind (readInt 4) fun xMax => Reader.bind (readInt 4) fun yMin =>
  Reader.bind (readInt 4) fun yMax => Reader.bind (readInt 4) fun zMin => Reader.bind (readInt 4) fun zMax =>
  Reader.bind readPoint fun origin => Reader.bind readPoint fun park => Reader.bind (readNat 2) fun parkSpeed =>
  Reader.pure
    { xMin := xMin, xMax := xMax, yMin := yMin, yMax := yMax, zMin := zMin, zMax := zMax, origin := origin,
      park := park, parkSpeed := parkSpeed }

def readTimeouts : Reader Timeouts :=
  Reader.bind (readNat 1) fun transfer => Reader.bind (readNat 1) fun pre => Reader.bind (readNat 1) fun post =>
  Reader.bind (readNat 2) fun margin => Reader.bind (readNat 1) fun fiducial => Reader.bind (readNat 2) fun reload =>
  Reader.pure
    { transfer := transfer, pre := pre, post := post, margin := margin, fiducial := fiducial, reload := reload }

def readDisposition : Reader DispositionField :=
  Reader.bind (readNat 1) fun w =>
    match w with
    | 0 => Reader.pure .redoFull
    | 1 => Reader.bind (readNat 1) fun f => Reader.bind (readNat 1) fun l => Reader.pure (.touchUp f l)
    | 2 => Reader.pure .reCure
    | 3 => Reader.pure .accept
    | 4 => Reader.pure .scrap
    | n => Reader.pure (.other n)

/-- A body with no fields. -/
def readNone (i : Instr) : Reader Instr := Reader.pure i

/-- The reader of a request code's body; none where the code names no request of the index (R164). GetRecipe's `from` is
read as one byte (DESIGN CHOICE, log 12). -/
def requestReader (q : Req) : Nat → Option (Reader Instr)
  | 1 => some (Reader.bind readText fun tag => Reader.bind (readNat 1) fun n => Reader.pure (.induct q tag n))
  | 2 => some (readNone (.start q))
  | 3 => some (readNone (.drain q))
  | 4 => some (readNone (.halt q))
  | 5 => some (readNone (.recover q))
  | 6 => some (readNone (.clearLine q))
  | 7 => some (readNone (.getLine q))
  | 8 => some (Reader.bind readText fun tag => Reader.pure (.getTraveler q tag))
  | 9 => some (Reader.bind (readNat 1) fun g => Reader.bind (readNat 1) fun n => Reader.pure (.listTravelers q g n))
  | 10 => some (Reader.bind (readNat 1) fun n => Reader.bind readHeader fun h => Reader.pure (.openRecipe q n h))
  | 11 => some (Reader.bind (readNat 1) fun n => Reader.bind (readList readWindow) fun l =>
      Reader.pure (.putWindows q n l))
  | 12 => some (Reader.bind (readNat 1) fun n => Reader.bind (readList readSite) fun l =>
      Reader.pure (.putSites q n l))
  | 13 => some (Reader.bind (readNat 1) fun n => Reader.bind (readList readStroke) fun l =>
      Reader.pure (.putStrokes q n l))
  | 14 => some (Reader.bind (readNat 1) fun n => Reader.pure (.finishRecipe q n))
  | 15 => some (Reader.bind (readNat 1) fun n => Reader.pure (.dropRecipe q n))
  | 16 => some (Reader.bind (readNat 1) fun n => Reader.bind (readNat 1) fun p => Reader.bind (readNat 1) fun k =>
      Reader.pure (if p = 4 then .getRecipeProfile q n k else .getRecipe q n p k))
  | 17 => some (Reader.bind (readNat 1) fun n => Reader.bind readProfile fun p =>
      Reader.pure (.putCureProfile q n p))
  | 18 => some (Reader.bind (readNat 1) fun n => Reader.pure (.dropCureProfile q n))
  | 19 => some (Reader.bind (readNat 1) fun n => Reader.bind readHeadConfig fun c => Reader.pure (.setHead q n c))
  | 20 => some (Reader.bind (readNat 1) fun n => Reader.bind readLot fun m => Reader.pure (.mountLot q n m))
  | 21 => some (Reader.bind (readNat 1) fun n => Reader.pure (.unmountLot q n))
  | 22 => some (readNone (.getLot q))
  | 23 => some (Reader.bind readText fun tag => Reader.bind (readNat 1) fun x => Reader.pure (.claim q tag x))
  | 24 => some (Reader.bind readText fun tag => Reader.pure (.unclaim q tag))
  | 25 => some (Reader.bind readText fun tag => Reader.bind (readNat 1) fun f => Reader.bind (readInt 2) fun dx =>
      Reader.bind (readInt 2) fun dy => Reader.pure (.postFiducials q tag f dx dy))
  | 26 => some (Reader.bind readText fun tag => Reader.bind (readNat 1) fun n => Reader.bind (readNat 1) fun v =>
      Reader.pure (.postSite q tag n v))
  | 27 => some (Reader.bind readText fun tag => Reader.bind (readNat 1) fun n => Reader.bind (readNat 1) fun v =>
      Reader.pure (.postCoverage q tag n v))
  | 28 => some (Reader.bind readText fun tag => Reader.pure (.complete q tag))
  | 29 => some (Reader.bind readLimits fun l => Reader.pure (.setGantryLimits q l))
  | 30 => some (Reader.bind (readNat 2) fun n => Reader.bind (readList (readNat 2)) fun l =>
      Reader.bind (readNat 2) fun g => Reader.pure (.setOvenGeometry q n l g))
  | 31 => some (Reader.bind (readNat 2) fun n => Reader.pure (.setOvenSpeed q n))
  | 32 => some (readNone (.getOven q))
  | 33 => some (Reader.bind (readNat 1) fun r => Reader.bind (readNat 1) fun n => Reader.pure (.setReleaseLevel q r n))
  | 34 => some (Reader.bind readText fun tag => Reader.bind (readNat 2) fun n => Reader.pure (.placeHold q tag n))
  | 35 => some (Reader.bind readText fun tag => Reader.bind (readNat 1) fun r =>
      Reader.pure (if r = reasonAll then .releaseHoldAll q tag else .releaseHold q tag r))
  | 36 => some (Reader.bind readText fun tag => Reader.bind readDisposition fun d => Reader.pure (.dispose q tag d))
  | 37 => some (Reader.bind (readNat 1) fun m => Reader.bind (readList (readNat 1)) fun l =>
      Reader.pure (.subscribe q m l))
  | 38 => some (Reader.bind (readNat 1) fun n => Reader.pure (.take q n))
  | 39 => some (readNone (.peek q))
  | 40 => some (Reader.bind (readNat 1) fun n => Reader.pure (.setTrigger q n))
  | 41 => some (readNone (.restart q))
  | 42 => some (readNone (.getConfig q))
  | 43 => some (Reader.bind readTimeouts fun t => Reader.pure (.setTimeouts q t))
  | _ => none

/-- The request a complete frame carries (R164): its code names a request, its level field is 0 to 3, and its body has
the request's form with no byte left over. -/
def readRequest (q : Req) (code : Nat) (body : List Byte) : Option Instr :=
  match requestReader q code with
  | none => none
  | some r =>
    if 3 < q.level then none
    else
      match r body with
      | some (i, []) => some i
      | _ => none

/-! ### Reception (R163) -/

/-- The length a frame's first two bytes give. -/
def frameLength : List Byte → Nat
  | b0 :: b1 :: _ => b0.toNat + 256 * b1.toNat
  | _ => 0

/-- The command that a completed frame stands for, its bytes given from the length on (R163, R164): discarded where the
CRC differs; the request it carries; else a frame answered FORMAT. -/
def frameCommand (l : Link) (bytes : List Byte) : Instr :=
  let n := 2 + frameLength bytes
  if leBytes 2 (crc16 (bytes.take n)).toNat ≠ bytes.drop n then .frameDiscarded l .badCrc
  else
    match bytes.drop 2 with
    | code :: level :: corr :: rest =>
      let q : Req := { link := l, level := level.toNat, corr := corr, overlaps := false }
      match readRequest q code.toNat (rest.take (frameLength bytes - 3)) with
      | some i => i
      | none => .badFrame q code.toNat
    | _ => .frameDiscarded l .badLength

/-- What one received byte makes of a link's reception (R163): the new state, and the command it completes, if any. -/
def receiveByte (l : Link) (r : Reception) (b : Byte) : Reception × Option Instr :=
  match r with
  | .searching => (.searching, if b = startMark then some (.startMarkReceived l) else none)
  | .inFrame bytes _ =>
    let all := bytes ++ [b]
    if all.length < 2 then (.inFrame all 0, none)
    else if !within Config.lengthMin Config.lengthMax (frameLength all) then
      (.searching, some (.frameDiscarded l .badLength))
    else if all.length < frameLength all + 4 then (.inFrame all 0, none)
    else (.searching, some (frameCommand l all))

end Sys2Proof.Machine
end

