-- ==== Sys2Proof/Machine/Idle.lean ====
section
/-! DEFINITION. What the block does of its own accord while no command waits (log 1): it puts the row of a move or of an
expired timer that is due into the queue, takes the next received byte or encoder pulse, or makes a millisecond tick while the
reference clock runs
(R124, R127, R163, R177 to R179, R181). Idling runs no row itself: it only queues them. -/

namespace Sys2Proof.Machine

/-- The row of a move or expiry whose conditions hold: the first of the candidates that has one. -/
def firstDue : List (Option Instr) → Option Instr
  | [] => none
  | some i :: _ => some i
  | none :: rest => firstDue rest

/-- A row queued where its condition holds. -/
def whenDue (b : Bool) (i : Instr) : Option Instr := if b then some i else none

/-- The traveler whose row is due, the lowest-numbered where several are (DESIGN CHOICE, log 2). -/
def firstTraveler (p : Nat → Bool) (i : Nat → Instr) : Option Instr :=
  ((List.range' 1 Config.travelerCount).find? p).map i

/-- The lot record whose expiry is due (R50), the lowest-numbered where several fall due at one second: the manual gives no
order between them (DESIGN CHOICE, log 2). -/
def State.nextExpiry (s : State) : Option Instr :=
  ((List.range' 1 Config.lotCount).find? fun n => (s.lotExpires n).isSome).map Instr.lotExpiry

/-- The row the block takes next of its own accord, each by the conditions its own meaning reads. Where several are
due the manual gives no order between the blocks; this list fixes one (DESIGN CHOICE, log 2). -/
def State.nextMove (s : State) : Option Instr :=
  firstDue
    [ whenDue s.io.estopHanded .estopTaken,
      firstTraveler (fun t => (s.transferEnds t).isSome) .transferEnd,
      firstTraveler (fun t => s.transferExpired t && s.mode != .halt) .transferTimerExpiry,
      whenDue (s.inspectionExpired .pre).isSome (.inspectionTimerExpiry .pre),
      whenDue (s.inspectionExpired .post).isSome (.inspectionTimerExpiry .post),
      s.nextExpiry,
      firstTraveler s.overdueDue .flashOverdue,
      whenDue (s.mode == .drain && s.lineEmpty) .drainComplete,
      whenDue s.exitMove.isSome .ovenExitMove,
      whenDue s.exitDecision.isSome .exitDiverterDecision,
      whenDue s.exitReady.isSome .exitTransferStart,
      whenDue s.flashReady.isSome .flashTransferStart,
      whenDue s.preDecision.isSome .preDiverterDecision,
      whenDue s.programReady.isSome .programStart,
      whenDue s.admission.isSome .ovenAdmission,
      whenDue s.queueReady.isSome .queueRelease ]

/-! ### Bytes and pulses -/

/-- The bytes that stand on a link's receive pair. -/
def Inputs.rx (x : Inputs) : Link → List Byte
  | .a => x.rxA | .b => x.rxB | .c => x.rxC

def Inputs.setRx (x : Inputs) (l : Link) (bytes : List Byte) : Inputs :=
  match l with
  | .a => { x with rxA := bytes }
  | .b => { x with rxB := bytes }
  | .c => { x with rxC := bytes }

/-- A link with a byte to take, in the order A, B, C. -/
def State.byteDue (s : State) : Option (Link × Byte × List Byte) :=
  let waiting (l : Link) : Option (Link × Byte × List Byte) :=
    match s.io.inputs.rx l with
    | [] => none
    | b :: rest => some (l, b, rest)
  (waiting .a).or ((waiting .b).or (waiting .c))

/-- One received byte taken (R163): the reception moves on, and the command the byte completes is queued. A start mark
is left to its own row, which moves the reception. -/
def State.takeByte (s : State) (l : Link) (b : Byte) (rest : List Byte) : State :=
  let out := receiveByte l (s.link l).reception b
  let s := s.onIo fun io => { io with inputs := io.inputs.setRx l rest }
  let s := s.onLink l fun x => { x with reception := out.1 }
  { s with pending := s.pending ++ out.2.toList }

/-- One encoder pulse counted (R127): the pulse that takes the count below 1 queues a belt advance, which reloads the
prescaler. -/
def State.countPulse (s : State) : State :=
  let s := s.onIo fun io => { io with inputs := { io.inputs with pulses := io.inputs.pulses - 1 } }
  if s.cure.prescaler ≤ 1 then { s with pending := s.pending ++ [.beltAdvance] }
  else s.onCure fun c => { c with prescaler := c.prescaler - 1 }

/-! ### The millisecond tick -/

/-- The debounced sensors in the order of their readings (R179). -/
def allSensors : List Sensor :=
  [.queueHead, .preArrival, .cellArrival, .flashEntry, .flashEnd, .accumulatorHead, .postArrival, .outfeedExit] ++
    (List.range' 1 Config.shelfCount).map Sensor.shelf

/-- One tick of a debounced sensor (R179): a level other than the reading counts, the reading's own level restarts the
count. -/
def SensorState.tick (d : SensorState) (level : Bool) : SensorState :=
  if level = d.reading then { d with run := 0 } else { d with run := d.run + 1 }

/-- One tick of a link's reception (R163). -/
def Reception.tick : Reception → Reception
  | .searching => .searching
  | .inFrame bytes gap => .inFrame bytes (gap + 1)

def LinkState.tick (x : LinkState) : LinkState := { x with reception := x.reception.tick }

/-- The gap inside a frame has passed its limit (R163). -/
def Reception.timedOut : Reception → Bool
  | .searching => false
  | .inFrame _ gap => decide (Config.interByteLimit < gap)

/-- One tick of an outstanding gantry message (R91). -/
def PortState.tick : PortState → PortState
  | .waiting o => .waiting { o with elapsed := o.elapsed + 1 }
  | p => p

/-- Every count that rises with the millisecond tick: the millisecond count of the second, the open valve, the
outstanding gantry message, the receptions, the debounce runs and the E-stop release run (R177 to R179, R181). -/
def State.countTick (s : State) : State :=
  let s := s.onEngine fun e =>
    { e with valve := e.valve.map (fun v => { v with openMs := v.openMs + 1 }), port := e.port.tick }
  let s := s.onLinks fun x => { x with a := x.a.tick, b := x.b.tick, c := x.c.tick }
  s.onIo fun io =>
    { io with ms := (io.ms + 1) % Config.secondPeriod,
              estopRun := if io.estop && !io.inputs.estopLow then io.estopRun + 1 else 0,
              sensors := List.zipWith SensorState.tick io.sensors io.inputs.sensors }

/-- The debounced change of a sensor that is due (R179). -/
def State.sensorDue (s : State) (x : Sensor) : Option Instr :=
  match s.io.sensors[Sensor.index x]? with
  | none => none
  | some d => whenDue (decide (Config.debounceTicks ≤ d.run)) (.sensorChange x (!d.reading))

/-- The open valve has been open for its pass duration (R88, R178). -/
def State.valveDue (s : State) : Bool := s.engine.valve.any fun v => decide (v.duration ≤ v.openMs)

/-- The outstanding gantry message has not been answered within its deadline (R91). -/
def State.portDue (s : State) : Bool :=
  match s.engine.port with
  | .waiting o => decide (o.budget ≤ o.elapsed)
  | .quiet | .lost => false

/-- The rows that a millisecond tick makes due, in a fixed order (DESIGN CHOICE, log 2). -/
def State.dueRows (s : State) : List Instr :=
  ([ whenDue (s.io.inputs.estopLow && !s.io.estop) .estopAssertion,
     whenDue (decide (Config.debounceTicks ≤ s.io.estopRun)) .estopRelease ] ++
   allSensors.map s.sensorDue ++
   [ whenDue s.valveDue .valveTimerExpiry,
     whenDue s.portDue .gantryPortTimeout,
     whenDue (s.link .a).reception.timedOut (.interByteTimeout .a),
     whenDue (s.link .b).reception.timedOut (.interByteTimeout .b),
     whenDue (s.link .c).reception.timedOut (.interByteTimeout .c),
     whenDue (decide (s.io.ms % Config.samplePeriod = 0)) (.samplingRound s.io.inputs.channels),
     whenDue (decide (s.io.ms % Config.blinkPeriod = 0)) .blinkToggle,
     whenDue (decide (s.io.ms = 0)) .secondTick ]).filterMap id

/-- A millisecond tick: the counts rise, and the rows that fall due are queued. -/
def State.tick (s : State) : State :=
  let s := s.countTick
  { s with pending := s.pending ++ s.dueRows }

/-- What the block does while no command waits: a due move is queued; else a byte or a pulse that stands on the inputs
is taken; else the reference clock, where it runs, makes a millisecond tick (DESIGN CHOICE, log 1). While the clock
stands no tick is made, and every timer, sampling round and stamp stands with it (R177). -/
def State.idle (s : State) : State :=
  match s.nextMove with
  | some i => { s with pending := s.pending ++ [i] }
  | none =>
    match s.byteDue with
    | some (l, b, rest) => s.takeByte l b rest
    | none => if s.io.inputs.pulses ≠ 0 then s.countPulse
      else if s.io.inputs.clock then s.tick
      else s

end Sys2Proof.Machine
end

