-- ==== Sys2Proof/Machine/Dispatch.lean ====
section
/-! DEFINITION. `exec`: one arm per command, each one direct call of its meaning. -/

namespace Sys2Proof.Machine

def exec (i : Instr) (s : State) : Host.Outcome State Fault Refusal :=
  match i with
  | .induct q tag slot => Sys2Proof.Machine.execInduct q tag slot s
  | .start q => Sys2Proof.Machine.execStart q s
  | .drain q => Sys2Proof.Machine.execDrain q s
  | .halt q => Sys2Proof.Machine.execHalt q s
  | .recover q => Sys2Proof.Machine.execRecover q s
  | .clearLine q => Sys2Proof.Machine.execClearLine q s
  | .getLine q => Sys2Proof.Machine.execGetLine q s
  | .getTraveler q tag => Sys2Proof.Machine.execGetTraveler q tag s
  | .listTravelers q stage first => Sys2Proof.Machine.execListTravelers q stage first s
  | .openRecipe q slot header => Sys2Proof.Machine.execOpenRecipe q slot header s
  | .putWindows q slot records => Sys2Proof.Machine.execPutWindows q slot records s
  | .putSites q slot records => Sys2Proof.Machine.execPutSites q slot records s
  | .putStrokes q slot records => Sys2Proof.Machine.execPutStrokes q slot records s
  | .finishRecipe q slot => Sys2Proof.Machine.execFinishRecipe q slot s
  | .dropRecipe q slot => Sys2Proof.Machine.execDropRecipe q slot s
  | .getRecipe q slot part first => Sys2Proof.Machine.execGetRecipe q slot part first s
  | .getRecipeProfile q index first => Sys2Proof.Machine.execGetRecipeProfile q index first s
  | .putCureProfile q index profile => Sys2Proof.Machine.execPutCureProfile q index profile s
  | .dropCureProfile q index => Sys2Proof.Machine.execDropCureProfile q index s
  | .setHead q head config => Sys2Proof.Machine.execSetHead q head config s
  | .mountLot q head lot => Sys2Proof.Machine.execMountLot q head lot s
  | .unmountLot q head => Sys2Proof.Machine.execUnmountLot q head s
  | .getLot q => Sys2Proof.Machine.execGetLot q s
  | .claim q tag station => Sys2Proof.Machine.execClaim q tag station s
  | .unclaim q tag => Sys2Proof.Machine.execUnclaim q tag s
  | .postFiducials q tag found dx dy => Sys2Proof.Machine.execPostFiducials q tag found dx dy s
  | .postSite q tag site verdict => Sys2Proof.Machine.execPostSite q tag site verdict s
  | .postCoverage q tag window verdict => Sys2Proof.Machine.execPostCoverage q tag window verdict s
  | .complete q tag => Sys2Proof.Machine.execComplete q tag s
  | .setGantryLimits q limits => Sys2Proof.Machine.execSetGantryLimits q limits s
  | .setOvenGeometry q length bounds gap => Sys2Proof.Machine.execSetOvenGeometry q length bounds gap s
  | .setOvenSpeed q speed => Sys2Proof.Machine.execSetOvenSpeed q speed s
  | .getOven q => Sys2Proof.Machine.execGetOven q s
  | .setReleaseLevel q reason level => Sys2Proof.Machine.execSetReleaseLevel q reason level s
  | .placeHold q tag note => Sys2Proof.Machine.execPlaceHold q tag note s
  | .releaseHold q tag reason => Sys2Proof.Machine.execReleaseHold q tag reason s
  | .releaseHoldAll q tag => Sys2Proof.Machine.execReleaseHoldAll q tag s
  | .dispose q tag disposition => Sys2Proof.Machine.execDispose q tag disposition s
  | .subscribe q mode classes => Sys2Proof.Machine.execSubscribe q mode classes s
  | .take q count => Sys2Proof.Machine.execTake q count s
  | .peek q => Sys2Proof.Machine.execPeek q s
  | .setTrigger q level => Sys2Proof.Machine.execSetTrigger q level s
  | .restart q => Sys2Proof.Machine.execRestart q s
  | .getConfig q => Sys2Proof.Machine.execGetConfig q s
  | .setTimeouts q timeouts => Sys2Proof.Machine.execSetTimeouts q timeouts s
  | .badFrame q code => Sys2Proof.Machine.execBadFrame q code s
  | .frameDiscarded link cause => Sys2Proof.Machine.execFrameDiscarded link cause s
  | .interByteTimeout link => Sys2Proof.Machine.execInterByteTimeout link s
  | .powerOnReset pins => Sys2Proof.Machine.execPowerOnReset pins s
  | .resetPin pins => Sys2Proof.Machine.execResetPin pins s
  | .secondTick => Sys2Proof.Machine.execSecondTick s
  | .lotExpiry record => Sys2Proof.Machine.execLotExpiry record s
  | .flashOverdue traveler => Sys2Proof.Machine.execFlashOverdue traveler s
  | .samplingRound channels => Sys2Proof.Machine.execSamplingRound channels s
  | .blinkToggle => Sys2Proof.Machine.execBlinkToggle s
  | .beltAdvance => Sys2Proof.Machine.execBeltAdvance s
  | .sensorChange sensor occupied => Sys2Proof.Machine.execSensorChange sensor occupied s
  | .transferEnd traveler => Sys2Proof.Machine.execTransferEnd traveler s
  | .transferTimerExpiry traveler => Sys2Proof.Machine.execTransferTimerExpiry traveler s
  | .inspectionTimerExpiry station => Sys2Proof.Machine.execInspectionTimerExpiry station s
  | .valveTimerExpiry => Sys2Proof.Machine.execValveTimerExpiry s
  | .gantryPortTimeout => Sys2Proof.Machine.execGantryPortTimeout s
  | .arrived => Sys2Proof.Machine.execArrived s
  | .passDone => Sys2Proof.Machine.execPassDone s
  | .stopped => Sys2Proof.Machine.execStopped s
  | .gantryFault code => Sys2Proof.Machine.execGantryFault code s
  | .estopAssertion => Sys2Proof.Machine.execEstopAssertion s
  | .estopTaken => Sys2Proof.Machine.execEstopTaken s
  | .estopRelease => Sys2Proof.Machine.execEstopRelease s
  | .queueRelease => Sys2Proof.Machine.execQueueRelease s
  | .preDiverterDecision => Sys2Proof.Machine.execPreDiverterDecision s
  | .programStart => Sys2Proof.Machine.execProgramStart s
  | .flashTransferStart => Sys2Proof.Machine.execFlashTransferStart s
  | .ovenAdmission => Sys2Proof.Machine.execOvenAdmission s
  | .ovenExitMove => Sys2Proof.Machine.execOvenExitMove s
  | .exitTransferStart => Sys2Proof.Machine.execExitTransferStart s
  | .exitDiverterDecision => Sys2Proof.Machine.execExitDiverterDecision s
  | .drainComplete => Sys2Proof.Machine.execDrainComplete s
  | .startMarkReceived link => Sys2Proof.Machine.execStartMarkReceived link s
  | .answerSent link => Sys2Proof.Machine.execAnswerSent link s

end Sys2Proof.Machine
end

