-- ==== Sys2Proof/Machine/Step.lean ====
section
/-! DEFINITION. One step of the block: the command at the front of the queue is carried out with the queue's rest, and
with no command waiting the block idles (log 1). -/

namespace Sys2Proof.Machine

/-- The state with a command at the front of its queue. -/
def State.withFront (s : State) (i : Instr) : State := { s with pending := i :: s.pending }

/-- The state with the rest of its queue. -/
def State.withPending (s : State) (rest : List Instr) : State := { s with pending := rest }

/-- One step: the front command, or an idle moment. -/
def step (s : State) : Host.Outcome State Fault Refusal :=
  match s.pending with
  | [] => .next s.idle
  | i :: rest => exec i (s.withPending rest)

/-- The state with the command a table word spells at the front of its queue; unchanged where it spells none. -/
def State.withFetchWord (s : State) (nbits w : Nat) : State :=
  match Sys2Proof.decodeTableWord nbits w with
  | none => s
  | some i => s.withFront i

end Sys2Proof.Machine
end

