-- ==== Sys2Proof/WellFormed.lean ====
section
/-! DEFINITION. Which commands can arise: a request's fields fit the widths of its frame (field type table and R162), a
word that is another row's own word is not carried by this row, and an event names what the part has (a traveler
1 to 48, a lot record 1 to 4, a sensor of R179). A field outside its rule's range is well formed: its owner answers
INVALID. -/

namespace Sys2Proof

/-- An unsigned field of one, two or four bytes. -/
def byteFits (n : Nat) : Bool := decide (n < 2 ^ 8)
def halfFits (n : Nat) : Bool := decide (n < 2 ^ 16)
def wordFits (n : Nat) : Bool := decide (n < 2 ^ 32)

/-- A signed field of two or four bytes, in two's complement. -/
def int16Fits (n : Int) : Bool := decide (-2 ^ 15 ≤ n) && decide (n < 2 ^ 15)
def int32Fits (n : Int) : Bool := decide (-2 ^ 31 ≤ n) && decide (n < 2 ^ 31)

/-- A text, whose length is one byte. -/
def textFits (t : Text) : Bool := byteFits t.length

/-- A list of records of `size` bytes each after a slot number: its count is one byte, and the body holds it. -/
def listFits (size n : Nat) : Bool := byteFits n && decide (2 + size * n ≤ Config.bodyCapacity)

/-- A level field that a request may carry (R164). -/
def Req.fits (q : Req) : Bool := decide (q.level ≤ 3)

def Header.fits (h : Header) : Bool :=
  textFits h.name && halfFits h.revision && halfFits h.length && halfFits h.width && byteFits h.kind &&
    halfFits h.flashMin && halfFits h.flashMax && halfFits h.dwellMin && halfFits h.dwellMax && byteFits h.profile

def Window.fits (w : Window) : Bool :=
  int16Fits w.x0 && int16Fits w.y0 && int16Fits w.x1 && int16Fits w.y1 && halfFits w.thickness &&
    byteFits w.tolerance && byteFits w.mask

def SiteFields.fits (r : SiteFields) : Bool :=
  byteFits r.kind && byteFits r.policy && int16Fits r.x && int16Fits r.y

def StrokeFields.fits (r : StrokeFields) : Bool :=
  byteFits r.head && byteFits r.window && int16Fits r.startX && int16Fits r.startY && int16Fits r.endX &&
    int16Fits r.endY && halfFits r.height && byteFits r.passes && int16Fits r.stepX && int16Fits r.stepY &&
    byteFits r.serpentine && byteFits r.valve

def Profile.fits (p : Profile) : Bool :=
  byteFits p.base && decide (p.weights.length = 16) && p.weights.all byteFits && wordFits p.required &&
    wordFits p.passMax && wordFits p.lifeMax

def HeadConfig.fits (c : HeadConfig) : Bool :=
  halfFits c.flow && halfFits c.fan && halfFits c.height && halfFits c.zMin && halfFits c.zMax &&
    halfFits c.fanMin && halfFits c.fanMax && halfFits c.vMin && halfFits c.vMax && halfFits c.transit

def LotFields.fits (m : LotFields) : Bool :=
  textFits m.id && byteFits m.kind && wordFits m.charge && halfFits m.age && halfFits m.potLife &&
    byteFits m.derate && wordFits m.lowLimit

def Point.fits (p : Point) : Bool := int32Fits p.x && int32Fits p.y && int32Fits p.z

def GantryLimits.fits (l : GantryLimits) : Bool :=
  int32Fits l.xMin && int32Fits l.xMax && int32Fits l.yMin && int32Fits l.yMax && int32Fits l.zMin &&
    int32Fits l.zMax && l.origin.fits && l.park.fits && halfFits l.parkSpeed

def Timeouts.fits (t : Timeouts) : Bool :=
  byteFits t.transfer && byteFits t.pre && byteFits t.post && halfFits t.margin && byteFits t.fiducial &&
    halfFits t.reload

/-- `other` is a word that is none of the five (R157). -/
def DispositionField.fits : DispositionField → Bool
  | .redoFull | .reCure | .accept | .scrap => true
  | .touchUp f l => byteFits f && byteFits l
  | .other c => byteFits c && decide (5 ≤ c)

/-- A sensor the part has: slot numbers are 1 to 16 (R179). -/
def Sensor.exists? : Sensor → Bool
  | .queueHead | .preArrival | .cellArrival | .flashEntry | .flashEnd | .accumulatorHead | .postArrival
  | .outfeedExit => true
  | .shelf n => decide (1 ≤ n) && decide (n ≤ Config.shelfCount)

/-- A traveler number (R1). -/
def travelerFits (t : Nat) : Bool := decide (1 ≤ t) && decide (t ≤ Config.travelerCount)

/-- A command that can arise. -/
def Instr.wellFormed : Instr → Bool
  | .induct q tag slot => q.fits && textFits tag && byteFits slot
  | .start q => q.fits
  | .drain q => q.fits
  | .halt q => q.fits
  | .recover q => q.fits
  | .clearLine q => q.fits
  | .getLine q => q.fits
  | .getTraveler q tag => q.fits && textFits tag
  | .listTravelers q stage first => q.fits && byteFits stage && byteFits first
  | .openRecipe q slot h => q.fits && byteFits slot && h.fits
  | .putWindows q slot l => q.fits && byteFits slot && listFits 12 l.length && l.all Window.fits
  | .putSites q slot l => q.fits && byteFits slot && listFits 6 l.length && l.all SiteFields.fits
  | .putStrokes q slot l => q.fits && byteFits slot && listFits 19 l.length && l.all StrokeFields.fits
  | .finishRecipe q slot => q.fits && byteFits slot
  | .dropRecipe q slot => q.fits && byteFits slot
  | .getRecipe q slot part first => q.fits && byteFits slot && byteFits part && decide (part ≠ 4) && byteFits first
  | .getRecipeProfile q index first => q.fits && byteFits index && byteFits first
  | .putCureProfile q index p => q.fits && byteFits index && p.fits
  | .dropCureProfile q index => q.fits && byteFits index
  | .setHead q head c => q.fits && byteFits head && c.fits
  | .mountLot q head m => q.fits && byteFits head && m.fits
  | .unmountLot q head => q.fits && byteFits head
  | .getLot q => q.fits
  | .claim q tag station => q.fits && textFits tag && byteFits station
  | .unclaim q tag => q.fits && textFits tag
  | .postFiducials q tag found dx dy => q.fits && textFits tag && byteFits found && int16Fits dx && int16Fits dy
  | .postSite q tag site verdict => q.fits && textFits tag && byteFits site && byteFits verdict
  | .postCoverage q tag window verdict => q.fits && textFits tag && byteFits window && byteFits verdict
  | .complete q tag => q.fits && textFits tag
  | .setGantryLimits q l => q.fits && l.fits
  | .setOvenGeometry q length bounds gap =>
    q.fits && halfFits length && byteFits bounds.length && bounds.all halfFits && halfFits gap
  | .setOvenSpeed q v => q.fits && halfFits v
  | .getOven q => q.fits
  | .setReleaseLevel q reason level => q.fits && byteFits reason && byteFits level
  | .placeHold q tag note => q.fits && textFits tag && halfFits note
  | .releaseHold q tag reason => q.fits && textFits tag && byteFits reason && decide (reason ≠ 14)
  | .releaseHoldAll q tag => q.fits && textFits tag
  | .dispose q tag d => q.fits && textFits tag && d.fits
  | .subscribe q mode classes => q.fits && byteFits mode && byteFits classes.length && classes.all byteFits
  | .take q n => q.fits && byteFits n
  | .peek q => q.fits
  | .setTrigger q n => q.fits && byteFits n
  | .restart q => q.fits
  | .getConfig q => q.fits
  | .setTimeouts q t => q.fits && t.fits
  | .badFrame q code => byteFits q.level && byteFits code
  | .frameDiscarded _ _ => true
  | .interByteTimeout _ => true
  | .powerOnReset _ => true
  | .resetPin _ => true
  | .secondTick => true
  | .lotExpiry n => decide (1 ≤ n) && decide (n ≤ Config.lotCount)
  | .flashOverdue t => travelerFits t
  | .samplingRound l => decide (l.length ≤ 6)
  | .blinkToggle => true
  | .beltAdvance => true
  | .sensorChange x _ => x.exists?
  | .transferEnd t => travelerFits t
  | .transferTimerExpiry t => travelerFits t
  | .inspectionTimerExpiry _ => true
  | .valveTimerExpiry => true
  | .gantryPortTimeout => true
  | .arrived => true
  | .passDone => true
  | .stopped => true
  | .gantryFault code => decide (1 ≤ code) && byteFits code
  | .estopAssertion => true
  | .estopTaken => true
  | .estopRelease => true
  | .queueRelease => true
  | .preDiverterDecision => true
  | .programStart => true
  | .flashTransferStart => true
  | .ovenAdmission => true
  | .ovenExitMove => true
  | .exitTransferStart => true
  | .exitDiverterDecision => true
  | .drainComplete => true
  | .startMarkReceived _ => true
  | .answerSent _ => true

end Sys2Proof
end

