-- ==== Sys2Proof/Laws/PerInstr.lean ====
section
/-! SUPPORT. The family RequestHead, one lemma per command: a command that is a request carries a code of the request index
(11.3), and one that is well formed a level field of 0 to 3 (R164). -/

namespace Sys2Proof.Laws

open Sys2Proof.Machine

/-- What the family says of a command: of an event, that it has no frame. -/
def RequestHead.Statement (i : Instr) : Prop :=
  ∀ q code body, requestParts i = some (q, code, body) →
    1 ≤ code ∧ code ≤ 43 ∧ (i.wellFormed = true → q.level ≤ 3)

/-- The case split behind the family's lemmas. -/
theorem requestHead_of (i : Instr) : RequestHead.Statement i := by
  intro p c b h
  cases i <;> simp only [requestParts, Option.some.injEq, Prod.mk.injEq, reduceCtorEq] at h <;>
    obtain ⟨rfl, rfl, -⟩ := h <;> refine ⟨by decide, by decide, fun hw => ?_⟩ <;>
    simp only [Instr.wellFormed, Req.fits, Bool.and_eq_true, decide_eq_true_eq] at hw <;> tauto

theorem RequestHead.induct (q : Req) (tag : Text) (slot : Nat) :
    RequestHead.Statement (.induct q tag slot) := requestHead_of _

theorem RequestHead.start (q : Req) : RequestHead.Statement (.start q) := requestHead_of _

theorem RequestHead.drain (q : Req) : RequestHead.Statement (.drain q) := requestHead_of _

theorem RequestHead.halt (q : Req) : RequestHead.Statement (.halt q) := requestHead_of _

theorem RequestHead.recover (q : Req) : RequestHead.Statement (.recover q) := requestHead_of _

theorem RequestHead.clearLine (q : Req) : RequestHead.Statement (.clearLine q) := requestHead_of _

theorem RequestHead.getLine (q : Req) : RequestHead.Statement (.getLine q) := requestHead_of _

theorem RequestHead.getTraveler (q : Req) (tag : Text) :
    RequestHead.Statement (.getTraveler q tag) := requestHead_of _

theorem RequestHead.listTravelers (q : Req) (stage first : Nat) :
    RequestHead.Statement (.listTravelers q stage first) := requestHead_of _

theorem RequestHead.openRecipe (q : Req) (slot : Nat) (header : Header) :
    RequestHead.Statement (.openRecipe q slot header) := requestHead_of _

theorem RequestHead.putWindows (q : Req) (slot : Nat) (records : List Window) :
    RequestHead.Statement (.putWindows q slot records) := requestHead_of _

theorem RequestHead.putSites (q : Req) (slot : Nat) (records : List SiteFields) :
    RequestHead.Statement (.putSites q slot records) := requestHead_of _

theorem RequestHead.putStrokes (q : Req) (slot : Nat) (records : List StrokeFields) :
    RequestHead.Statement (.putStrokes q slot records) := requestHead_of _

theorem RequestHead.finishRecipe (q : Req) (slot : Nat) :
    RequestHead.Statement (.finishRecipe q slot) := requestHead_of _

theorem RequestHead.dropRecipe (q : Req) (slot : Nat) :
    RequestHead.Statement (.dropRecipe q slot) := requestHead_of _

theorem RequestHead.getRecipe (q : Req) (slot part first : Nat) :
    RequestHead.Statement (.getRecipe q slot part first) := requestHead_of _

theorem RequestHead.getRecipeProfile (q : Req) (index first : Nat) :
    RequestHead.Statement (.getRecipeProfile q index first) := requestHead_of _

theorem RequestHead.putCureProfile (q : Req) (index : Nat) (profile : Profile) :
    RequestHead.Statement (.putCureProfile q index profile) := requestHead_of _

theorem RequestHead.dropCureProfile (q : Req) (index : Nat) :
    RequestHead.Statement (.dropCureProfile q index) := requestHead_of _

theorem RequestHead.setHead (q : Req) (head : Nat) (config : HeadConfig) :
    RequestHead.Statement (.setHead q head config) := requestHead_of _

theorem RequestHead.mountLot (q : Req) (head : Nat) (lot : LotFields) :
    RequestHead.Statement (.mountLot q head lot) := requestHead_of _

theorem RequestHead.unmountLot (q : Req) (head : Nat) :
    RequestHead.Statement (.unmountLot q head) := requestHead_of _

theorem RequestHead.getLot (q : Req) : RequestHead.Statement (.getLot q) := requestHead_of _

theorem RequestHead.claim (q : Req) (tag : Text) (station : Nat) :
    RequestHead.Statement (.claim q tag station) := requestHead_of _

theorem RequestHead.unclaim (q : Req) (tag : Text) : RequestHead.Statement (.unclaim q tag) := requestHead_of _

theorem RequestHead.postFiducials (q : Req) (tag : Text) (found : Nat) (dx dy : Int) :
    RequestHead.Statement (.postFiducials q tag found dx dy) := requestHead_of _

theorem RequestHead.postSite (q : Req) (tag : Text) (site verdict : Nat) :
    RequestHead.Statement (.postSite q tag site verdict) := requestHead_of _

theorem RequestHead.postCoverage (q : Req) (tag : Text) (window verdict : Nat) :
    RequestHead.Statement (.postCoverage q tag window verdict) := requestHead_of _

theorem RequestHead.complete (q : Req) (tag : Text) : RequestHead.Statement (.complete q tag) := requestHead_of _

theorem RequestHead.setGantryLimits (q : Req) (limits : GantryLimits) :
    RequestHead.Statement (.setGantryLimits q limits) := requestHead_of _

theorem RequestHead.setOvenGeometry (q : Req) (length : Nat) (bounds : List Nat) (gap : Nat) :
    RequestHead.Statement (.setOvenGeometry q length bounds gap) := requestHead_of _

theorem RequestHead.setOvenSpeed (q : Req) (speed : Nat) :
    RequestHead.Statement (.setOvenSpeed q speed) := requestHead_of _

theorem RequestHead.getOven (q : Req) : RequestHead.Statement (.getOven q) := requestHead_of _

theorem RequestHead.setReleaseLevel (q : Req) (reason level : Nat) :
    RequestHead.Statement (.setReleaseLevel q reason level) := requestHead_of _

theorem RequestHead.placeHold (q : Req) (tag : Text) (note : Nat) :
    RequestHead.Statement (.placeHold q tag note) := requestHead_of _

theorem RequestHead.releaseHold (q : Req) (tag : Text) (reason : Nat) :
    RequestHead.Statement (.releaseHold q tag reason) := requestHead_of _

theorem RequestHead.releaseHoldAll (q : Req) (tag : Text) :
    RequestHead.Statement (.releaseHoldAll q tag) := requestHead_of _

theorem RequestHead.dispose (q : Req) (tag : Text) (disposition : DispositionField) :
    RequestHead.Statement (.dispose q tag disposition) := requestHead_of _

theorem RequestHead.subscribe (q : Req) (mode : Nat) (classes : List Nat) :
    RequestHead.Statement (.subscribe q mode classes) := requestHead_of _

theorem RequestHead.take (q : Req) (count : Nat) : RequestHead.Statement (.take q count) := requestHead_of _

theorem RequestHead.peek (q : Req) : RequestHead.Statement (.peek q) := requestHead_of _

theorem RequestHead.setTrigger (q : Req) (level : Nat) :
    RequestHead.Statement (.setTrigger q level) := requestHead_of _

theorem RequestHead.restart (q : Req) : RequestHead.Statement (.restart q) := requestHead_of _

theorem RequestHead.getConfig (q : Req) : RequestHead.Statement (.getConfig q) := requestHead_of _

theorem RequestHead.setTimeouts (q : Req) (timeouts : Timeouts) :
    RequestHead.Statement (.setTimeouts q timeouts) := requestHead_of _

theorem RequestHead.badFrame (q : Req) (code : Nat) : RequestHead.Statement (.badFrame q code) := requestHead_of _

theorem RequestHead.frameDiscarded (link : Link) (cause : DiscardCause) :
    RequestHead.Statement (.frameDiscarded link cause) := requestHead_of _

theorem RequestHead.interByteTimeout (link : Link) :
    RequestHead.Statement (.interByteTimeout link) := requestHead_of _

theorem RequestHead.powerOnReset (pins : StrapPins) : RequestHead.Statement (.powerOnReset pins) := requestHead_of _

theorem RequestHead.resetPin (pins : StrapPins) : RequestHead.Statement (.resetPin pins) := requestHead_of _

theorem RequestHead.secondTick : RequestHead.Statement (.secondTick) := requestHead_of _

theorem RequestHead.lotExpiry (record : Nat) : RequestHead.Statement (.lotExpiry record) := requestHead_of _

theorem RequestHead.flashOverdue (traveler : Nat) :
    RequestHead.Statement (.flashOverdue traveler) := requestHead_of _

theorem RequestHead.samplingRound (channels : List ChannelSignals) :
    RequestHead.Statement (.samplingRound channels) := requestHead_of _

theorem RequestHead.blinkToggle : RequestHead.Statement (.blinkToggle) := requestHead_of _

theorem RequestHead.beltAdvance : RequestHead.Statement (.beltAdvance) := requestHead_of _

theorem RequestHead.sensorChange (sensor : Sensor) (occupied : Bool) :
    RequestHead.Statement (.sensorChange sensor occupied) := requestHead_of _

theorem RequestHead.transferEnd (traveler : Nat) : RequestHead.Statement (.transferEnd traveler) := requestHead_of _

theorem RequestHead.transferTimerExpiry (traveler : Nat) :
    RequestHead.Statement (.transferTimerExpiry traveler) := requestHead_of _

theorem RequestHead.inspectionTimerExpiry (station : Station) :
    RequestHead.Statement (.inspectionTimerExpiry station) := requestHead_of _

theorem RequestHead.valveTimerExpiry : RequestHead.Statement (.valveTimerExpiry) := requestHead_of _

theorem RequestHead.gantryPortTimeout : RequestHead.Statement (.gantryPortTimeout) := requestHead_of _

theorem RequestHead.arrived : RequestHead.Statement (.arrived) := requestHead_of _

theorem RequestHead.passDone : RequestHead.Statement (.passDone) := requestHead_of _

theorem RequestHead.stopped : RequestHead.Statement (.stopped) := requestHead_of _

theorem RequestHead.gantryFault (code : Nat) : RequestHead.Statement (.gantryFault code) := requestHead_of _

theorem RequestHead.estopAssertion : RequestHead.Statement (.estopAssertion) := requestHead_of _

theorem RequestHead.estopTaken : RequestHead.Statement (.estopTaken) := requestHead_of _

theorem RequestHead.estopRelease : RequestHead.Statement (.estopRelease) := requestHead_of _

theorem RequestHead.queueRelease : RequestHead.Statement (.queueRelease) := requestHead_of _

theorem RequestHead.preDiverterDecision : RequestHead.Statement (.preDiverterDecision) := requestHead_of _

theorem RequestHead.programStart : RequestHead.Statement (.programStart) := requestHead_of _

theorem RequestHead.flashTransferStart : RequestHead.Statement (.flashTransferStart) := requestHead_of _

theorem RequestHead.ovenAdmission : RequestHead.Statement (.ovenAdmission) := requestHead_of _

theorem RequestHead.ovenExitMove : RequestHead.Statement (.ovenExitMove) := requestHead_of _

theorem RequestHead.exitTransferStart : RequestHead.Statement (.exitTransferStart) := requestHead_of _

theorem RequestHead.exitDiverterDecision : RequestHead.Statement (.exitDiverterDecision) := requestHead_of _

theorem RequestHead.drainComplete : RequestHead.Statement (.drainComplete) := requestHead_of _

theorem RequestHead.startMarkReceived (link : Link) :
    RequestHead.Statement (.startMarkReceived link) := requestHead_of _

theorem RequestHead.answerSent (link : Link) : RequestHead.Statement (.answerSent link) := requestHead_of _

end Sys2Proof.Laws
end

