-- ==== Sys2Proof/Safety.lean ====
section
/-! DEFINITION. What a sound state is, as invariants of the block in the terms its claims use, and the vocabulary of the
claims: when a request is taken, how it is answered, which notices it posts, and what a step leaves as it was. -/

namespace Sys2Proof.Machine

/-! ### Invariants -/

/-- A link interface within its capacities, its attention output as its queue and trigger level make it (R165, R170,
R174). -/
def LinkState.Ok (x : LinkState) : Prop :=
  x.queue.length ≤ Config.noticeCapacity ∧ x.placesTaken ≤ Config.answerCapacity ∧ x.attention = x.wantsAttention

def State.LinksOk (s : State) : Prop := ∀ l, (s.link l).Ok

/-- The setpoint output: 0 in HALT and while the oven is stalled, else the setpoint (R115). -/
def State.BeltOk (s : State) : Prop :=
  s.cure.output = if s.mode = .halt ∨ s.cure.stalled = true then 0 else s.cure.setpoint

/-- The halt cause is none and the detail absent in every mode but HALT; in HALT a cause stands, with the requesting
link for REQUEST, the board for JAM, and no detail for ESTOP and GANTRY (R7). -/
def State.HaltOk (s : State) : Prop :=
  match s.table.mode, s.table.cause, s.table.detail with
  | .halt, some .estop, none | .halt, some .gantry, none => True
  | .halt, some .request, some (.link _) => True
  | .halt, some .jam, some (.board _ _) => True
  | .idle, none, none | .run, none, none | .drain, none, none => True
  | _, _, _ => False

/-- The three lamps as the state of the line sets them (R182). -/
def State.LampsOk (s : State) : Prop :=
  s.io.outputs.green = s.greenLamp ∧ s.io.outputs.amber = s.amberLamp ∧ s.io.outputs.red = s.redLamp

/-- In every lot record the remaining and the dispensed volume together are the charged volume (R51). -/
def State.VolumesOk (s : State) : Prop :=
  ∀ m, some m ∈ s.lots.records → m.charged = m.remaining + m.dispensed

/-- Of every live traveler the pass dose is at most the lifetime dose, and that at most the value where the doses
saturate (R130). -/
def State.DosesOk (s : State) : Prop :=
  ∀ r, some r ∈ s.table.records → r.passDose ≤ r.lifeDose ∧ r.lifeDose ≤ Config.doseMax

/-- A hold set in the order of the reason table, at most one record of a reason (R148). -/
def HoldsInOrder (l : List Hold) : Prop := l.Pairwise fun a b => a.reason.code < b.reason.code

/-- The hold set of every live traveler is in reason order (R148). -/
def State.HoldsOk (s : State) : Prop := ∀ r, some r ∈ s.table.records → HoldsInOrder r.holds

/-- The infeed queue's occupancy never exceeds 4 (R5). -/
def State.QueueOk (s : State) : Prop := s.occupancy ≤ Config.queueCapacity

/-- The tables have the sizes the manual gives them (R1, R24, R39, R45, R147, R155, R179). -/
def State.Shaped (s : State) : Prop :=
  s.table.records.length = Config.travelerCount ∧ s.recipes.slots.length = Config.recipeCount ∧
  s.recipes.profiles.length = Config.profileCount ∧ s.lots.records.length = Config.lotCount ∧
  s.lots.heads.length = s.io.straps.heads ∧ s.lots.map.length = s.io.straps.heads ∧
  s.cure.zones.length = s.io.straps.zones ∧ s.holds.levels.length = 14 ∧
  s.holds.shelf.length = Config.shelfCount ∧ s.io.sensors.length = Config.sensorCount ∧
  s.io.inputs.sensors.length = Config.sensorCount

/-- The admitted range I is the intersection of the ranges of the oven's non-forced boards and never empty (R114); the
setpoint never leaves the belt drive's range, and while the oven holds a board it lies within I (R115). -/
def State.RangeOk (s : State) : Prop :=
  (s.cure.rangeLow, s.cure.rangeHigh) = admittedRange s.cure.oven ∧ s.cure.rangeLow ≤ s.cure.rangeHigh ∧
    s.cure.setpoint ≤ Config.beltMax ∧
    (s.cure.oven ≠ [] → s.cure.rangeLow ≤ s.cure.setpoint ∧ s.cure.setpoint ≤ s.cure.rangeHigh)

/-- Free list, tag index and records agree (R1, R2): a number is on the free list, once, exactly where its record is
free, and the index pairs each live traveler's number with its tag, a tag with one traveler. -/
def State.IndexOk (s : State) : Prop :=
  s.table.records.length = Config.travelerCount ∧ s.table.free.Nodup ∧
    (∀ t, t ∈ s.table.free ↔ 1 ≤ t ∧ t ≤ Config.travelerCount ∧ s.traveler t = none) ∧
    (s.table.index.map Prod.fst).Nodup ∧
    ∀ tag t, (tag, t) ∈ s.table.index ↔ ∃ r, s.traveler t = some r ∧ r.tag = tag

/-- Traveler `t` is live, in stage `g` and place state `p` (R3). -/
def State.IsAt (s : State) (t : Nat) (g : Stage) (p : PlaceState) : Prop :=
  ∃ r, s.traveler t = some r ∧ r.stage = g ∧ r.place = p

/-- The spray cell agrees with its board (R76, R77): VACANT without one; LOADING while the board's transfer into the cell
is in the transfer list; DONE with the board PRESENT in SPRAY or on its way to the flash belt; else the board is PRESENT
in SPRAY. -/
def State.CellOk (s : State) : Prop :=
  match s.engine.cell, s.engine.board with
  | .vacant, b => b = none
  | .loading, some t => ∃ e ∈ s.table.transfers, e.traveler = t ∧ e.dest = .cell
  | .done, some t =>
    s.IsAt t .spray .present ∨ ∃ e ∈ s.table.transfers, e.traveler = t ∧ e.source = .cell ∧ e.dest = .flashBelt
  | _, some t => s.IsAt t .spray .present
  | _, none => False

/-- Every traveler is where the lists that hold it say: in the infeed queue (R6), the flash list (R110), the oven list
(R114) and the exit list (R133) PRESENT in that stage; in the transfer list once, ARRIVING in the stage of its
destination (R16); a transfer into the cell belongs to the LOADING cell's board, and one into the flash belt to the
DONE cell's (R77, R94). -/
def State.PlacesOk (s : State) : Prop :=
  (∀ t ∈ s.table.queue, s.IsAt t .queued .present) ∧ (∀ t ∈ s.cure.flash, s.IsAt t .flash .present) ∧
    (∀ e ∈ s.cure.oven, s.IsAt e.traveler .cure .present) ∧ (∀ t ∈ s.cure.exit, s.IsAt t .ovenExit .present) ∧
    (∀ e ∈ s.table.transfers, s.IsAt e.traveler e.dest.stage .arriving ∧
      (e.dest = .cell → s.engine.cell = .loading ∧ s.engine.board = some e.traveler) ∧
      (e.dest = .flashBelt → e.source = .cell ∧ s.engine.cell = .done ∧ s.engine.board = some e.traveler)) ∧
    (s.table.transfers.map (·.traveler)).Nodup ∧ s.CellOk

/-- The cell is RUNNING only in RUN and DRAIN, and a valve is open only while the cell is RUNNING, the PASS of its head is
outstanding, and the E-stop input is released (R88, R95, R181). -/
def State.ValveOk (s : State) : Prop :=
  (s.engine.cell = .running → s.mode = .run ∨ s.mode = .drain) ∧
    ∀ v, s.engine.valve = some v →
      s.engine.cell = .running ∧ s.io.estop = false ∧
        ∃ o x y speed, s.engine.port = .waiting o ∧ o.message = .pass v.head x y speed

/-! ### When a request is taken, and its answer -/

/-- The link has room for the answer and no request in service, the frame's level field is one of the four levels, and
its effective level is no weaker than the request needs (R164 to R166). -/
abbrev State.Takes (s : State) (q : Req) (need : Nat) : Prop :=
  (s.link q.link).answers.length < Config.answerCapacity ∧ (s.link q.link).inService = false ∧ q.overlaps = false ∧
    q.level ≤ 3 ∧ max (s.strapped q.link) q.level ≤ need

/-- The answer of a request taken in `s` stands at the tail of its link's answer list in `t`, with the effective level
and the correlation of the request; its service is over and the link searches for the next frame (R163 to R167). -/
def Answered (s t : State) (q : Req) (code : Nat) (w : Status) (fields : List Field) : Prop :=
  (t.link q.link).answers = (s.link q.link).answers ++
      [{ code := code, level := max (s.strapped q.link) q.level, corr := q.corr, status := w, fields := fields }] ∧
    (t.link q.link).inService = false ∧ (t.link q.link).reception = .searching

/-! ### Notices -/

/-- The notices of several kinds posted in one line second, in order, after the serial `serial` (R169). -/
def noticesAfter (serial stamp : Seconds) : List NoticeKind → List Notice
  | [] => []
  | k :: rest => { serial := serial + 1, stamp := stamp, kind := k } :: noticesAfter (serial + 1) stamp rest

/-- The queue of a link that is offered notices one after another: a notice of a class it has not subscribed to, or
that meets 32 queued notices, is not queued (R169, R170). -/
def queueAfter (subs : List NoticeClass) : List Notice → List Notice → List Notice
  | queue, [] => queue
  | queue, n :: rest =>
    if n.kind.cls ∈ subs ∧ queue.length < 32 then queueAfter subs (queue ++ [n]) rest
    else queueAfter subs queue rest

/-- Between `s` and `t` exactly the notices `ks` were posted, in their order, at line second `stamp`. -/
def PostedAt (stamp : Seconds) (s t : State) (ks : List NoticeKind) : Prop :=
  t.links.serial = s.links.serial + BitVec.ofNat 32 ks.length ∧
    ∀ l, (t.link l).queue = queueAfter (s.link l).subs (s.link l).queue (noticesAfter s.links.serial stamp ks)

/-- Exactly the notices `ks` were posted, in their order, at the line second of `s`. -/
def Posted (s t : State) (ks : List NoticeKind) : Prop := PostedAt s.now s t ks

/-! ### What a step leaves -/

/-- The notice settings of every link are as they were: a step that posts notices leaves them (R170). -/
def SettingsKept (s t : State) : Prop :=
  ∀ l, (t.link l).subs = (s.link l).subs ∧ (t.link l).trigger = (s.link l).trigger

/-- Of the links but `l`, reception, service and answers are as they were. -/
def OthersKept (l : Link) (s t : State) : Prop :=
  ∀ k, k ≠ l → (t.link k).reception = (s.link k).reception ∧ (t.link k).inService = (s.link k).inService ∧
    (t.link k).answers = (s.link k).answers

/-- Of every link, reception, service and answers are as they were. -/
def FramesKept (s t : State) : Prop :=
  ∀ k, (t.link k).reception = (s.link k).reception ∧ (t.link k).inService = (s.link k).inService ∧
    (t.link k).answers = (s.link k).answers

/-- The nine parts of the state that a step may leave as they were. -/
inductive Part where
  | pending | table | recipes | lots | mask | engine | cure | holds | clock
  deriving DecidableEq, Repr

/-- One part as it was. `clock` is line I/O but for the three lamps, which follow the state of the line (R182). -/
def KeptPart (s t : State) : Part → Prop
  | .pending => t.pending = s.pending
  | .table => t.table = s.table
  | .recipes => t.recipes = s.recipes
  | .lots => t.lots = s.lots
  | .mask => t.mask = s.mask
  | .engine => t.engine = s.engine
  | .cure => t.cure = s.cure
  | .holds => t.holds = s.holds
  | .clock =>
    t.io = { s.io with outputs :=
      { s.io.outputs with green := t.io.outputs.green, amber := t.io.outputs.amber, red := t.io.outputs.red } }

/-- Every part but those named is as it was. -/
def KeptBut (s t : State) (changed : List Part) : Prop := ∀ p, p ∉ changed → KeptPart s t p

/-- A request that was carried out: answered, its notices posted, every other link and every part but those named as
it was. -/
def Done (s t : State) (q : Req) (code : Nat) (w : Status) (fields : List Field) (ks : List NoticeKind)
    (changed : List Part) : Prop :=
  Answered s t q code w fields ∧ Posted s t ks ∧ SettingsKept s t ∧ OthersKept q.link s t ∧ KeptBut s t changed

/-- An event that was carried out: its notices posted, every link's frames and every part but those named as it was. -/
def Happened (s t : State) (ks : List NoticeKind) (changed : List Part) : Prop :=
  Posted s t ks ∧ SettingsKept s t ∧ FramesKept s t ∧ KeptBut s t changed

/-! ### What became of one entry of a table -/

/-- In `u` the record of traveler `t` is `r` and every other is as in `s`; the rest of the traveler table is that of
`table`. -/
def Rewritten (s u : State) (t : Nat) (r : Traveler) (table : TravelerTable) : Prop :=
  u.traveler t = some r ∧ (∀ n, n ≠ t → u.traveler n = s.traveler n) ∧
    u.table = { table with records := u.table.records }

/-- In `u` the recipe slot is `x`; every other slot and every profile is as in `s`. -/
def SlotBecomes (s u : State) (slot : Nat) (x : RecipeSlot) : Prop :=
  nth u.recipes.slots slot = some x ∧ (∀ n, n ≠ slot → nth u.recipes.slots n = nth s.recipes.slots n) ∧
    u.recipes.profiles = s.recipes.profiles

/-- In `u` lot record `n` is `m` and every other is as in `s`; the rest of the lot table is that of `table`. -/
def LotBecomes (s u : State) (n : Nat) (m : Lot) (table : LotTable) : Prop :=
  nth u.lots.records n = some (some m) ∧ (∀ k, k ≠ n → nth u.lots.records k = nth s.lots.records k) ∧
    u.lots = { table with records := u.lots.records }

/-- Line I/O is as it was but for the outputs; these are `o`, the slot select set from the transfer list (R180) and
the three lamps from the state of the line (R182). -/
def OutputsBecome (s u : State) (o : Outputs) : Prop :=
  u.io = { s.io with outputs :=
    { o with slotSelect := slotSelectOf u.table.transfers, green := u.io.outputs.green,
             amber := u.io.outputs.amber, red := u.io.outputs.red } }

/-! ### Holds, entries and messages -/

/-- The record that a raise at line second `stamp` opens, its release level the one the table of `s` gives (R148,
R149). -/
def newHold (s : State) (stamp : Seconds) (reason : HoldReason) (who : Raiser) (g : Stage) (detail : HoldDetail) : Hold :=
  { reason := reason, state := .isOpen, raisedBy := who, stage := g, stamp := stamp, level := s.holds.levelOf reason,
    detail := some detail, count := 1, releasedBy := none, releasedStamp := none }

/-- The hold set `after` is `before` with the record `h` added. -/
def HoldAdded (before after : List Hold) (h : Hold) : Prop := ∀ k, k ∈ after ↔ k ∈ before ∨ k = h

/-- The OPEN record of a reason in a hold set. -/
def openHold (reason : HoldReason) (l : List Hold) : Option Hold :=
  l.find? fun h => h.reason == reason && h.state == .isOpen

/-- A hold set in reason order after a raise that asks for the record `h` (R148, R149): the OPEN record of its reason
counts once more, up to 65535; where there is none, or it is RELEASED, `h` stands in its place. -/
def holdsAfterRaise (l : List Hold) (h : Hold) : List Hold :=
  (l.filter fun k => decide (k.reason.code < h.reason.code)) ++
    (match openHold h.reason l with
      | some k => { k with count := min (k.count + 1) 65535 }
      | none => h) ::
    l.filter fun k => decide (h.reason.code < k.reason.code)

/-- A hold set after raises that ask for several records one after another. -/
def holdsAfterRaises (l hs : List Hold) : List Hold := hs.foldl holdsAfterRaise l

/-- The HOLD_RAISED notices of those raises on the traveler of a tag and number: one of each record that is opened, none
of a raise that counts (R149). -/
def raiseNotices (tag : Text) (t : Nat) : List Hold → List Hold → List NoticeKind
  | _, [] => []
  | l, h :: rest =>
    (if (openHold h.reason l).isSome then [] else [.holdRaised tag t h.reason h.raisedBy h.stage h.level h.detail]) ++
      raiseNotices tag t (holdsAfterRaise l h) rest

/-- The raises `hs` that the end of an inspection at station `x` asks for on the board of record `r` (R65, R139). At PRE:
MASK_MISSING with the first REQUIRED site whose verdict is neither PRESENT nor NOT_FITTED, then FIDUCIAL where the
offset is absent, was not found, or has a component above the fiducial limit. At POST: COVERAGE with the first window
that is not COVERED. -/
def EvaluationRaises (s : State) (x : Station) (r : Traveler) (hs : List Hold) : Prop :=
  let hold (k : HoldReason) (d : HoldDetail) : Hold := newHold s s.io.seconds k .maskVerification (stationStage x) d
  match x with
  | .pre =>
    let sites := (s.recipeOf r).sites.zip r.sites
    let lets (y : MaskSite × SiteVerdict) : Prop := y.1.policy = .required → y.2 = .present ∨ y.2 = .notFitted
    ∃ missing, ((∀ y ∈ sites, lets y) ∧ missing = [] ∨
        ∃ before y after, sites = before ++ y :: after ∧ (∀ z ∈ before, lets z) ∧ ¬ lets y ∧
          missing = [hold .maskMissing (.site (before.length + 1))]) ∧
      hs = missing ++ match r.fiducial with
        | none => [hold .fiducial (.fiducial .notPosted)]
        | some .notFound => [hold .fiducial (.fiducial .notFound)]
        | some (.offset dx dy) =>
          if dx.natAbs ≤ s.io.timeouts.fiducial ∧ dy.natAbs ≤ s.io.timeouts.fiducial then []
          else [hold .fiducial (.fiducial .limit)]
  | .post =>
    (∀ v ∈ r.coverage, v = .covered) ∧ hs = [] ∨
      ∃ before v after, r.coverage = before ++ v :: after ∧ (∀ z ∈ before, z = .covered) ∧ v ≠ .covered ∧
        hs = [hold .coverage (.coverage (before.length + 1) v)]

/-- The transfer list entry of a transfer started in `s`, its timer running for the configured timeout (R16, R178). -/
def entryFor (s : State) (t : Nat) (source dest : Place) : Transfer :=
  { traveler := t, source := source, dest := dest,
    deadline := some (s.io.seconds + BitVec.ofNat 32 s.io.timeouts.transfer) }

/-- The gantry port after a message sent in `s`, whose expected answer leaves the head at `target`: its deadline is the
expected time plus the gantry margin (R90, R91). -/
def awaitingAnswer (s : State) (m : GantryMessage) (target : Point) (expected : Nat) : PortState :=
  .waiting { message := m, target := some target, budget := expected + s.io.timeouts.margin, elapsed := 0 }

/-! ### What a diverter decides -/

/-- The place of an inspection station. -/
def stationPlace : Station → Place
  | .pre => .preStation
  | .post => .postStation

/-- Board `t` of record `r` waits at station `x` for its diverter: the station's record is ENDED, the board is PRESENT
there, and no transfer names the station or the board (R72, R140). -/
def State.Waits (s : State) (x : Station) (t : Nat) (r : Traveler) : Prop :=
  (∃ i, s.record x = some i ∧ i.traveler = t ∧ i.phase ≠ .isOpen) ∧ s.traveler t = some r ∧
    r.stage = stationStage x ∧ r.place = .present ∧
    ∀ e ∈ s.table.transfers, e.source ≠ stationPlace x ∧ e.dest ≠ stationPlace x ∧ e.traveler ≠ t

/-- No board waits at station `x`: it has no record, its inspection is OPEN, or a transfer names the station. -/
def State.NoneWaits (s : State) (x : Station) : Prop :=
  s.record x = none ∨ (∃ i, s.record x = some i ∧ i.phase = .isOpen) ∨
    ∃ e ∈ s.table.transfers, e.source = stationPlace x ∨ e.dest = stationPlace x

/-- Where the diverter of station `x` sends the board that waits there with the hold set `holds` (none: it waits on), the
line in `mode`, the shelf slots `shelf`, the spray cell vacant or not (R72, R73, R140, R155). In RUN and DRAIN the pre
diverter sends a board with an OPEN hold to the lowest free slot where at least 2 are free, another to the cell where
that is vacant. Outside HALT the exit diverter sends a board with an OPEN hold to the lowest free slot where at least 1
is free, another to the outfeed. -/
def DiverterSends (x : Station) (mode : LineMode) (shelf : List ShelfSlot) (cellVacant : Prop) (holds : List Hold)
    (o : Option Place) : Prop :=
  let held : Prop := ∃ h ∈ holds, h.state = .isOpen
  let toShelf (least : Nat) : Prop :=
    (shelf.count .free < least ∧ o = none) ∨
      (least ≤ shelf.count .free ∧ ∃ n, nth shelf n = some .free ∧
        (∀ m, 1 ≤ m → m < n → nth shelf m ≠ some .free) ∧ o = some (.shelf n))
  match x with
  | .pre =>
    (mode = .idle ∨ mode = .halt → o = none) ∧
      (mode = .run ∨ mode = .drain → (held → toShelf 2) ∧
        (¬ held → (cellVacant → o = some .cell) ∧ (¬ cellVacant → o = none)))
  | .post =>
    (mode = .halt → o = none) ∧ (mode ≠ .halt → (held → toShelf 1) ∧ (¬ held → o = some .outfeed))

/-- The destination sensor of a transfer that a diverter starts reads vacant in `s`, so that the transfer does not end
at once (R16). -/
def State.WayClear (s : State) (o : Option Place) : Prop := ∀ p, o = some p → s.occupied p.sensor = false

/-- The record of a board sent to `o`: ARRIVING in the stage of the transfer, and at the shelf its slot named (R3, R15,
R155). -/
def sentRecord (r : Traveler) : Option Place → Traveler
  | none => r
  | some (.shelf n) => { r with stage := .shelved, place := .arriving, shelfSlot := some n }
  | some p => { r with stage := p.stage, place := .arriving }

/-- The BOARD_STAGE notice of a board sent to `o`. -/
def sentNotices (r : Traveler) (t : Nat) : Option Place → List NoticeKind
  | none => []
  | some p => [.boardStage r.tag t r.stage p.stage .arriving]

/-- The cell after a board is sent to `o`: LOADING where it is sent there (R77). -/
def sentEngine (e : StrokeEngine) (t : Nat) : Option Place → StrokeEngine
  | some .cell => { e with cell := .loading, board := some t }
  | _ => e

/-- The shelf slots after a board is sent to `o`: its slot assigned (R155). -/
def sentShelf (l : List ShelfSlot) (t : Nat) : Option Place → List ShelfSlot
  | some (.shelf n) => putNth l n (.assigned t)
  | _ => l

/-- The outputs after the diverter of station `x` has sent a board to `o` (R15). -/
def sentOutputs (x : Station) (y : Outputs) (o : Option Place) : Outputs :=
  match x, o with
  | _, none => y
  | .pre, some (.shelf _) => { y with preDiverter := .shelf }
  | .pre, some _ => { y with preDiverter := .line }
  | .post, some (.shelf _) => { y with exitDiverter := .shelf }
  | .post, some _ => { y with exitDiverter := .outfeed }

/-- In `u` the diverter of station `x` has sent board `t` to `o` (none: nowhere). Were it not for that, its record would
be `r`, the rest of the traveler table `table`, the stroke engine `engine` and the shelf slots `shelf`; every other
record is as in `s`. -/
def Sent (s u : State) (x : Station) (t : Nat) (r : Traveler) (table : TravelerTable) (engine : StrokeEngine)
    (shelf : List ShelfSlot) (o : Option Place) : Prop :=
  Rewritten s u t (sentRecord r o)
      { table with transfers := table.transfers ++ (o.map (entryFor s t (stationPlace x))).toList } ∧
    u.engine = sentEngine engine t o ∧ u.holds = { s.holds with shelf := sentShelf shelf t o }

/-- Line I/O after a decision in `s` that sent a board to `o`: its diverter set, or all as it was. -/
def WaySet (s u : State) (x : Station) (o : Option Place) : Prop :=
  (o = none → KeptPart s u .clock) ∧ (o ≠ none → OutputsBecome s u (sentOutputs x s.io.outputs o))

/-! ### What a retirement and a second tick leave -/

/-- In `u` traveler `t` of record `r` is retired (R19): its record free and at the tail of the free list, its tag out of
the index, its entry off the transfer list and the infeed queue, its use of the recipe slot given back, and the
inspection record that named it removed (R71). -/
def Retired (s u : State) (t : Nat) (r : Traveler) (table : TravelerTable) : Prop :=
  u.traveler t = none ∧ (∀ n, n ≠ t → u.traveler n = s.traveler n) ∧
    u.table = { table with
      records := u.table.records, free := s.table.free ++ [t], index := s.table.index.filter (fun x => x.2 != t),
      queue := s.table.queue.filter (fun n => n != t),
      transfers := s.table.transfers.filter (fun x => x.traveler != t) } ∧
    (∀ x, nth s.recipes.slots r.recipe = some x → SlotBecomes s u r.recipe { x with useCount := x.useCount - 1 }) ∧
    ∀ x, ((∃ i, s.record x = some i ∧ i.traveler = t) → u.record x = none) ∧
      (∀ i, s.record x = some i → i.traveler ≠ t → u.record x = some i) ∧ (s.record x = none → u.record x = none)

/-- What a second tick makes of one board of the oven list: its record, its notices, and whether its over-cure mark is
newly set. -/
structure TickOutcome where
  record  : Traveler
  notices : List NoticeKind
  marked  : Bool

/-- A hold that the second tick after `s` opens: its stamp is the line second that begins (R177). -/
def tickHold (s : State) (reason : HoldReason) (d : HoldDetail) : Hold :=
  newHold s (s.io.seconds + 1) reason .cureMonitor .cure d

/-- The accrual of a second tick for the board of entry `e` and record `r` (R128, R129, R130): nothing with its centre
outside the oven; the weight of the zone under its centre on both doses, saturating; over a FAILED zone no dose and a
raise of CURE_UNVERIFIED. The weight is 1 for a board forced PROFILE, else the one its profile gives the temperature. -/
def TickAccrues (s : State) (e : OvenEntry) (r r' : Traveler) (ks : List NoticeKind) : Prop :=
  ∃ (g : OvenGeometry) (lead : Nat) (h : Header), s.cure.geometry = some g ∧ r.lead = some lead ∧
    (s.recipeOf r).header = some h ∧
    let c : Int := (lead : Int) - (h.length / 2 : Nat)
    ((c < 0 ∨ (g.length : Int) ≤ c) ∧ r' = r ∧ ks = []) ∨
      ∃ (k b : Nat) (z : Zone), 0 ≤ c ∧ c < g.length ∧ nth g.bounds k = some b ∧ c < b ∧
        (∀ j y, 1 ≤ j → j < k → nth g.bounds j = some y → (y : Int) ≤ c) ∧ nth s.cure.zones k = some z ∧
        ((z.state = .failed ∧
            let hold := tickHold s .cureUnverified (.unverified (.zone k))
            r' = { r with holds := holdsAfterRaise r.holds hold } ∧ ks = raiseNotices r.tag e.traveler r.holds [hold]) ∨
          (z.state ≠ .failed ∧ ∃ (temp : Int) (w : Nat), z.last = some temp ∧
            (e.form = .profile → w = 1) ∧
            (e.form ≠ .profile → ∃ p, s.profileOf r = some p ∧ (temp < p.base → w = 0) ∧
              (p.base ≤ temp → p.weights[min ((temp - p.base) / 5).toNat 15]? = some w)) ∧
            r' = { r with passDose := min (r.passDose + w) 4294967295, lifeDose := min (r.lifeDose + w) 4294967295 } ∧
            ks = []))

/-- The over-cure test of a second tick on the board of entry `e`, whose record is `r` after the accrual (R131): for a
form other than PROFILE with the mark clear, a pass dose above Dmax or a lifetime dose above Dlife sets the mark, raises
OVER_CURE and posts OVERCURE, with the bound PASS where the pass dose exceeds, else LIFE. -/
def TickTests (s : State) (e : OvenEntry) (r r' : Traveler) (ks : List NoticeKind) (marked : Bool) : Prop :=
  ((e.form = .profile ∨ e.traveler ∈ s.cure.overCured ∨
      ∃ p, s.profileOf r = some p ∧ r.passDose ≤ p.passMax ∧ r.lifeDose ≤ p.lifeMax) ∧
    r' = r ∧ ks = [] ∧ marked = false) ∨
  (e.form ≠ .profile ∧ e.traveler ∉ s.cure.overCured ∧
    ∃ (p : Profile) (bound : DoseBound), s.profileOf r = some p ∧
      ((p.passMax < r.passDose ∧ bound = .pass) ∨
        (r.passDose ≤ p.passMax ∧ p.lifeMax < r.lifeDose ∧ bound = .life)) ∧
      let hold := tickHold s .overCure (.overCure bound r.passDose r.lifeDose)
      r' = { r with holds := holdsAfterRaise r.holds hold } ∧
      ks = raiseNotices r.tag e.traveler r.holds [hold] ++
        [.overcure r.tag e.traveler r.passDose r.lifeDose bound] ∧
      marked = true)

/-- What the second tick makes of the board of entry `e`, which no transfer to the outfeed takes out of reach (R150). -/
def TickGives (s : State) (e : OvenEntry) (x : TickOutcome) : Prop :=
  ∃ r mid k1 k2, s.traveler e.traveler = some r ∧ s.leaving e.traveler = false ∧ HoldsInOrder r.holds ∧
    TickAccrues s e r mid k1 ∧ TickTests s e mid x.record k2 x.marked ∧ x.notices = k1 ++ k2

/-- What leaving HALT by Recover makes of the stroke engine `e`, the gantry limits being `l` (R96): a LOST port is sent
STOP; with the port QUIET an ABORTED or PARKING cell sends the park MOVE; else nothing is sent. -/
def engineOutOfHalt (s : State) (l : GantryLimits) (e : StrokeEngine) : StrokeEngine :=
  match e.port with
  | .lost =>
    { e with reference := none,
             port := .waiting { message := .stop, target := none, budget := s.io.timeouts.margin, elapsed := 0 } }
  | .quiet =>
    if e.cell = .aborted ∨ e.cell = .parking then
      { e with cell := .parking,
               port := awaitingAnswer s (.move 0 l.park l.parkSpeed) l.park (e.moveTime l.park l.parkSpeed) }
    else e
  | .waiting _ => e

/-- Stroke `x` of board `r` passes every decision of R79 to R85 in `s` with head configuration `c` and limits `l`: a dry
stroke with no results and no lot, or a spraying one with the results of its arithmetic, its verdict NOMINAL, and its
lot recorded among those `used`. -/
def StrokePasses (s : State) (r : Traveler) (x : Stroke) (c : HeadConfig) (l : GantryLimits)
    (results : Option Dispense) (used : List (Option Text)) : Prop :=
  nth s.lots.heads x.head = some (some c) ∧ c.zMin ≤ x.height ∧ x.height ≤ c.zMax ∧
    (∀ p ∈ machinePasses l r.shift x, withinTravel l p.1 = true ∧ withinTravel l p.2 = true) ∧
    ((x.valveOn = false ∧ results = none ∧ used = r.lotsUsed) ∨
      ∃ (h : Header) (w : Window) (n : Nat) (m : Lot),
        let d := dispense c m.potLife m.derate (m.age s.io.seconds) x w
        x.valveOn = true ∧ (s.recipeOf r).header = some h ∧ nth (s.recipeOf r).windows x.window = some w ∧
          (w.mask = 0 ∨ nth r.sites w.mask = some .present ∨ nth r.sites w.mask = some .notFitted) ∧
          nth s.lots.map x.head = some (some n) ∧ nth s.lots.records n = some (some m) ∧ m.state ≠ .expired ∧
          m.kind = h.kind ∧ (d.strokeVolume : Int) ≤ m.remaining ∧ d.verdict = .nominal ∧ results = some d ∧
          used = putNth r.lotsUsed x.head (some m.id))

end Sys2Proof.Machine
end

