-- ==== Sys2Proof/Certificates/Slice0/Obligations.lean ====
section
/-! DEFINITION. The statements of this model for the provers. Each one's docstring names the rules it formalises; what the
words of the claims mean (`Takes`, `Done`, `Happened`, `Posted`, `KeptBut`, `Rewritten`) stands in Safety.lean. -/

open Sys2Proof Sys2Proof.Machine

/-! ### The step and reset -/

/-- A command at the front of the queue is carried out with the queue's rest (the model's own rule of a block, log 1). -/
def Obligations.StepRunsFrontCommand : Prop :=
  ∀ (c : Instr) (s : State), step (s.withFront c) = exec c s

/-- With no command waiting a step answers a next state: a move that is due is queued and nothing else changes; else,
with no byte and no pulse on the inputs, the running reference clock makes a millisecond tick: the millisecond count
advances by one and wraps at 1000, and line seconds is left to its own row (the model's own rule, log 1). While the
reference clock stands no tick is made (R177): with nothing due nothing changes at all, and whatever is due, no
count of the time base, no debounce, no timer and no stamp moves, and no sampling round, blink or second tick is
queued. The debounce of a sensor at the millisecond tick (R179): with the reference clock running, no command
waiting and nothing due on the other inputs, an input that shows the other level for its twentieth tick queues the
change, and one that shows the reading's own level starts the run again. -/
def Obligations.IdleQueuesMoveOrTicks : Prop :=
  (∀ s : State, s.pending = [] →
    (∀ i, s.nextMove = some i → step s = .next (s.withPending [i])) ∧
    (s.io.inputs.clock = false →
      (s.nextMove = none → s.byteDue = none → s.io.inputs.pulses = 0 → step s = .next s) ∧
      ∃ u, step s = .next u ∧ KeptBut s u [.pending, .cure, .clock] ∧ u.io = { s.io with inputs := u.io.inputs } ∧
        u.cure = { s.cure with prescaler := u.cure.prescaler } ∧ Instr.secondTick ∉ u.pending ∧
        Instr.blinkToggle ∉ u.pending ∧ ∀ l, Instr.samplingRound l ∉ u.pending) ∧
    (s.nextMove = none → s.byteDue = none → s.io.inputs.pulses = 0 → s.io.inputs.clock = true →
      ∃ u, step s = .next u ∧ u.io.ms = (s.io.ms + 1) % 1000 ∧ u.io.seconds = s.io.seconds ∧
        (Instr.secondTick ∈ u.pending ↔ (s.io.ms + 1) % 1000 = 0) ∧
        (Instr.blinkToggle ∈ u.pending ↔ (s.io.ms + 1) % 1000 % 500 = 0) ∧
        (Instr.samplingRound s.io.inputs.channels ∈ u.pending ↔ (s.io.ms + 1) % 1000 % 250 = 0))) ∧
  (∀ (s : State) (x : Sensor) (d : SensorState) (level : Bool), s.pending = [] → s.nextMove = none →
    s.byteDue = none → s.io.inputs.pulses = 0 → s.io.inputs.clock = true → x.exists? = true →
    s.io.sensors[Sensor.index x]? = some d → s.io.inputs.sensors[Sensor.index x]? = some level →
    ∃ u, step s = .next u ∧
      (level = d.reading → u.io.sensors[Sensor.index x]? = some { d with run := 0 }) ∧
      (level ≠ d.reading → u.io.sensors[Sensor.index x]? = some { d with run := d.run + 1 }) ∧
      (level ≠ d.reading → 19 ≤ d.run → Instr.sensorChange x (!d.reading) ∈ u.pending) ∧
      (level ≠ d.reading → d.run < 19 → ∀ b, Instr.sensorChange x b ∉ u.pending))

/-- POWER_ON_RESET and RESET_PIN leave the values after reset that the manual gives every block, with the straps latched
from the pins; the commands that wait and the input pins are the outside's (log 3). -/
def Obligations.ResetLeavesGivenValues : Prop :=
  ∀ (s : State) (p : StrapPins) (i : Instr), (i = .powerOnReset p ∨ i = .resetPin p) →
    ∃ u, exec i s = .next u ∧ u.pending = s.pending ∧ u.io.inputs = s.io.inputs ∧
      (∀ t, u.traveler t = none) ∧ u.table.free = List.range' 1 48 ∧ u.table.index = [] ∧ u.table.queue = [] ∧
      u.table.transfers = [] ∧ u.mode = .idle ∧ u.table.cause = none ∧ u.table.detail = none ∧
      u.recipes.slots = List.replicate 8
        { state := .empty, header := none, windows := [], sites := [], strokes := [], useCount := 0 } ∧
      u.recipes.profiles = [none, none, none, none] ∧
      u.lots.records = [none, none, none, none] ∧ u.lots.unmount = [] ∧ (∀ o ∈ u.lots.heads, o = none) ∧
      (∀ o ∈ u.lots.map, o = none) ∧ u.mask.pre = none ∧ u.mask.post = none ∧
      u.engine.cell = .vacant ∧ u.engine.port = .quiet ∧ u.engine.reference = none ∧ u.engine.lastFault = none ∧
      u.engine.limits = none ∧ u.engine.valve = none ∧
      u.cure.geometry = none ∧ u.cure.flash = [] ∧ u.cure.oven = [] ∧ u.cure.exit = [] ∧ u.cure.stopUp = true ∧
      u.cure.rangeLow = 10 ∧ u.cure.rangeHigh = 2000 ∧ u.cure.setpoint = 0 ∧ u.cure.output = 0 ∧
      u.cure.stalled = false ∧ u.cure.overdue = [] ∧ u.cure.overCured = [] ∧ u.cure.prescaler = 100 ∧
      (∀ z ∈ u.cure.zones, z = { state := .failed, last := none, invalidRun := 0, validRun := 0 }) ∧
      u.holds.levels = [2, 2, 2, 1, 2, 1, 2, 2, 1, 1, 0, 1, 2, 2] ∧ (∀ x ∈ u.holds.shelf, x = .free) ∧
      u.links.serial = 0 ∧
      (∀ l, (u.link l).answers = [] ∧ (u.link l).queue = [] ∧ (u.link l).subs = [] ∧ (u.link l).trigger = 1 ∧
        (u.link l).overrun = false ∧ (u.link l).attention = false ∧ (u.link l).reception = .searching) ∧
      u.io.ms = 0 ∧ u.io.seconds = 0 ∧ u.io.blinkOn = true ∧ u.io.estop = false ∧
      (∀ d ∈ u.io.sensors, d.reading = false) ∧
      u.io.timeouts = { transfer := 8, pre := 30, post := 30, margin := 500, fiducial := 20, reload := 100 } ∧
      u.io.outputs = { infeedGate := false, cellGate := false, accumulatorGate := false, preDiverter := .rest,
                       exitDiverter := .rest, slotSelect := 0, green := .dark, amber := .dark, red := .dark }

/-- The straps (R183): a power-on reset and the reset pin latch them from the strap pins, an open pin reading 1 and one
tied to ground 0, each by the strap table; no other command changes them, so a strap pin that changes between resets
has no effect. -/
def Obligations.ResetLatchesStraps : Prop :=
  (∀ (s : State) (p : StrapPins) (i : Instr), (i = .powerOnReset p ∨ i = .resetPin p) →
    let bit (b : Bool) : Nat := if b then 1 else 0
    ∃ u, exec i s = .next u ∧
      u.io.straps = { levelA := 2 * bit p.lva1 + bit p.lva0, levelB := 2 * bit p.lvb1 + bit p.lvb0,
                      levelC := 2 * bit p.lvc1 + bit p.lvc0, heads := if p.hds then 1 else 2,
                      zones := 3 + 2 * bit p.zns1 + bit p.zns0 } ∧
      u.lots.heads.length = (if p.hds then 1 else 2) ∧ u.cure.zones.length = 3 + 2 * bit p.zns1 + bit p.zns0) ∧
  (∀ (i : Instr) (s u : State), (∀ p, i ≠ .powerOnReset p ∧ i ≠ .resetPin p) → exec i s = .next u →
    u.io.straps = s.io.straps)

/-- The state that the model calls reset satisfies every invariant of this model (its strap pins and inputs are the
model's choice, log 3). -/
def Obligations.ResetSatisfiesInvariants : Prop :=
  State.reset.LinksOk ∧ State.reset.BeltOk ∧ State.reset.HaltOk ∧ State.reset.LampsOk ∧ State.reset.VolumesOk ∧
    State.reset.DosesOk ∧ State.reset.QueueOk ∧ State.reset.Shaped ∧ State.reset.RangeOk ∧ State.reset.IndexOk ∧
    State.reset.PlacesOk ∧ State.reset.ValveOk ∧ State.reset.HoldsOk

/-! ### Invariants that every step keeps -/

/-- Every step keeps the links within their capacities and their attention outputs as R174 judges them (R165, R170,
R174). -/
def Obligations.StepKeepsLinksOk : Prop :=
  ∀ s u : State, s.LinksOk → step s = .next u → u.LinksOk

/-- Every step keeps the setpoint output at 0 in HALT and while the oven is stalled, and at the setpoint otherwise
(R115); and every step keeps I the intersection of the non-forced boards' ranges and not empty, the setpoint within
the belt drive's range, and the setpoint within I while the oven holds a board (R114, R115). -/
def Obligations.StepKeepsBeltOutput : Prop :=
  (∀ s u : State, s.BeltOk → step s = .next u → u.BeltOk) ∧
  (∀ s u : State, s.RangeOk → step s = .next u → u.RangeOk)

/-- Every step keeps the halt cause none outside HALT and the cause and detail of R7 in HALT. -/
def Obligations.StepKeepsHaltCause : Prop :=
  ∀ s u : State, s.HaltOk → step s = .next u → u.HaltOk

/-- Every step keeps the volume account: in each lot record, remaining and dispensed together are the charge (R51). -/
def Obligations.StepKeepsVolumeAccount : Prop :=
  ∀ s u : State, s.VolumesOk → step s = .next u → u.VolumesOk

/-- Every step keeps every pass dose at most the lifetime dose, and both within the saturation value (R130). -/
def Obligations.StepKeepsDoses : Prop :=
  ∀ s u : State, s.DosesOk → step s = .next u → u.DosesOk

/-- Every step keeps the infeed queue's occupancy at 4 or below (R5). -/
def Obligations.StepKeepsQueueOccupancy : Prop :=
  ∀ s u : State, s.QueueOk → step s = .next u → u.QueueOk

/-- Every step keeps the sizes of the tables (R1, R24, R39, R45, R147, R155, R179); and every step keeps the free list,
the tag index and the records in agreement, no number twice on the free list and no tag twice in the index (R1, R2);
and every step keeps every hold set in reason order with at most one record of a reason (R148). -/
def Obligations.StepKeepsTableSizes : Prop :=
  (∀ s u : State, s.Shaped → step s = .next u → u.Shaped) ∧
  (∀ s u : State, s.IndexOk → step s = .next u → u.IndexOk) ∧
  (∀ s u : State, s.HoldsOk → step s = .next u → u.HoldsOk)

/-- Every traveler is where its lists say (R3, R6, R77, R110, R114, R133), whatever the step: the members of the infeed
queue, the flash list, the oven list and the exit list are live, PRESENT and in that list's stage; the traveler of
every transfer is live, ARRIVING in the stage of its destination, and named by no second entry; a transfer into the
cell has it LOADING for its board and one into the flash belt comes from the DONE cell; a board worked or waiting in
the cell is PRESENT in SPRAY. With that, every step keeps a RUNNING cell to RUN and DRAIN, and a valve open only
while the cell is RUNNING, in RUN or DRAIN, with a PASS outstanding (R88). -/
def Obligations.StepKeepsPlacesAndValve : Prop :=
  (∀ s u : State, s.IndexOk → s.PlacesOk → step s = .next u → u.PlacesOk) ∧
  (∀ s u : State, s.IndexOk → s.PlacesOk → s.ValveOk → step s = .next u → u.ValveOk)

/-! ### The traveler table (chapter 1) -/

/-- INDUCT (R4): with every condition of its table met, the record at the head of the free list is filled as the rule
says, the tag indexed, the traveler put at the tail of the infeed queue, the recipe slot's use counted,
BOARD_INDUCTED posted and OK answered with the traveler number; nothing else changes. INDUCT refused, in the order
of the table of R4; a refusal changes nothing. -/
def Obligations.InductCreatesOrRefuses : Prop :=
  (∀ (s : State) (q : Req) (tag : Text) (slot t : Nat) (rest : List Nat) (x : RecipeSlot),
    s.Takes q 1 → s.mode ≠ .drain → tagForm tag = true → 1 ≤ slot → slot ≤ 8 →
    nth s.recipes.slots slot = some x → x.state = .ready → s.tagged tag = none → s.table.free = t :: rest →
    s.occupancy < 4 → 1 ≤ t → t ≤ s.table.records.length →
    ∃ u, exec (.induct q tag slot) s = .next u ∧
      Done s u q 1 .ok [u1 t] [.boardInducted tag t slot] [.table, .recipes] ∧
      u.traveler t = some
        { tag := tag, recipe := slot, route := .full, stage := .queued, place := .present, inducted := s.io.seconds,
          claim := none, fiducial := none, sites := List.replicate x.sites.length .unchecked, program := .notStarted,
          strokeCursor := 0, passCursor := 0, coat := { run := 0, skipped := 0, faults := 0, first := none },
          lotsUsed := List.replicate s.io.straps.heads none, sprayEnd := none, forced := false, lead := none,
          passDose := 0, lifeDose := 0, coverage := List.replicate x.windows.length .unchecked, holds := [],
          shelfSlot := none } ∧
      (∀ n, n ≠ t → u.traveler n = s.traveler n) ∧
      u.table = { s.table with records := u.table.records, free := rest, index := s.table.index ++ [(tag, t)],
                               queue := s.table.queue ++ [t] } ∧
      SlotBecomes s u slot { x with useCount := x.useCount + 1 }) ∧
  (∀ (s : State) (q : Req) (tag : Text) (slot : Nat), s.Takes q 1 →
    (s.mode = .drain → ∃ u, exec (.induct q tag slot) s = .next u ∧ Done s u q 1 .mode [] [] []) ∧
    (s.mode ≠ .drain → (tagForm tag = false ∨ slot = 0 ∨ 8 < slot) →
      ∃ u, exec (.induct q tag slot) s = .next u ∧ Done s u q 1 .invalid [] [] []) ∧
    (s.mode ≠ .drain → tagForm tag = true → 1 ≤ slot → slot ≤ 8 →
      (∀ e, s.tagged tag = some e →
        ∃ u, exec (.induct q tag slot) s = .next u ∧ Done s u q 1 .duplicate [] [] []) ∧
      (∀ x, s.tagged tag = none → nth s.recipes.slots slot = some x →
        (x.state ≠ .ready → ∃ u, exec (.induct q tag slot) s = .next u ∧ Done s u q 1 .notReady [] [] []) ∧
        (x.state = .ready → (s.table.free = [] ∨ 4 ≤ s.occupancy) →
          ∃ u, exec (.induct q tag slot) s = .next u ∧ Done s u q 1 .full [] [] []))))

/-- START (R8, R74): from IDLE, configured and with no E-stop, and from DRAIN, the mode becomes RUN and the answer is
OK. With no board waiting at the pre-inspection station nothing else changes; a board that waits there is decided
again by the pre diverter in RUN. IDLE with the E-stop asserted is refused ESTOP, IDLE without geometry or limits
NOT_CONFIGURED, HALT MODE, and RUN answers OK with nothing changed. (That the board is decided before the answer is
the model's choice, log 8.) (A board is sent on with the destination sensor vacant, so that its transfer does not
end at once, R16.) DRAIN and DRAIN_COMPLETE (R9, R74): in RUN the mode becomes DRAIN, a board that waits at the
pre-inspection station is decided again by the pre diverter, and the mode becomes IDLE at once where no live
traveler is then past the infeed queue; in DRAIN the line that has emptied becomes IDLE; in IDLE and HALT Drain is
refused MODE. (That the board is decided before the answer is the model's choice, log 8.) (A board is sent on with
the destination sensor vacant, so that its transfer does not end at once, R16.) -/
def Obligations.StartAndDrainSetMode : Prop :=
  (∀ (s : State) (q : Req), s.Takes q 1 →
    ((s.mode = .idle ∧ s.io.estop = false ∧ s.cure.geometry ≠ none ∧ s.engine.limits ≠ none) ∨ s.mode = .drain →
      let table : TravelerTable := { s.table with mode := .run, cause := none, detail := none }
      ∃ u, exec (.start q) s = .next u ∧ Answered s u q 2 .ok [] ∧ u.mode = .run ∧ u.table.cause = none ∧
        u.table.detail = none ∧
        (s.NoneWaits .pre → Done s u q 2 .ok [] [.modeChanged s.mode .run] [.table] ∧ u.table = table) ∧
        (∀ t r o, s.Waits .pre t r →
          DiverterSends .pre .run s.holds.shelf (s.vacant .cell = true) r.holds o → s.WayClear o →
          Done s u q 2 .ok [] (.modeChanged s.mode .run :: sentNotices r t o) [.table, .engine, .holds, .clock] ∧
          Sent s u .pre t r table s.engine s.holds.shelf o ∧ WaySet s u .pre o)) ∧
    (s.mode = .idle → s.io.estop = true → ∃ u, exec (.start q) s = .next u ∧ Done s u q 2 .estop [] [] []) ∧
    (s.mode = .idle → s.io.estop = false → (s.cure.geometry = none ∨ s.engine.limits = none) →
      ∃ u, exec (.start q) s = .next u ∧ Done s u q 2 .notConfigured [] [] []) ∧
    (s.mode = .run → ∃ u, exec (.start q) s = .next u ∧ Done s u q 2 .ok [] [] []) ∧
    (s.mode = .halt → ∃ u, exec (.start q) s = .next u ∧ Done s u q 2 .mode [] [] [])) ∧
  (∀ (s : State) (q : Req),
    let inMode (m : LineMode) : TravelerTable := { s.table with mode := m, cause := none, detail := none }
    let past (r : Traveler) : Prop := r.stage ≠ .queued ∧ r.stage ≠ .shelved
    (s.Takes q 1 → s.mode = .run → s.NoneWaits .pre →
      ((∃ t r, s.traveler t = some r ∧ past r) → ∃ u, exec (.drain q) s = .next u ∧
        Done s u q 3 .ok [] [.modeChanged .run .drain] [.table] ∧ u.table = inMode .drain) ∧
      ((∀ t r, s.traveler t = some r → ¬ past r) → ∃ u, exec (.drain q) s = .next u ∧
        Done s u q 3 .ok [] [.modeChanged .run .drain, .modeChanged .drain .idle] [.table] ∧
        u.table = inMode .idle)) ∧
    (∀ t r o, s.Takes q 1 → s.mode = .run → s.Waits .pre t r →
      DiverterSends .pre .drain s.holds.shelf (s.vacant .cell = true) r.holds o → s.WayClear o →
      let shelved : Prop := ∃ n, o = some (.shelf n)
      let others : Prop := ∃ n y, n ≠ t ∧ s.traveler n = some y ∧ past y
      (¬ shelved ∨ others → ∃ u, exec (.drain q) s = .next u ∧
        Done s u q 3 .ok [] (.modeChanged .run .drain :: sentNotices r t o) [.table, .engine, .holds, .clock] ∧
        Sent s u .pre t r (inMode .drain) s.engine s.holds.shelf o ∧ WaySet s u .pre o) ∧
      (shelved → ¬ others → ∃ u, exec (.drain q) s = .next u ∧
        Done s u q 3 .ok [] (.modeChanged .run .drain :: sentNotices r t o ++ [.modeChanged .drain .idle])
          [.table, .engine, .holds, .clock] ∧
        Sent s u .pre t r (inMode .idle) s.engine s.holds.shelf o ∧ WaySet s u .pre o)) ∧
    (s.Takes q 1 → s.mode = .drain → ∃ u, exec (.drain q) s = .next u ∧ Done s u q 3 .ok [] [] []) ∧
    (s.Takes q 1 → (s.mode = .idle ∨ s.mode = .halt) →
      ∃ u, exec (.drain q) s = .next u ∧ Done s u q 3 .mode [] [] []) ∧
    (s.mode = .drain → (∀ t r, s.traveler t = some r → r.stage = .queued ∨ r.stage = .shelved) →
      ∃ u, exec .drainComplete s = .next u ∧ Happened s u [.modeChanged .drain .idle] [.table] ∧
        u.table = { s.table with mode := .idle, cause := none, detail := none }))

/-- The four entries into HALT (R10, R11, R18): HALT, TRANSFER_TIMER_EXPIRY, ESTOP_TAKEN and GANTRY_PORT_TIMEOUT, each
from any other mode, with its cause and detail; every transfer timer is stopped while the entries stay, the setpoint
output is 0 while the setpoint and everything else of the cure monitor stands, and the free list, tag index and
infeed queue stand. In HALT the first cause is kept, and with no valve open no notice is posted (an open valve of a
timed-out port draws from its lot, R51). (A deadline counts as reached over the half of the wrapping count that
begins at it, which is the model's reading, log 4.) What an entry into HALT does besides (R7, R10, R11, R91, R95,
R96). However HALT is entered, MODE_CHANGED and HALTED are posted, and every gate and diverter of an unfinished
transfer closes. A PARKING cell's park MOVE is stopped by STOP. A RUNNING cell becomes ABORTED: its valve shuts with
the draw of its open time and the LOT_LOW that falls due, STOP is sent over an outstanding MOVE or PASS (after a
port timeout the port is LOST and nothing is sent), the program is ABORTED with the spray end stamp set, and
SPRAY_INTERRUPTED is raised with the cursors: opened, opened again where it was RELEASED, or counted where it is
OPEN (R149). In the other cell states the engine sends nothing. (A deadline counts as reached over the half of the
wrapping count that begins at it, which is the model's reading, log 4.) (The place of LOT_LOW among the notices is
the model's choice, log 24, as are the unknown reference point and the deadline of a STOP, log 15.) (The hold set
stands in reason order, R148, and no transfer to the outfeed takes the board out of reach, R150.) -/
def Obligations.HaltEntriesStopLine : Prop :=
  (∀ (s : State) (q : Req) (t : Nat) (e : Transfer) (d : Seconds),
    let stopped (u : State) (c : HaltCause) (x : Option HaltDetail) : Prop :=
      u.mode = .halt ∧ u.table.cause = some c ∧ u.table.detail = x ∧
        u.table.transfers = s.table.transfers.map (fun e => { e with deadline := none }) ∧
        u.cure = { s.cure with output := 0 } ∧
        SettingsKept s u ∧ KeptBut s u [.table, .lots, .engine, .cure, .clock] ∧
        u.table.free = s.table.free ∧ u.table.index = s.table.index ∧ u.table.queue = s.table.queue
    let kept (u : State) : Prop :=
      u.mode = .halt ∧ u.table.cause = s.table.cause ∧ u.table.detail = s.table.detail ∧
        u.table.transfers = s.table.transfers ∧ KeptBut s u [.lots, .engine, .clock] ∧
        (s.engine.valve = none → Happened s u [] [.engine, .clock])
    (s.Takes q 2 → ∃ u, exec (.halt q) s = .next u ∧ Answered s u q 4 .ok [] ∧
      (s.mode ≠ .halt → stopped u .request (some (.link q.link))) ∧
      (s.mode = .halt → Done s u q 4 .ok [] [] [])) ∧
    (s.transferOf t = some e → e.deadline = some d → reached s.io.seconds d = true →
      ∃ u, exec (.transferTimerExpiry t) s = .next u ∧
        (s.mode ≠ .halt → stopped u .jam (some (.board (s.tagOf t) t))) ∧ (s.mode = .halt → kept u)) ∧
    (s.io.estopHanded = true → ∃ u, exec .estopTaken s = .next u ∧ u.io.estopHanded = false ∧
      (s.mode ≠ .halt → stopped u .estop none) ∧ (s.mode = .halt → kept u)) ∧
    (∀ o, s.engine.port = .waiting o → ∃ u, exec .gantryPortTimeout s = .next u ∧ u.engine.port = .lost ∧
      u.engine.reference = none ∧ u.engine.valve = none ∧
      (s.mode ≠ .halt → stopped u .gantry none) ∧ (s.mode = .halt → kept u))) ∧
  (∀ (s : State) (i : Instr) (c : HaltCause) (x : Option HaltDetail) (e : StrokeEngine), s.mode ≠ .halt →
    ((∃ q, i = .halt q ∧ s.Takes q 2 ∧ c = .request ∧ x = some (.link q.link) ∧ e = s.engine) ∨
      (∃ t y d, i = .transferTimerExpiry t ∧ s.transferOf t = some y ∧ y.deadline = some d ∧
        reached s.io.seconds d = true ∧ c = .jam ∧ x = some (.board (s.tagOf t) t) ∧ e = s.engine) ∨
      (i = .estopTaken ∧ s.io.estopHanded = true ∧ c = .estop ∧ x = none ∧ e = s.engine) ∨
      (i = .gantryPortTimeout ∧ (∃ o, s.engine.port = .waiting o) ∧ c = .gantry ∧ x = none ∧
        e = { s.engine with port := .lost, reference := none })) →
    let leavesFrom (p : Place) : Bool := s.table.transfers.any (fun y => y.source == p)
    let stopSent : StrokeEngine :=
      match e.port with
      | .waiting o =>
        if o.message = .stop then e
        else
          { e with reference := none,
                   port := .waiting { message := .stop, target := none, budget := s.io.timeouts.margin, elapsed := 0 } }
      | .quiet | .lost => e
    ∃ u, exec i s = .next u ∧
      u.io.outputs = { s.io.outputs with
        infeedGate := s.io.outputs.infeedGate && !leavesFrom .queue,
        cellGate := s.io.outputs.cellGate && !leavesFrom .cell,
        accumulatorGate := s.io.outputs.accumulatorGate && !leavesFrom .accumulator,
        preDiverter := if leavesFrom .preStation then .rest else s.io.outputs.preDiverter,
        exitDiverter := if leavesFrom .postStation then .rest else s.io.outputs.exitDiverter,
        green := u.io.outputs.green, amber := u.io.outputs.amber, red := u.io.outputs.red } ∧
      (s.engine.valve = none → s.engine.cell ≠ .running → Posted s u [.modeChanged s.mode .halt, .halted c x] ∧
        u.engine = (if s.engine.cell = .parking then stopSent else e) ∧ u.lots = s.lots ∧
        ∀ n, u.traveler n = s.traveler n) ∧
      (∀ t r, s.engine.cell = .running → s.engine.board = some t → s.traveler t = some r → s.leaving t = false →
        HoldsInOrder r.holds →
        let hold : Hold :=
          newHold s s.io.seconds .sprayInterrupted .strokeEngine .spray (.cursors r.strokeCursor r.passCursor)
        let raised : List NoticeKind := raiseNotices r.tag t r.holds [hold]
        (∀ n, n ≠ t → u.traveler n = s.traveler n) ∧
        u.traveler t = some
          { r with program := .aborted, sprayEnd := some s.io.seconds, holds := holdsAfterRaise r.holds hold } ∧
        (s.engine.valve = none → Posted s u ([.modeChanged s.mode .halt, .halted c x] ++ raised) ∧ u.lots = s.lots ∧
          u.engine = { stopSent with cell := .aborted, work := none }) ∧
        (∀ v n m, s.engine.valve = some v → nth s.lots.map v.head = some (some n) →
          nth s.lots.records n = some (some m) →
          let a := v.flow * v.openMs
          let low : Bool := decide (m.remaining - a < m.lowLimit) && !m.lowWarned
          let warned : List NoticeKind := if low then [.lotLow m.head n m.id (m.remaining - a) m.lowLimit] else []
          Posted s u (if i = .gantryPortTimeout then warned ++ [.modeChanged s.mode .halt, .halted c x] ++ raised
            else [.modeChanged s.mode .halt, .halted c x] ++ warned ++ raised) ∧
          LotBecomes s u n { m with
            remaining := m.remaining - a, dispensed := m.dispensed + a, lowWarned := m.lowWarned || low } s.lots ∧
          u.engine = { stopSent with
            cell := .aborted, work := none, valve := none, lastClose := some s.io.seconds })))

/-- RECOVER with no transfer in flight (R12, R96, R134, R142): in HALT with the E-stop released the line becomes IDLE
with cause none and no detail, and the belt is driven again. A LOST gantry port is sent STOP; with the port QUIET an
ABORTED or PARKING cell sends the park MOVE; with a message outstanding the engine sends nothing. A board at the
oven end with the exit count at 2 stalls the oven. A board that waits at the post-inspection station is decided by
the exit diverter. In any other mode Recover is refused MODE, and with the E-stop asserted ESTOP. (The order of what
follows MODE_CHANGED is the model's choice, log 16, as are the unknown reference point and the deadline of a STOP,
log 15.) (A board is sent on with the destination sensor vacant, so that its transfer does not end at once, R16.)
Recover resolves an unfinished transfer from its two sensors (R13, R77, R145, R155), before the mode changes. Where
the destination reads occupied, the board is PRESENT and received there, its inspection opened after MODE_CHANGED
(R56, R137; for RE_CURE at the pre-inspection station ENDED without a notice, R57), or retired DEPARTED at the
outfeed. Else, where the source reads occupied, the board is PRESENT there again, at the head of the infeed queue or
of the exit list where it came from there, its shelf slot freed, its cell VACANT; from the post-inspection station
the exit diverter then decides again in IDLE. Else it is retired LOST. The belt is driven again and the gantry
brought back. (Shown for one transfer in flight, with no other board waiting at the post-inspection station, no
stall to find, and the destination of a board sent on again vacant.) (That the inspection, the belt, the gantry and
the exit diverter follow MODE_CHANGED, in this order, is the model's choice, log 16.) -/
def Obligations.RecoverLeavesHalt : Prop :=
  (∀ (s : State) (q : Req), s.Takes q 1 →
    (s.mode = .halt → s.io.estop = false →
      ∃ u, exec (.recover q) s = .next u ∧ Answered s u q 5 .ok [] ∧ u.mode = .idle ∧ u.table.cause = none ∧
        u.table.detail = none ∧
        (∀ l, s.table.transfers = [] → s.engine.limits = some l →
          let table : TravelerTable := { s.table with mode := .idle, cause := none, detail := none }
          let stalls (x : OvenEntry) (y : Traveler) : Prop :=
            s.cure.stalled = false ∧ 2 ≤ s.exitCount ∧ s.cure.oven.head? = some x ∧ s.traveler x.traveler = some y ∧
              ∃ g lead, s.cure.geometry = some g ∧ y.lead = some lead ∧ g.length ≤ lead
          let recovered (ks : List NoticeKind) (cure : CureMonitor) : Prop :=
            u.cure = cure ∧
            (s.NoneWaits .post →
              Done s u q 5 .ok [] (.modeChanged .halt .idle :: ks) [.table, .engine, .cure] ∧ u.table = table ∧
                u.engine = engineOutOfHalt s l s.engine) ∧
            (∀ t r o, s.Waits .post t r → DiverterSends .post .idle s.holds.shelf True r.holds o → s.WayClear o →
              Done s u q 5 .ok [] (.modeChanged .halt .idle :: ks ++ sentNotices r t o)
                [.table, .engine, .cure, .holds, .clock] ∧
              Sent s u .post t r table (engineOutOfHalt s l s.engine) s.holds.shelf o ∧ WaySet s u .post o)
          ((∀ x y, ¬ stalls x y) →
            recovered [] { s.cure with output := if s.cure.stalled then 0 else s.cure.setpoint }) ∧
          (∀ x y, stalls x y →
            recovered [.ovenStall y.tag x.traveler] { s.cure with stalled := true, output := 0 }))) ∧
    (s.mode ≠ .halt → ∃ u, exec (.recover q) s = .next u ∧ Done s u q 5 .mode [] [] []) ∧
    (s.mode = .halt → s.io.estop = true → ∃ u, exec (.recover q) s = .next u ∧ Done s u q 5 .estop [] [] [])) ∧
  (∀ (s : State) (q : Req) (e : Transfer) (r : Traveler) (l : GantryLimits), s.Takes q 1 → s.mode = .halt →
    s.io.estop = false → s.table.transfers = [e] → s.traveler e.traveler = some r → s.engine.limits = some l →
    (s.cure.oven = [] ∨ s.cure.stalled = true) →
    let t := e.traveler
    let idle : NoticeKind := .modeChanged .halt .idle
    let table : TravelerTable := { s.table with mode := .idle, cause := none, detail := none, transfers := [] }
    let left : MaskUnit :=
      match e.source with
      | .preStation => { s.mask with pre := none }
      | .postStation => { s.mask with post := none }
      | _ => s.mask
    let cure : CureMonitor := { s.cure with output := if s.cure.stalled then 0 else s.cure.setpoint }
    let vacated : StrokeEngine := { s.engine with cell := .vacant, board := none, work := none }
    let dropped : List Nat := s.cure.overdue.filter fun k => k != t
    let freed : List ShelfSlot :=
      s.holds.shelf.map fun x => if x = .assigned t ∨ x = .resting t then .free else x
    let parts : List Part := [.table, .mask, .engine, .cure, .holds, .clock]
    let openAt (x : Nat) : Inspection :=
      { traveler := t, phase := .isOpen, opened := s.io.seconds,
        deadline := some (s.io.seconds + BitVec.ofNat 32 x) }
    let restPost : Prop := s.mask.post = none ∨ ∃ i, s.mask.post = some i ∧ i.phase = .isOpen
    (s.occupied e.dest.sensor = true → e.dest ≠ .outfeed →
      (restPost ∨ e.source = .postStation ∨ e.dest = .postStation) →
      ∃ u, exec (.recover q) s = .next u ∧
        Done s u q 5 .ok []
          ([.boardStage r.tag t r.stage e.dest.stage .present, idle] ++
            (match e.dest with
              | .preStation =>
                if r.route = .reCure then []
                else [.inspectReady .pre r.tag t r.recipe r.route s.io.timeouts.pre (s.recipeOf r).sites []]
              | .postStation =>
                [.inspectReady .post r.tag t r.recipe r.route s.io.timeouts.post [] (s.recipeOf r).windows]
              | _ => [])) parts ∧
        Rewritten s u t { r with stage := e.dest.stage, place := .present } table ∧
        u.mask = (match e.dest with
          | .preStation =>
            let passed : Inspection := { openAt 0 with phase := .ended .passed, deadline := none }
            { left with pre := some (if r.route = .reCure then passed else openAt s.io.timeouts.pre) }
          | .postStation => { left with post := some (openAt s.io.timeouts.post) }
          | _ => left) ∧
        u.engine = engineOutOfHalt s l (match e.dest with
          | .cell => { s.engine with cell := .ready, board := some t }
          | .flashBelt => vacated
          | _ => s.engine) ∧
        u.cure = (if e.dest = .flashBelt then { cure with flash := s.cure.flash ++ [t] } else cure) ∧
        u.holds = (match e.dest with
          | .shelf n => { s.holds with shelf := putNth s.holds.shelf n (.resting t) }
          | _ => s.holds) ∧
        OutputsBecome s u s.io.outputs) ∧
    (s.occupied e.dest.sensor = false → s.occupied e.source.sensor = true →
      let shelfBound : Prop := ∃ n, e.dest = .shelf n
      let back (slot : Option Nat) : Traveler :=
        { r with stage := e.source.stage, place := .present, shelfSlot := slot }
      let stage : NoticeKind := .boardStage r.tag t r.stage e.source.stage .present
      let returned (slot : Option Nat) (shelf : List ShelfSlot) : Prop :=
        (restPost → e.source ≠ .postStation → ∃ u, exec (.recover q) s = .next u ∧
          Done s u q 5 .ok [] [stage, idle] parts ∧
          Rewritten s u t (back slot)
            { table with queue := if e.source = .queue then t :: s.table.queue else s.table.queue } ∧
          u.mask = s.mask ∧ u.engine = engineOutOfHalt s l (if e.dest = .cell then vacated else s.engine) ∧
          u.cure = { cure with
            overdue := if e.dest = .flashBelt then dropped else s.cure.overdue,
            exit := if e.source = .accumulator then t :: s.cure.exit else s.cure.exit } ∧
          u.holds = { s.holds with shelf := shelf } ∧ OutputsBecome s u s.io.outputs) ∧
        (∀ i o, e.source = .postStation → e.dest ≠ .cell → e.dest ≠ .flashBelt → s.mask.post = some i →
          i.traveler = t → i.phase ≠ .isOpen → DiverterSends .post .idle shelf True r.holds o → s.WayClear o →
          ∃ u, exec (.recover q) s = .next u ∧
            Done s u q 5 .ok [] ([stage, idle] ++ sentNotices (back slot) t o) parts ∧
            Sent s u .post t (back slot) table (engineOutOfHalt s l s.engine) shelf o ∧
            u.mask = s.mask ∧ u.cure = cure ∧ OutputsBecome s u (sentOutputs .post s.io.outputs o))
      (shelfBound → returned none freed) ∧ (¬ shelfBound → returned r.shelfSlot s.holds.shelf)) ∧
    (∀ outcome, (s.occupied e.dest.sensor = true ∧ e.dest = .outfeed ∧ outcome = .departed) ∨
        (s.occupied e.dest.sensor = false ∧ s.occupied e.source.sensor = false ∧ outcome = .lost) →
      (restPost ∨ ∃ i, s.mask.post = some i ∧ i.traveler = t) →
      t ∉ s.cure.flash → t ∉ s.cure.exit → (∀ x ∈ s.cure.oven, x.traveler ≠ t) →
      ∃ u, exec (.recover q) s = .next u ∧
        Done s u q 5 .ok [] [.boardRetired r.tag t outcome, idle] (.recipes :: parts) ∧
        Retired s u t r { s.table with mode := .idle, cause := none, detail := none } ∧
        u.engine = engineOutOfHalt s l (if s.engine.board = some t then vacated else s.engine) ∧
        u.cure = { cure with overdue := dropped } ∧
        u.holds = { s.holds with shelf := freed } ∧
        OutputsBecome s u s.io.outputs))

/-- CLEAR_LINE (R20, R98, R123, R136): in IDLE and in HALT the line's boards are gone, every gate and diverter is at
rest, the end stop is raised, the stall over, and every overdue and over-cure mark dropped; the setpoint is kept,
and the output carries it outside HALT. Everything that describes the line is kept: recipes, profiles, lots, gantry
port, geometry, zones, release levels, sensors, E-stop. LINE_CLEARED is posted. In RUN and DRAIN it is refused MODE. -/
def Obligations.ClearLineEmptiesLine : Prop :=
  ∀ (s : State) (q : Req), s.Takes q 0 →
    ((s.mode = .idle ∨ s.mode = .halt) → ∃ u, exec (.clearLine q) s = .next u ∧
      Done s u q 6 .ok [] [.lineCleared] [.table, .recipes, .mask, .engine, .cure, .holds, .clock] ∧
      (∀ t, u.traveler t = none) ∧
      u.table = { s.table with records := u.table.records, free := List.range' 1 48, index := [], queue := [],
                               transfers := [] } ∧
      u.recipes = { s.recipes with slots := s.recipes.slots.map fun x => { x with useCount := 0 } } ∧
      u.mask.pre = none ∧ u.mask.post = none ∧
      u.engine = { s.engine with cell := .vacant, board := none, work := none } ∧
      u.cure = { s.cure with
        flash := [], overdue := [], stopUp := true, oven := [], rangeLow := 10, rangeHigh := 2000, exit := [],
        stalled := false, overCured := [], output := if s.mode = .halt then 0 else s.cure.setpoint } ∧
      u.holds = { s.holds with shelf := s.holds.shelf.map fun _ => .free } ∧
      u.io = { s.io with outputs :=
        { infeedGate := false, cellGate := false, accumulatorGate := false, preDiverter := .rest,
          exitDiverter := .rest, slotSelect := 0, green := u.io.outputs.green, amber := u.io.outputs.amber,
          red := u.io.outputs.red } }) ∧
    ((s.mode = .run ∨ s.mode = .drain) → ∃ u, exec (.clearLine q) s = .next u ∧ Done s u q 6 .mode [] [] [])

/-- The readings GET_LINE, GET_LOT, GET_OVEN and PEEK answer OK with the fields of R21, R53, R122 and R173, in the order
the rule names them, and change nothing but the answer list. (The codes of the marks and places, the presence bytes
of the marks vacant, none and free, and the lists without a count are the model's choice, log 12.) GET_TRAVELER and
LIST_TRAVELERS (R2, R21, R22): a live tag is answered with its record, a well-formed tag of no live traveler
NOT_FOUND, a malformed one INVALID; a list holds up to 12 live travelers of the stage from the number on, in
ascending number, and the number of the next where more follow; nothing changes. (That number as an optional field,
absent for the mark end, is the model's choice, log 12.) GET_RECIPE and GET_RECIPE_PROFILE (R38): every answer
carries the slot's state, use count and list lengths, with HEADER the header and with WINDOWS, SITES and STROKES up
to 8 numbered records from the one asked for and the number to go on from where more follow; a profile's answer
carries its state, its fields if it is loaded, and the in-use mark; nothing changes. A part word that is none of the
five, and a from of 0, are answered INVALID. (That number as an optional field, absent for the mark end, a record's
number before its fields, and the weights without a count are the model's choice, log 12.) -/
def Obligations.ReadingsAnswerAndChangeNothing : Prop :=
  (∀ (s : State) (q : Req), s.Takes q 3 →
    let x := s.link q.link
    let tag (t : Nat) : List Field := [.text (s.tagOf t)]
    (∃ u, exec (.getLine q) s = .next u ∧
      Done s u q 7 .ok
        ([.word s.mode.code] ++ optional (fun c => [.word (HaltCause.code c)]) s.table.cause ++
          optional HaltDetail.fields s.table.detail ++ [u1 s.travelers.length, u1 s.table.free.length] ++
          listOf tag s.table.queue ++ [u1 s.occupancy] ++ optional tag (s.presentIn .preInspect) ++
          optional tag (s.presentIn .spray) ++ optional tag (s.presentIn .postInspect) ++
          listOf (fun e => tag e.traveler ++ [.word e.source.code, .word e.dest.code]) s.table.transfers ++
          s.holds.shelf.flatMap (fun
            | .free => [.word 0, .presence false]
            | .assigned t => [.word 1, .presence true] ++ tag t
            | .resting t => [.word 2, .presence true] ++ tag t) ++
          [u1 s.freeSlots, .word (if s.io.estop then 0 else 1)]) [] []) ∧
    (∃ u, exec (.getLot q) s = .next u ∧
      Done s u q 22 .ok
        ([u1 s.lots.heads.length] ++
          (s.lots.heads.zip s.lots.map).flatMap (fun h => .word (if h.1.isSome then 1 else 0) ::
            ((h.1.map headFields).getD [] ++ optional (fun n => [u1 n]) h.2)) ++
          (s.lots.records.zipIdx 1).flatMap (fun r => optional (lotRecordFields s.io.seconds r.2) r.1) ++
          listOf (fun n => [u1 n]) s.lots.unmount) [] []) ∧
    (∃ u, exec (.getOven q) s = .next u ∧
      Done s u q 32 .ok
        (optional geometryFields s.cure.geometry ++
          [u2 s.cure.setpoint, u2 s.cure.output, u2 s.cure.rangeLow, u2 s.cure.rangeHigh,
            .word (if s.cure.stalled then 0 else 1), .word (if s.cure.stopUp then 0 else 1)] ++
          listOf s.flashEntry s.cure.flash ++ [u1 s.flashCount] ++ listOf s.ovenEntry s.cure.oven ++
          listOf tag s.cure.exit ++ s.cure.zones.flatMap zoneFields) [] []) ∧
    (∃ u, exec (.peek q) s = .next u ∧
      Done s u q 39 .ok
        (u1 x.queue.length :: optional (fun c => [.word (NoticeClass.code c)]) (highestClass x.queue) ++
          [.word (if x.overrun then 1 else 0), u1 x.trigger] ++ listOf (fun c => [.word (NoticeClass.code c)]) x.subs)
        [] [])) ∧
  (∀ (s : State) (q : Req) (tag : Text) (stage first : Nat), s.Takes q 3 →
    (∀ t r, tagForm tag = true → s.tagged tag = some (t, r) →
      ∃ u, exec (.getTraveler q tag) s = .next u ∧ Done s u q 8 .ok (travelerFields t r) [] []) ∧
    (tagForm tag = true → s.tagged tag = none →
      ∃ u, exec (.getTraveler q tag) s = .next u ∧ Done s u q 8 .notFound [] [] []) ∧
    (tagForm tag = false → ∃ u, exec (.getTraveler q tag) s = .next u ∧ Done s u q 8 .invalid [] [] []) ∧
    (stage ≤ 8 → 1 ≤ first → first ≤ 48 →
      ∃ (u : State) (all : List (Nat × Traveler)), exec (.listTravelers q stage first) s = .next u ∧
        Done s u q 9 .ok (listOf (fun x => [u1 x.1, .text x.2.tag, .word x.2.place.code]) (all.take 12) ++
          optional (fun x => [u1 x.1]) (all[12]?)) [] [] ∧
        (∀ t r, (t, r) ∈ all ↔
          s.traveler t = some r ∧ first ≤ t ∧ (stage = 8 ∨ r.stage.code = stage)) ∧
        all.Pairwise (fun x y => x.1 < y.1)) ∧
    ((8 < stage ∨ first = 0 ∨ 48 < first) →
      ∃ u, exec (.listTravelers q stage first) s = .next u ∧ Done s u q 9 .invalid [] [] [])) ∧
  (∀ (s : State) (q : Req) (slot part first : Nat), s.Takes q 3 →
    let next (n : Nat) : List Field := optional (fun n => [u1 n]) (if first + 8 ≤ n then some (first + 8) else none)
    (∀ x, nth s.recipes.slots slot = some x → 1 ≤ first → part ≤ 3 →
      ∃ u rest, exec (.getRecipe q slot part first) s = .next u ∧
        Done s u q 16 .ok ([.word x.state.code, u1 x.useCount, u1 x.windows.length, u1 x.sites.length,
          u1 x.strokes.length] ++ rest) [] [] ∧
        (part = 0 → rest = optional headerFields x.header) ∧
        (part = 1 → rest = numbered windowFields first ((x.windows.drop (first - 1)).take 8) ++ next x.windows.length) ∧
        (part = 2 → rest = numbered siteFields first ((x.sites.drop (first - 1)).take 8) ++ next x.sites.length) ∧
        (part = 3 → rest = numbered strokeFields first ((x.strokes.drop (first - 1)).take 8) ++ next x.strokes.length)) ∧
    (∀ p, nth s.recipes.profiles slot = some p →
      ∃ u, exec (.getRecipeProfile q slot first) s = .next u ∧
        Done s u q 16 .ok (.word (if p.isSome then 0 else 1) :: optional profileFields p ++
          [.word (if s.profileInUse slot then 1 else 0)]) [] []) ∧
    ((4 < part ∨ first = 0) →
      ∃ u, exec (.getRecipe q slot part first) s = .next u ∧ Done s u q 16 .invalid [] [] []))

/-- GET_CONFIG (R168): in every line mode and at every level it is answered OK with the head and zone counts, the three
strapped levels, the six timeouts and limits, the gantry limits or the mark unset, the gantry port state, the
reference point or the mark unknown, the last fault code or absent, the oven geometry mark, the fourteen release
levels in the order of the reason table, and the effective level of the request itself; nothing changes. (The
presence bytes of the marks unset and unknown and the codes of the marks are the model's choice, log 12.) -/
def Obligations.GetConfigReportsAll : Prop :=
  ∀ (s : State) (q : Req), s.Takes q 3 →
    ∃ u, exec (.getConfig q) s = .next u ∧
      Done s u q 42 .ok
        ([u1 s.io.straps.heads, u1 s.io.straps.zones, u1 s.io.straps.levelA, u1 s.io.straps.levelB,
            u1 s.io.straps.levelC] ++
          timeoutFields s.io.timeouts ++ optional gantryFields s.engine.limits ++
          [.word (match s.engine.port with | .quiet => 0 | .waiting _ => 1 | .lost => 2)] ++
          optional pointFields s.engine.reference ++ optional (fun n => [u1 n]) s.engine.lastFault ++
          [.word (if s.cure.geometry.isSome then 0 else 1)] ++ s.holds.levels.map u1 ++
          [u1 (max (s.strapped q.link) q.level)]) [] []

/-- QUEUE_RELEASE (R6, R15, R16): in RUN the PRESENT head of the infeed queue starts for the vacant pre-inspection
station: its entry with a running timer, the infeed gate open, the board out of the list and ARRIVING in PRE_INSPECT
with BOARD_STAGE posted. In any other mode, with an empty queue, or with a board at the station, nothing happens.
FLASH_TRANSFER_START (R94): a DONE board PRESENT in the cell, outside HALT and with the flash count below 4, starts
for the flash belt: its entry with a running timer, the cell gate open, the board ARRIVING in FLASH. Every traveler
in FLASH is then examined for its flash maximum (R111), the board that starts among them, its mark clear: each one
that has reached its own maximum is marked overdue and FLASH_OVERDUE raised on it, a new record opening, a RELEASED
one opening again and an OPEN one counting (R149); the others stay as they are. In HALT, with the flash count at 4,
or with the cell not DONE, nothing happens. (The order, by traveler number after BOARD_STAGE, is the model's choice,
log 25; the flash time is the difference on the wrapping count, the model's reading, log 4.) (The hold sets of the
marked boards stand in reason order, R148, and none is on its way to the outfeed, R150.) EXIT_TRANSFER_START (R133):
outside HALT the PRESENT head of the exit list starts for the vacant post-inspection station: its entry with a
running timer, the accumulator gate open, the board out of the exit list and ARRIVING in POST_INSPECT. In HALT, with
an empty exit list, or with the station not vacant, nothing happens. -/
def Obligations.IndexingTransfersStart : Prop :=
  (∀ (s : State),
    (∀ t rest r, s.mode = .run → s.table.queue = t :: rest → t ∉ rest → s.traveler t = some r →
      r.place = .present → s.vacant .preStation = true → s.named .queue = false →
      (∀ e ∈ s.table.transfers, e.traveler ≠ t) → s.occupied .preArrival = false →
      ∃ u, exec .queueRelease s = .next u ∧
        Happened s u [.boardStage r.tag t r.stage .preInspect .arriving] [.table, .clock] ∧
        Rewritten s u t { r with stage := .preInspect, place := .arriving }
          { s.table with queue := rest, transfers := s.table.transfers ++ [entryFor s t .queue .preStation] } ∧
        OutputsBecome s u { s.io.outputs with infeedGate := true }) ∧
    ((s.mode ≠ .run ∨ s.table.queue = [] ∨ s.vacant .preStation = false) →
      ∃ u, exec .queueRelease s = .next u ∧ Happened s u [] [])) ∧
  (∀ (s : State) (t : Nat) (r : Traveler) (late : List Nat),
    let due (y : Traveler) : Prop := y.route ≠ .reCure ∧ ∃ h e, (s.recipeOf y).header = some h ∧
      y.sprayEnd = some e ∧ h.flashMax ≤ (s.io.seconds - e).toNat
    let time (y : Traveler) : Nat := ((y.sprayEnd.map fun e => (s.io.seconds - e).toNat)).getD 0
    let hold (y : Traveler) : Hold := newHold s s.io.seconds .flashOverdue .cureMonitor .flash (.flashTime (time y))
    let moved : Traveler := { r with stage := .flash, place := .arriving }
    let before (k : Nat) : Option Traveler := if k = t then some moved else s.traveler k
    let notices (k : Nat) : List NoticeKind :=
      match before k with
      | none => []
      | some y => raiseNotices y.tag k y.holds [hold y]
    (s.engine.cell = .done → s.engine.board = some t → s.traveler t = some r → r.stage = .spray →
      r.place = .present → (∀ e ∈ s.table.transfers, e.source ≠ .cell ∧ e.dest ≠ .cell ∧ e.traveler ≠ t) →
      s.mode ≠ .halt → s.flashCount < 4 → s.occupied .flashEntry = false →
      late.Pairwise (fun a b => a < b) →
      (∀ k, k ∈ late ↔ 1 ≤ k ∧ k ≤ 48 ∧ ∃ y, before k = some y ∧ y.stage = .flash ∧
        (k = t ∨ k ∉ s.cure.overdue) ∧ due y) →
      (∀ k ∈ late, ∀ y, before k = some y → HoldsInOrder y.holds ∧ s.leaving k = false) →
      ∃ u, exec .flashTransferStart s = .next u ∧
        Happened s u ([.boardStage r.tag t .spray .flash .arriving] ++ late.flatMap notices)
          [.table, .cure, .clock] ∧
        u.table = { s.table with
          records := u.table.records, transfers := s.table.transfers ++ [entryFor s t .cell .flashBelt] } ∧
        u.cure = { s.cure with overdue := s.cure.overdue.filter (fun k => k != t) ++ late } ∧
        OutputsBecome s u { s.io.outputs with cellGate := true } ∧
        ∀ k, u.traveler k = (before k).map fun y =>
          if k ∈ late then { y with holds := holdsAfterRaise y.holds (hold y) } else y) ∧
    ((s.mode = .halt ∨ 4 ≤ s.flashCount ∨ s.engine.cell ≠ .done) →
      ∃ u, exec .flashTransferStart s = .next u ∧ Happened s u [] [])) ∧
  (∀ (s : State),
    (∀ t rest r, s.mode ≠ .halt → s.cure.exit = t :: rest → t ∉ rest → s.traveler t = some r → r.place = .present →
      s.vacant .postStation = true → s.named .accumulator = false → (∀ e ∈ s.table.transfers, e.traveler ≠ t) →
      s.occupied .postArrival = false →
      ∃ u, exec .exitTransferStart s = .next u ∧
        Happened s u [.boardStage r.tag t r.stage .postInspect .arriving] [.table, .cure, .clock] ∧
        Rewritten s u t { r with stage := .postInspect, place := .arriving }
          { s.table with transfers := s.table.transfers ++ [entryFor s t .accumulator .postStation] } ∧
        u.cure = { s.cure with exit := rest } ∧
        OutputsBecome s u { s.io.outputs with accumulatorGate := true }) ∧
    ((s.mode = .halt ∨ s.cure.exit = [] ∨ s.vacant .postStation = false) →
      ∃ u, exec .exitTransferStart s = .next u ∧ Happened s u [] []))

/-- TRANSFER_END (R17): outside HALT a transfer whose destination sensor reads occupied ends: its entry is removed, its
gate or diverter closed, the record of the inspection station it came from removed (R75, R144), and the board is
PRESENT at its destination with BOARD_STAGE posted and received there: the cell READY (R77), the slot resting
(R155), the flash list longer and the cell VACANT (R110), an inspection opened with INSPECT_READY (R56, R137). A
RE_CURE board at the pre-inspection station is ENDED with cause PASSED and no notice, and the pre diverter decides
for it at once (R57); so it does for a board that waits there when the cell becomes VACANT (R74). At the outfeed the
board is retired DEPARTED, and its record at the station goes with it (R144). In HALT, or with the sensor vacant,
nothing happens (R11). (The pre diverter sends a board on with the destination sensor vacant, so that its transfer
does not end at once, R16, and where no other transfer names the station, R15.) -/
def Obligations.TransferEndsAtSensor : Prop :=
  ∀ (s : State) (t : Nat) (e : Transfer) (r : Traveler), s.transferOf t = some e → s.traveler t = some r →
    ((s.mode = .halt ∨ s.occupied e.dest.sensor = false) →
      ∃ u, exec (.transferEnd t) s = .next u ∧ Happened s u [] []) ∧
    (s.mode ≠ .halt → s.occupied e.dest.sensor = true →
      let list : List Transfer := s.table.transfers.filter fun x => x.traveler != t
      let left : MaskUnit :=
        match e.source with
        | .preStation => { s.mask with pre := none }
        | .postStation => { s.mask with post := none }
        | _ => s.mask
      let openAt (x : Nat) : Inspection :=
        { traveler := t, phase := .isOpen, opened := s.io.seconds,
          deadline := some (s.io.seconds + BitVec.ofNat 32 x) }
      let here : Traveler := { r with stage := e.dest.stage, place := .present }
      let moved : NoticeKind := .boardStage r.tag t r.stage e.dest.stage .present
      let ways : Outputs := closeWay e.source s.io.outputs
      let parts : List Part := [.table, .mask, .engine, .cure, .holds, .clock]
      let arrived (ks : List NoticeKind) (mask : MaskUnit) (engine : StrokeEngine) (cure : CureMonitor)
          (shelf : List ShelfSlot) : Prop :=
        ∃ u, exec (.transferEnd t) s = .next u ∧ Happened s u (moved :: ks) parts ∧
          Rewritten s u t here { s.table with transfers := list } ∧ u.mask = mask ∧ u.engine = engine ∧
          u.cure = cure ∧ u.holds = { s.holds with shelf := shelf } ∧ OutputsBecome s u ways
      let vacated : StrokeEngine := { s.engine with cell := .vacant, board := none, work := none }
      let flashed : CureMonitor := { s.cure with flash := s.cure.flash ++ [t] }
      let cellVacant : Prop :=
        (∀ n y, n ≠ t → s.traveler n = some y → y.stage = .spray → y.place ≠ .present) ∧
          ∀ x ∈ list, x.source ≠ .cell ∧ x.dest ≠ .cell
      (e.dest = .cell →
        arrived [] left { s.engine with cell := .ready, board := some t } s.cure s.holds.shelf) ∧
      (∀ n, e.dest = .shelf n → arrived [] left s.engine s.cure (putNth s.holds.shelf n (.resting t))) ∧
      (e.dest = .postStation →
        arrived [.inspectReady .post r.tag t r.recipe r.route s.io.timeouts.post [] (s.recipeOf r).windows]
          { left with post := some (openAt s.io.timeouts.post) }
          s.engine s.cure s.holds.shelf) ∧
      (e.dest = .preStation → r.route ≠ .reCure →
        arrived [.inspectReady .pre r.tag t r.recipe r.route s.io.timeouts.pre (s.recipeOf r).sites []]
          { left with pre := some (openAt s.io.timeouts.pre) }
          s.engine s.cure s.holds.shelf) ∧
      (e.dest = .preStation → r.route = .reCure →
        (∀ x ∈ list, x.source ≠ .preStation ∧ x.dest ≠ .preStation) →
        ∀ o, DiverterSends .pre s.mode s.holds.shelf cellVacant r.holds o → s.WayClear o →
        ∃ u, exec (.transferEnd t) s = .next u ∧ Happened s u (moved :: sentNotices here t o) parts ∧
          Sent s u .pre t here { s.table with transfers := list } s.engine s.holds.shelf o ∧
          u.mask = { left with pre := some { openAt 0 with phase := .ended .passed, deadline := none } } ∧
          u.cure = s.cure ∧ OutputsBecome s u (sentOutputs .pre ways o)) ∧
      (e.dest = .flashBelt → e.source = .cell →
        (s.mode = .idle ∨ s.mask.pre = none ∨ (∃ i, s.mask.pre = some i ∧ i.phase = .isOpen) ∨
          ∃ x ∈ list, x.source = .preStation ∨ x.dest = .preStation) →
        arrived [] s.mask vacated flashed s.holds.shelf) ∧
      (e.dest = .flashBelt → e.source = .cell → ∀ k y o, k ≠ t → s.Waits .pre k y →
        DiverterSends .pre s.mode s.holds.shelf cellVacant y.holds o → s.WayClear o →
        ∃ u, exec (.transferEnd t) s = .next u ∧ Happened s u (moved :: sentNotices y k o) parts ∧
          u.traveler t = some here ∧ u.traveler k = some (sentRecord y o) ∧
          (∀ n, n ≠ t → n ≠ k → u.traveler n = s.traveler n) ∧
          u.table = { s.table with
            records := u.table.records, transfers := list ++ (o.map (entryFor s k .preStation)).toList } ∧
          u.mask = s.mask ∧ u.engine = sentEngine vacated k o ∧ u.cure = flashed ∧
          u.holds = { s.holds with shelf := sentShelf s.holds.shelf k o } ∧
          OutputsBecome s u (sentOutputs .pre ways o)) ∧
      (e.dest = .outfeed → ∃ u, exec (.transferEnd t) s = .next u ∧
        Happened s u [.boardRetired r.tag t .departed] (.recipes :: parts) ∧ Retired s u t r s.table ∧
        (s.engine.board ≠ some t → u.engine = s.engine) ∧
        (t ∉ s.cure.flash → t ∉ s.cure.overdue → t ∉ s.cure.exit → (∀ x ∈ s.cure.oven, x.traveler ≠ t) →
          u.cure = s.cure) ∧
        u.holds.levels = s.holds.levels ∧
        (ShelfSlot.assigned t ∉ s.holds.shelf → ShelfSlot.resting t ∉ s.holds.shelf → u.holds = s.holds) ∧
        OutputsBecome s u ways))

/-! ### Recipes and profiles (chapter 2) -/

/-- OPEN_RECIPE (R26): with every field in its range, a slot that is not LOADING and has use count 0 becomes LOADING
with the header of the request and empty lists, and nothing else changes; a field out of its range is answered
INVALID with the first such field, LOADING is refused STAGE and a slot in use IN_USE, in this order. (That the field
is named by its position is the model's choice, log 11.) FINISH_RECIPE (R31 to R36): a LOADING slot whose windows,
sites and strokes pass every check becomes READY with its lists as loaded, and the three counts are answered. An
empty window list empties the slot and is answered INVALID with HEADER, 0, NO_WINDOWS, an empty stroke list with
HEADER, 0, NO_STROKES. A slot outside 1 to 8 is answered INVALID with no item, a slot that is not LOADING STAGE, and
nothing changes. (The table has 8 slots.) FINISH_RECIPE answered INVALID (R31 to R36): the checks run in the fixed
order of R32, windows, sites, strokes, and the answer names the list, the position of the first failing record and
its cause: OUTSIDE_BOARD and NO_SITE of a window, OUTSIDE_BOARD of a site, and HEAD_ABSENT, NO_WINDOW,
TRANSIT_SPRAY, HEIGHT_RANGE, ZERO_LENGTH and OUTSIDE_WINDOW of a stroke; the slot is emptied. -/
def Obligations.RecipeOpensAndValidates : Prop :=
  (∀ (s : State) (q : Req) (slot : Nat) (h : Header), s.Takes q 0 →
    (∀ k, firstAtFault (headerChecks slot h) = some k →
      ∃ u, exec (.openRecipe q slot h) s = .next u ∧ Done s u q 10 .invalid [.word k] [] []) ∧
    ∀ x, firstAtFault (headerChecks slot h) = none → nth s.recipes.slots slot = some x →
    (x.state ≠ .loading → x.useCount = 0 → ∃ u, exec (.openRecipe q slot h) s = .next u ∧
      Done s u q 10 .ok [] [] [.recipes] ∧
      SlotBecomes s u slot
        { state := .loading, header := some h, windows := [], sites := [], strokes := [], useCount := 0 }) ∧
    (x.state = .loading → ∃ u, exec (.openRecipe q slot h) s = .next u ∧ Done s u q 10 .stage [] [] []) ∧
    (x.state ≠ .loading → x.useCount ≠ 0 →
      ∃ u, exec (.openRecipe q slot h) s = .next u ∧ Done s u q 10 .inUse [] [] [])) ∧
  (∀ (s : State) (q : Req) (slot : Nat), s.Takes q 0 → s.recipes.slots.length = 8 →
    ((slot = 0 ∨ 8 < slot) →
      ∃ u, exec (.finishRecipe q slot) s = .next u ∧ Done s u q 14 .invalid [] [] []) ∧
    (∀ x, nth s.recipes.slots slot = some x → x.state ≠ .loading →
      ∃ u, exec (.finishRecipe q slot) s = .next u ∧ Done s u q 14 .stage [] [] []) ∧
    ∀ (x : RecipeSlot) (h : Header), nth s.recipes.slots slot = some x → x.state = .loading → x.header = some h →
    (x.windows ≠ [] → x.strokes ≠ [] →
      (∀ w ∈ x.windows, 0 ≤ w.x0 ∧ w.x1 ≤ h.length ∧ 0 ≤ w.y0 ∧ w.y1 ≤ h.width ∧ w.mask ≤ x.sites.length) →
      (∀ y ∈ x.sites, 0 ≤ y.x ∧ y.x ≤ h.length ∧ 0 ≤ y.y ∧ y.y ≤ h.width) →
      (∀ k ∈ x.strokes, k.head ≤ s.lots.heads.length ∧ k.window ≤ x.windows.length ∧
        (k.window = 0 → k.valveOn = false) ∧ (k.startX ≠ k.endX ∨ k.startY ≠ k.endY) ∧
        (∀ c, nth s.lots.heads k.head = some (some c) → c.zMin ≤ k.height ∧ k.height ≤ c.zMax) ∧
        ∀ w, nth x.windows k.window = some w → ∀ n : Nat, n < k.passes →
          w.x0 ≤ k.startX + n * k.stepX ∧ k.startX + n * k.stepX ≤ w.x1 ∧
          w.y0 ≤ k.startY + n * k.stepY ∧ k.startY + n * k.stepY ≤ w.y1 ∧
          w.x0 ≤ k.endX + n * k.stepX ∧ k.endX + n * k.stepX ≤ w.x1 ∧
          w.y0 ≤ k.endY + n * k.stepY ∧ k.endY + n * k.stepY ≤ w.y1) →
      ∃ u, exec (.finishRecipe q slot) s = .next u ∧
        Done s u q 14 .ok [u1 x.windows.length, u1 x.sites.length, u1 x.strokes.length] [] [.recipes] ∧
        SlotBecomes s u slot { x with state := .ready }) ∧
    (x.windows = [] → ∃ u, exec (.finishRecipe q slot) s = .next u ∧
      Done s u q 14 .invalid [.word 0, u1 0, .word 0] [] [.recipes] ∧
      SlotBecomes s u slot
        { state := .empty, header := none, windows := [], sites := [], strokes := [], useCount := x.useCount }) ∧
    (x.windows ≠ [] → x.strokes = [] → ∃ u, exec (.finishRecipe q slot) s = .next u ∧
      Done s u q 14 .invalid [.word 0, u1 0, .word 1] [] [.recipes] ∧
      SlotBecomes s u slot
        { state := .empty, header := none, windows := [], sites := [], strokes := [], useCount := x.useCount })) ∧
  (∀ (s : State) (q : Req) (slot : Nat) (x : RecipeSlot) (h : Header), s.Takes q 0 →
    nth s.recipes.slots slot = some x → x.state = .loading → x.header = some h → x.windows ≠ [] → x.strokes ≠ [] →
    let fails (list index cause : Nat) : Prop :=
      ∃ u, exec (.finishRecipe q slot) s = .next u ∧
        Done s u q 14 .invalid [.word list, u1 index, .word cause] [] [.recipes] ∧
        SlotBecomes s u slot
          { state := .empty, header := none, windows := [], sites := [], strokes := [], useCount := x.useCount }
    let onBoard (w : Window) : Prop := 0 ≤ w.x0 ∧ w.x1 ≤ h.length ∧ 0 ≤ w.y0 ∧ w.y1 ≤ h.width
    let onSite (y : MaskSite) : Prop := 0 ≤ y.x ∧ y.x ≤ h.length ∧ 0 ≤ y.y ∧ y.y ≤ h.width
    let inside (w : Window) (a b : Int) : Prop := w.x0 ≤ a ∧ a ≤ w.x1 ∧ w.y0 ≤ b ∧ b ≤ w.y1
    let present (k : Stroke) : Prop := k.head ≤ s.lots.heads.length
    let windowed (k : Stroke) : Prop := k.window ≤ x.windows.length
    let transit (k : Stroke) : Prop := k.window = 0 → k.valveOn = false
    let reaches (k : Stroke) : Prop :=
      ∀ c, nth s.lots.heads k.head = some (some c) → c.zMin ≤ k.height ∧ k.height ≤ c.zMax
    let long (k : Stroke) : Prop := k.startX ≠ k.endX ∨ k.startY ≠ k.endY
    let contained (k : Stroke) : Prop :=
      ∀ w, nth x.windows k.window = some w → ∀ n : Nat, n < k.passes →
        inside w (k.startX + n * k.stepX) (k.startY + n * k.stepY) ∧
        inside w (k.endX + n * k.stepX) (k.endY + n * k.stepY)
    (∀ before w after, x.windows = before ++ w :: after →
      (∀ v ∈ before, onBoard v ∧ v.mask ≤ x.sites.length) →
      (¬ onBoard w → fails 1 (before.length + 1) 2) ∧
      (onBoard w → x.sites.length < w.mask → fails 1 (before.length + 1) 3)) ∧
    ((∀ v ∈ x.windows, onBoard v ∧ v.mask ≤ x.sites.length) →
      (∀ before y after, x.sites = before ++ y :: after → (∀ v ∈ before, onSite v) → ¬ onSite y →
        fails 2 (before.length + 1) 2) ∧
      ((∀ v ∈ x.sites, onSite v) →
        ∀ before k after, x.strokes = before ++ k :: after →
          (∀ v ∈ before, present v ∧ windowed v ∧ transit v ∧ reaches v ∧ long v ∧ contained v) →
          (¬ present k → fails 3 (before.length + 1) 4) ∧
          (present k → ¬ windowed k → fails 3 (before.length + 1) 5) ∧
          (present k → windowed k → ¬ transit k → fails 3 (before.length + 1) 6) ∧
          (present k → windowed k → transit k → ¬ reaches k → fails 3 (before.length + 1) 7) ∧
          (present k → windowed k → transit k → reaches k → ¬ long k → fails 3 (before.length + 1) 8) ∧
          (present k → windowed k → transit k → reaches k → long k → ¬ contained k →
            fails 3 (before.length + 1) 9))))

/-- PUT_WINDOWS, PUT_SITES and PUT_STROKES (R27 to R30): 1 to 8 well-formed records that the list of a LOADING slot has
room for are appended in their order, and OK is answered with the list's new length; nothing else changes. A
PutWindows, PutSites or PutStrokes that is not taken, judged in the order of R27: a slot outside 1 to 8, or a count
of records outside 1 to 8, is answered INVALID; a slot that is not LOADING is refused STAGE; a record that is not
well formed (R28 to R30) is answered INVALID with the position of the first such record; a list without room, FULL;
and no record is appended. -/
def Obligations.PutRecordsAppendOrRefuse : Prop :=
  (∀ (s : State) (q : Req) (slot : Nat) (x : RecipeSlot), s.Takes q 0 → 1 ≤ slot → slot ≤ 8 →
    nth s.recipes.slots slot = some x → x.state = .loading →
    let holds (u : State) (code : Nat) (y : RecipeSlot) (n : Nat) : Prop :=
      Done s u q code .ok [u1 n] [] [.recipes] ∧ SlotBecomes s u slot y
    (∀ l : List Window, 1 ≤ l.length → l.length ≤ 8 → (∀ w ∈ l, Window.form w = true) →
      x.windows.length + l.length ≤ 16 →
      ∃ u, exec (.putWindows q slot l) s = .next u ∧
        holds u 11 { x with windows := x.windows ++ l } (x.windows.length + l.length)) ∧
    (∀ (l : List SiteFields) (m : List MaskSite), 1 ≤ l.length → l.length ≤ 8 → l.map SiteFields.read = m.map some →
      x.sites.length + l.length ≤ 12 →
      ∃ u, exec (.putSites q slot l) s = .next u ∧
        holds u 12 { x with sites := x.sites ++ m } (x.sites.length + l.length)) ∧
    (∀ (l : List StrokeFields) (m : List Stroke), 1 ≤ l.length → l.length ≤ 8 →
      l.map StrokeFields.read = m.map some → x.strokes.length + l.length ≤ 96 →
      ∃ u, exec (.putStrokes q slot l) s = .next u ∧
        holds u 13 { x with strokes := x.strokes ++ m } (x.strokes.length + l.length))) ∧
  (∀ (s : State) (q : Req) (slot : Nat) (windows : List Window) (sites : List SiteFields) (strokes : List StrokeFields),
    s.Takes q 0 →
    let fails (i : Instr) (code : Nat) (w : Status) (fields : List Field) : Prop :=
      ∃ u, exec i s = .next u ∧ Done s u q code w fields [] []
    let inOrder (i : Instr) (code count room : Nat) (filled : RecipeSlot → Nat) (formed : Nat → Bool) : Prop :=
      ((slot = 0 ∨ 8 < slot ∨ count = 0 ∨ 8 < count) → fails i code .invalid []) ∧
      (∀ x, 1 ≤ slot → slot ≤ 8 → 1 ≤ count → count ≤ 8 → nth s.recipes.slots slot = some x →
        (x.state ≠ .loading → fails i code .stage []) ∧
        (∀ n, x.state = .loading → n < count → (∀ m, m < n → formed m = true) → formed n = false →
          fails i code .invalid [u1 (n + 1 : Nat)]) ∧
        (x.state = .loading → (∀ n, n < count → formed n = true) → room < filled x + count → fails i code .full []))
    inOrder (.putWindows q slot windows) 11 windows.length 16 (·.windows.length)
        (fun n => windows[n]?.any Window.form) ∧
      inOrder (.putSites q slot sites) 12 sites.length 12 (·.sites.length)
        (fun n => sites[n]?.any fun y => (SiteFields.read y).isSome) ∧
      inOrder (.putStrokes q slot strokes) 13 strokes.length 96 (·.strokes.length)
        (fun n => strokes[n]?.any fun y => (StrokeFields.read y).isSome))

/-- DROP_RECIPE (R37): a slot number outside 1 to 8 is answered INVALID, a slot in use IN_USE with its recipe kept;
otherwise the slot is EMPTY with no header and empty lists. (The table has 8 slots.) -/
def Obligations.DropRecipeEmptiesSlot : Prop :=
  ∀ (s : State) (q : Req) (slot : Nat), s.recipes.slots.length = 8 →
    (s.Takes q 3 → 0 < max (s.strapped q.link) q.level →
      ∃ u, exec (.dropRecipe q slot) s = .next u ∧ Done s u q 15 .level [u1 0] [] []) ∧
    (s.Takes q 0 → (slot = 0 ∨ 8 < slot) → ∃ u, exec (.dropRecipe q slot) s = .next u ∧ Done s u q 15 .invalid [] [] []) ∧
    (∀ x, s.Takes q 0 → nth s.recipes.slots slot = some x →
      (x.useCount ≠ 0 → ∃ u, exec (.dropRecipe q slot) s = .next u ∧ Done s u q 15 .inUse [] [] []) ∧
      (x.useCount = 0 → ∃ u, exec (.dropRecipe q slot) s = .next u ∧ Done s u q 15 .ok [] [] [.recipes] ∧
        SlotBecomes s u slot
          { state := .empty, header := none, windows := [], sites := [], strokes := [], useCount := 0 } ∧
        (∀ (p : Req) (tag : Text), u.Takes p 1 → u.mode ≠ .drain → tagForm tag = true → u.tagged tag = none →
          ∃ v, exec (.induct p tag slot) u = .next v ∧ Done u v p 1 .notReady [] [] []) ∧
        (∀ (p : Req) (h : Header), u.Takes p 0 → firstAtFault (headerChecks slot h) = none →
          ∃ v, exec (.openRecipe p slot h) u = .next v ∧ Done u v p 10 .ok [] [] [.recipes] ∧
            SlotBecomes u v slot
              { state := .loading, header := some h, windows := [], sites := [], strokes := [], useCount := 0 })))

/-- PUT_CURE_PROFILE and DROP_CURE_PROFILE (R39, R40): a profile in its ranges is loaded, and a profile is dropped,
unless some live traveler in FLASH, CURE or OVEN_EXIT belongs to a recipe whose header names it; then the request is
refused IN_USE and nothing changes. -/
def Obligations.CureProfileLoadedAndDropped : Prop :=
  ∀ (s : State) (q : Req) (index : Nat) (p : Profile), s.Takes q 0 → s.recipes.profiles.length = 4 →
    let used : Prop := ∃ t r h, s.traveler t = some r ∧ (r.stage = .flash ∨ r.stage = .cure ∨ r.stage = .ovenExit) ∧
      (s.recipeOf r).header = some h ∧ h.profile = index
    let holds (u : State) (code : Nat) (o : Option Profile) : Prop :=
      Done s u q code .ok [] [] [.recipes] ∧ nth u.recipes.profiles index = some o ∧
        (∀ n, n ≠ index → nth u.recipes.profiles n = nth s.recipes.profiles n) ∧
        u.recipes.slots = s.recipes.slots
    (firstAtFault (profileChecks index p) = none →
      (¬ used → ∃ u, exec (.putCureProfile q index p) s = .next u ∧ holds u 17 (some p)) ∧
      (used → ∃ u, exec (.putCureProfile q index p) s = .next u ∧ Done s u q 17 .inUse [] [] [])) ∧
    (1 ≤ index → index ≤ 4 →
      (¬ used → ∃ u, exec (.dropCureProfile q index) s = .next u ∧ holds u 18 none) ∧
      (used → ∃ u, exec (.dropCureProfile q index) s = .next u ∧ Done s u q 18 .inUse [] [] []))

/-! ### Configuration, heads and lots (chapters 3, 5, 7, 10, 12) -/

/-- SET_HEAD (R44): with every field in its range, no crossed pair and the cell not RUNNING, the head is CONFIGURED with
exactly the fields of the request; a RUNNING cell refuses it BUSY; a field out of its range, and with none a crossed
pair, is answered INVALID. (That the first such field is named by its position, and a pair by its lower field, is
the model's choice, log 11.) SET_GANTRY_LIMITS (R97): limits in their ranges replace the configuration whole unless
the cell is RUNNING, PARKING or ABORTED, when the request is refused BUSY; the first field at fault is answered
INVALID and nothing changes. (That it is named by its position, and a minimum not below its maximum by the maximum,
is the model's choice, log 11.) SET_OVEN_GEOMETRY (R112): fields in their ranges replace the geometry whole, kept in
0.1 mm, unless some live traveler is in FLASH, CURE or OVEN_EXIT, when the request is refused BUSY; a field at
fault, such as a boundary list of the wrong length, is answered INVALID. (That the first one is named by its
position is the model's choice, log 11.) SET_RELEASE_LEVEL (R147): the entry of the reason becomes the level,
answered with the level before and after; no other entry and no hold already raised changes; a word that is no
reason, or a level above 3, is answered INVALID. SET_TIMEOUTS (R184): six values in their ranges replace all six
together, and a timer already running keeps its deadline; a value outside its range is answered INVALID with the
first field at fault and nothing changes. (That it is named by its position is the model's choice, log 11.) -/
def Obligations.ConfigurationReplacedWhole : Prop :=
  (∀ (s : State) (q : Req) (head : Nat) (c : HeadConfig), s.Takes q 0 →
    let invalid (k : Nat) : Prop :=
      ∃ u, exec (.setHead q head c) s = .next u ∧ Done s u q 19 .invalid [.word k] [] []
    (∀ k, firstAtFault (headChecks s.lots.heads.length head c) = some k → invalid k) ∧
    (firstAtFault (headChecks s.lots.heads.length head c) = none →
      (c.zMax < c.zMin → invalid 4) ∧
      (c.zMin ≤ c.zMax → c.fanMax < c.fanMin → invalid 6) ∧
      (c.zMin ≤ c.zMax → c.fanMin ≤ c.fanMax → c.vMax < c.vMin → invalid 8) ∧
      (c.zMin ≤ c.zMax → c.fanMin ≤ c.fanMax → c.vMin ≤ c.vMax →
        (s.engine.cell ≠ .running → ∃ u, exec (.setHead q head c) s = .next u ∧ Done s u q 19 .ok [] [] [.lots] ∧
          nth u.lots.heads head = some (some c) ∧ (∀ n, n ≠ head → nth u.lots.heads n = nth s.lots.heads n) ∧
          u.lots = { s.lots with heads := u.lots.heads }) ∧
        (s.engine.cell = .running →
          ∃ u, exec (.setHead q head c) s = .next u ∧ Done s u q 19 .busy [] [] [])))) ∧
  (∀ (s : State) (q : Req) (l : GantryLimits), s.Takes q 0 →
    (firstAtFault (gantryChecks l) = none →
      (s.engine.cell ≠ .running → s.engine.cell ≠ .parking → s.engine.cell ≠ .aborted →
        ∃ u, exec (.setGantryLimits q l) s = .next u ∧ Done s u q 29 .ok [] [] [.engine] ∧
          u.engine = { s.engine with limits := some l }) ∧
      ((s.engine.cell = .running ∨ s.engine.cell = .parking ∨ s.engine.cell = .aborted) →
        ∃ u, exec (.setGantryLimits q l) s = .next u ∧ Done s u q 29 .busy [] [] [])) ∧
    (∀ k, firstAtFault (gantryChecks l) = some k →
      ∃ u, exec (.setGantryLimits q l) s = .next u ∧ Done s u q 29 .invalid [.word k] [] []) ∧
    (l.xMax ≤ l.xMin → -1000000 ≤ l.xMin → l.xMin ≤ 1000000 →
      ∃ u, exec (.setGantryLimits q l) s = .next u ∧ Done s u q 29 .invalid [.word 1] [] [])) ∧
  (∀ (s : State) (q : Req) (length gap : Nat) (bounds : List Nat), s.Takes q 0 → 1000 ≤ length → length ≤ 12000 →
    (bounds.length = s.io.straps.zones → (0 :: bounds).Pairwise (· < ·) → bounds.getLast? = some length →
      20 ≤ gap → gap ≤ 500 →
      ((∀ t r, s.traveler t = some r → r.stage ≠ .flash ∧ r.stage ≠ .cure ∧ r.stage ≠ .ovenExit) →
        ∃ u, exec (.setOvenGeometry q length bounds gap) s = .next u ∧ Done s u q 30 .ok [] [] [.cure] ∧
          u.cure = { s.cure with geometry := u.cure.geometry } ∧
          u.cure.geometry = some { length := length * 10, bounds := bounds.map (· * 10), gap := gap * 10 }) ∧
      (∀ t r, s.traveler t = some r → (r.stage = .flash ∨ r.stage = .cure ∨ r.stage = .ovenExit) →
        ∃ u, exec (.setOvenGeometry q length bounds gap) s = .next u ∧ Done s u q 30 .busy [] [] [])) ∧
    (bounds.length ≠ s.io.straps.zones →
      ∃ u, exec (.setOvenGeometry q length bounds gap) s = .next u ∧ Done s u q 30 .invalid [.word 1] [] []) ∧
    (∀ (other : Nat) (k : Nat), firstAtFault (geometryChecks s.io.straps.zones other bounds gap) = some k →
      ∃ u, exec (.setOvenGeometry q other bounds gap) s = .next u ∧ Done s u q 30 .invalid [.word k] [] [])) ∧
  (∀ (s : State) (q : Req) (word level : Nat), s.Takes q 0 → s.holds.levels.length = 14 →
    (∀ k : HoldReason, k.code = word → level ≤ 3 →
      ∃ u, exec (.setReleaseLevel q word level) s = .next u ∧
        Done s u q 33 .ok [u1 (s.holds.levelOf k), u1 level] [] [.holds] ∧ u.holds.levelOf k = level ∧
        (∀ j, j ≠ k → u.holds.levelOf j = s.holds.levelOf j) ∧ u.holds.shelf = s.holds.shelf) ∧
    ((13 < word ∨ 3 < level) →
      ∃ u, exec (.setReleaseLevel q word level) s = .next u ∧ Done s u q 33 .invalid [] [] [])) ∧
  (∀ (s : State) (q : Req) (v : Timeouts), s.Takes q 0 →
    (1 ≤ v.transfer → v.transfer ≤ 30 → 2 ≤ v.pre → v.pre ≤ 120 → 2 ≤ v.post → v.post ≤ 120 → 200 ≤ v.margin →
      v.margin ≤ 5000 → 1 ≤ v.fiducial → v.fiducial ≤ 100 → 1 ≤ v.reload → v.reload ≤ 65535 →
      ∃ u, exec (.setTimeouts q v) s = .next u ∧ Done s u q 43 .ok [] [] [.clock] ∧ u.io.timeouts = v ∧
        u.io = { s.io with
          timeouts := v,
          outputs := { s.io.outputs with
            green := u.io.outputs.green, amber := u.io.outputs.amber, red := u.io.outputs.red } }) ∧
    (∀ k, firstAtFault (timeoutChecks v) = some k →
      ∃ u, exec (.setTimeouts q v) s = .next u ∧ Done s u q 43 .invalid [.word k] [] []) ∧
    ((v.transfer = 0 ∨ 30 < v.transfer) →
      ∃ u, exec (.setTimeouts q v) s = .next u ∧ Done s u q 43 .invalid [.word 0] [] []) ∧
    (1 ≤ v.transfer → v.transfer ≤ 30 → (v.pre < 2 ∨ 120 < v.pre) →
      ∃ u, exec (.setTimeouts q v) s = .next u ∧ Done s u q 43 .invalid [.word 1] [] []))

/-- MOUNT_LOT (R46, R47, R52): a mount that passes every condition fills the chosen record (the UNMOUNTED one of the
same id; else the lowest free one; else the one unmounted longest ago), volumes in nL, makes the head map name it,
takes it out of the unmount order, posts LOT_MOUNTED and, where the threshold is above the charge, LOT_LOW, and
answers the record number. (That the mix stamp is a signed number of seconds, the age taken from it without wrap, is
the model's reading, log 4.) MOUNT_LOT refused, in the order of R46: INVALID where a field is at fault, P and D
judged before the age at mount; then BUSY while the cell is RUNNING, IN_USE where the head map names a record for
the head, DUPLICATE where a MOUNTED or EXPIRED lot has the id; a refusal changes nothing. (That the field is named
by its position in the request is the model's choice, log 11.) UNMOUNT_LOT (R48): the record the head map names
becomes UNMOUNTED and joins the tail of the unmount order, the head map names none, and its number and volumes are
answered; a head with no lot is answered NOT_FOUND, a head that is not present INVALID, and a RUNNING cell refuses
BUSY. -/
def Obligations.LotsMountAndUnmount : Prop :=
  (∀ (s : State) (q : Req) (head n : Nat) (m : LotFields), s.Takes q 2 →
    firstAtFault (lotChecks s.lots.heads.length head m) = none → s.engine.cell ≠ .running →
    nth s.lots.map head = some none →
    (∀ x, some x ∈ s.lots.records → x.id = m.id → x.state = .unmounted) →
    ((∃ x, nth s.lots.records n = some (some x) ∧ x.id = m.id ∧
        ∀ k y, nth s.lots.records k = some (some y) → y.id = m.id → n ≤ k) ∨
      ((∀ x, some x ∈ s.lots.records → x.id ≠ m.id) ∧ nth s.lots.records n = some none ∧
        ∀ k, nth s.lots.records k = some none → n ≤ k) ∨
      ((∀ x, some x ∈ s.lots.records → x.id ≠ m.id) ∧ none ∉ s.lots.records ∧ s.lots.unmount.head? = some n ∧
        1 ≤ n ∧ n ≤ s.lots.records.length)) →
    let low : Bool := decide (m.charge < m.lowLimit)
    ∃ u, exec (.mountLot q head m) s = .next u ∧
      Done s u q 20 .ok [u1 n]
        ([.lotMounted head n m.id m.kind m.charge m.age] ++
          if low then [.lotLow head n m.id (m.charge * 1000) (m.lowLimit * 1000)] else []) [.lots] ∧
      nth u.lots.records n = some (some
        { state := .mounted, id := m.id, kind := m.kind, head := head, charged := m.charge * 1000,
          remaining := m.charge * 1000, dispensed := 0, mixStamp := (s.io.seconds.toNat : Int) - m.age * 60,
          potLife := m.potLife, derate := m.derate, lowLimit := m.lowLimit * 1000, lowWarned := low }) ∧
      (∀ k, k ≠ n → nth u.lots.records k = nth s.lots.records k) ∧
      nth u.lots.map head = some (some n) ∧ (∀ k, k ≠ head → nth u.lots.map k = nth s.lots.map k) ∧
      u.lots.unmount = s.lots.unmount.filter (fun k => k != n) ∧ u.lots.heads = s.lots.heads) ∧
  (∀ (s : State) (q : Req) (head : Nat) (m : LotFields), s.Takes q 2 →
    (1 ≤ head → head ≤ s.lots.heads.length → nameForm 12 m.id = true → 1 ≤ m.kind → m.kind ≤ 15 → 1 ≤ m.charge →
      m.charge ≤ 4000000 →
      let invalid (k : Nat) : Prop :=
        ∃ u, exec (.mountLot q head m) s = .next u ∧ Done s u q 20 .invalid [.word k] [] []
      ((m.potLife < 10 ∨ 1440 < m.potLife) → invalid 5) ∧
      (10 ≤ m.potLife → m.potLife ≤ 1440 → 50 < m.derate → invalid 6) ∧
      (10 ≤ m.potLife → m.potLife ≤ 1440 → m.derate ≤ 50 → m.potLife ≤ m.age → invalid 4) ∧
      (10 ≤ m.potLife → m.potLife ≤ 1440 → m.derate ≤ 50 → m.age < m.potLife → 4000000 < m.lowLimit → invalid 7)) ∧
    (firstAtFault (lotChecks s.lots.heads.length head m) = none →
      (s.engine.cell = .running → ∃ u, exec (.mountLot q head m) s = .next u ∧ Done s u q 20 .busy [] [] []) ∧
      (∀ n, s.engine.cell ≠ .running → nth s.lots.map head = some (some n) →
        ∃ u, exec (.mountLot q head m) s = .next u ∧ Done s u q 20 .inUse [] [] []) ∧
      (∀ x, s.engine.cell ≠ .running → nth s.lots.map head = some none → some x ∈ s.lots.records → x.id = m.id →
        x.state ≠ .unmounted → ∃ u, exec (.mountLot q head m) s = .next u ∧ Done s u q 20 .duplicate [] [] []))) ∧
  (∀ (s : State) (q : Req) (head : Nat), s.Takes q 2 →
    ((head = 0 ∨ s.lots.heads.length < head) →
      ∃ u, exec (.unmountLot q head) s = .next u ∧ Done s u q 21 .invalid [] [] []) ∧
    (1 ≤ head → head ≤ s.lots.heads.length → s.engine.cell = .running →
      ∃ u, exec (.unmountLot q head) s = .next u ∧ Done s u q 21 .busy [] [] []) ∧
    (1 ≤ head → head ≤ s.lots.heads.length → s.engine.cell ≠ .running →
      (nth s.lots.map head = some none →
        ∃ u, exec (.unmountLot q head) s = .next u ∧ Done s u q 21 .notFound [] [] []) ∧
      (∀ n m, nth s.lots.map head = some (some n) → nth s.lots.records n = some (some m) →
        ∃ u, exec (.unmountLot q head) s = .next u ∧
          Done s u q 21 .ok [u1 n, i4 m.remaining, i4 m.dispensed] [] [.lots] ∧
          nth u.lots.records n = some (some { m with state := .unmounted }) ∧
          (∀ k, k ≠ n → nth u.lots.records k = nth s.lots.records k) ∧
          nth u.lots.map head = some none ∧ (∀ k, k ≠ head → nth u.lots.map k = nth s.lots.map k) ∧
          u.lots.unmount = s.lots.unmount ++ [n] ∧ u.lots.heads = s.lots.heads)))

/-- LOT_EXPIRY (R50): a MOUNTED record whose pot life has run out becomes EXPIRED with LOT_EXPIRED posted, the head map
still naming it; a record that is not MOUNTED, or younger, is left. (That the age is line seconds minus the mix
stamp without wrap is the model's reading, log 4.) FLASH_OVERDUE (R111): a board in FLASH of route FULL or TOUCH_UP
whose flash time has reached its flash maximum, its mark clear, is marked and FLASH_OVERDUE raised with the flash
time: a new record of the reason opens, a RELEASED one opens again and an OPEN one counts (R149); marked already, or
below its maximum, or on route RE_CURE, nothing happens. (The flash time is the difference on the wrapping count,
which is the model's reading, log 4.) -/
def Obligations.ExpiryActsOnce : Prop :=
  (∀ (s : State) (n : Nat) (m : Lot), nth s.lots.records n = some (some m) →
    (m.state = .mounted → (m.potLife : Int) * 60 ≤ (s.io.seconds.toNat : Int) - m.mixStamp →
      ∃ u, exec (.lotExpiry n) s = .next u ∧ Happened s u [.lotExpired m.head n m.id] [.lots] ∧
        LotBecomes s u n { m with state := .expired } s.lots) ∧
    ((m.state ≠ .mounted ∨ (s.io.seconds.toNat : Int) - m.mixStamp < (m.potLife : Int) * 60) →
      ∃ u, exec (.lotExpiry n) s = .next u ∧ Happened s u [] [])) ∧
  (∀ (s : State) (t : Nat) (r : Traveler) (h : Header) (e : Seconds), s.traveler t = some r →
    (s.recipeOf r).header = some h → r.sprayEnd = some e →
    let time := (s.io.seconds - e).toNat
    let hold : Hold := newHold s s.io.seconds .flashOverdue .cureMonitor .flash (.flashTime time)
    (r.stage = .flash → r.route ≠ .reCure → t ∉ s.cure.overdue → h.flashMax ≤ time → s.leaving t = false →
      ((∀ x ∈ r.holds, x.reason ≠ .flashOverdue) →
        ∃ u hs, exec (.flashOverdue t) s = .next u ∧
          Happened s u [.holdRaised r.tag t .flashOverdue .cureMonitor .flash (s.holds.levelOf .flashOverdue)
            (some (.flashTime time))] [.table, .cure] ∧
          u.cure = { s.cure with overdue := s.cure.overdue ++ [t] } ∧
          Rewritten s u t { r with holds := hs } s.table ∧ HoldAdded r.holds hs hold) ∧
      (HoldsInOrder r.holds →
        ∃ u, exec (.flashOverdue t) s = .next u ∧
          Happened s u (raiseNotices r.tag t r.holds [hold]) [.table, .cure] ∧
          u.cure = { s.cure with overdue := s.cure.overdue ++ [t] } ∧
          Rewritten s u t { r with holds := holdsAfterRaise r.holds hold } s.table)) ∧
    ((r.stage ≠ .flash ∨ r.route = .reCure ∨ t ∈ s.cure.overdue ∨ time < h.flashMax) →
      ∃ u, exec (.flashOverdue t) s = .next u ∧ Happened s u [] []))

/-! ### Inspections and diverters (chapters 4 and 9) -/

/-- CLAIM (R60): a claim of a PRESENT board at a station with its inspection OPEN and unclaimed sets the claim field to
the requesting link and is answered with the station and the seconds left; the holder's own claim is answered the
same and another link's refuses CLAIMED with its name; a station with no record refuses STAGE. (The seconds left are
the difference on the wrapping count, which is the model's reading, log 4. The presence byte 0 of the absent end
cause and the codes of the links are the model's choice, log 12.) A Claim that its conditions refuse is judged in
their order (R60): INVALID for a malformed tag or a station word that is neither PRE nor POST, NOT_FOUND for an
unknown tag, STAGE with the end cause where the station's record names the board and is ENDED, and STAGE without one
where the record names another board or the board is not PRESENT there. (The presence byte of the end cause is the
model's choice, log 12.) POST_FIDUCIALS, POST_SITE and POST_COVERAGE (R62 to R64, R138): the claimant's post for a
board at the right station sets the one field it names and is answered OK; each of the three is refused STAGE at the
other station, and NOT_CLAIMED without the claim; a number beyond the recipe's count is answered INVALID. The first
checks of the three posts (R62 to R64, R138): a malformed tag or a field outside its form is answered INVALID (a
found word beyond NO, an offset out of range, a site or window number 0 or beyond its list, a verdict that cannot be
posted), and an unknown tag NOT_FOUND. -/
def Obligations.ClaimsAndPostsSetFields : Prop :=
  (∀ (s : State) (q : Req) (tag : Text) (x : Station) (t : Nat) (r : Traveler) (i : Inspection) (d : Seconds),
    s.Takes q 2 → tagForm tag = true → s.tagged tag = some (t, r) →
    (s.record x = some i → i.traveler = t → i.phase = .isOpen → i.deadline = some d → r.stage = stationStage x →
      r.place = .present →
      let left : List Field := [.word (Station.code x), u1 (d - s.io.seconds).toNat]
      (r.claim = none → ∃ u, exec (.claim q tag (Station.code x)) s = .next u ∧ Done s u q 23 .ok left [] [.table] ∧
        Rewritten s u t { r with claim := some q.link } s.table) ∧
      (r.claim = some q.link →
        ∃ u, exec (.claim q tag (Station.code x)) s = .next u ∧ Done s u q 23 .ok left [] []) ∧
      (∀ k, k ≠ q.link → r.claim = some k → ∃ u, exec (.claim q tag (Station.code x)) s = .next u ∧
        Done s u q 23 .claimed [.word (Link.code k)] [] [])) ∧
    (s.record x = none → ∃ u, exec (.claim q tag (Station.code x)) s = .next u ∧
      Done s u q 23 .stage [.presence false] [] [])) ∧
  (∀ (s : State) (q : Req) (tag : Text) (x : Station), s.Takes q 2 →
    (∀ code, tagForm tag = false ∨ 1 < code →
      ∃ u, exec (.claim q tag code) s = .next u ∧ Done s u q 23 .invalid [] [] []) ∧
    (tagForm tag = true → s.tagged tag = none →
      ∃ u, exec (.claim q tag (Station.code x)) s = .next u ∧ Done s u q 23 .notFound [] [] []) ∧
    (∀ t r i, tagForm tag = true → s.tagged tag = some (t, r) → s.record x = some i →
      (∀ c, i.traveler = t → i.phase = .ended c → ∃ u, exec (.claim q tag (Station.code x)) s = .next u ∧
        Done s u q 23 .stage [.presence true, .word c.code] [] []) ∧
      (i.traveler ≠ t ∨ i.phase = .isOpen ∧ (r.stage ≠ stationStage x ∨ r.place ≠ .present) →
        ∃ u, exec (.claim q tag (Station.code x)) s = .next u ∧ Done s u q 23 .stage [.presence false] [] []))) ∧
  (∀ (s : State) (q : Req) (tag : Text) (t : Nat) (r : Traveler), s.Takes q 2 → tagForm tag = true →
    s.tagged tag = some (t, r) →
    let holds (u : State) (code : Nat) (r' : Traveler) : Prop :=
      Done s u q code .ok [] [] [.table] ∧ Rewritten s u t r' s.table
    (r.claim = some q.link → s.stationOf t = some .pre →
      (∀ dx dy : Int, -32768 ≤ dx → dx ≤ 32767 → -32768 ≤ dy → dy ≤ 32767 →
        (∃ u, exec (.postFiducials q tag 0 dx dy) s = .next u ∧
          holds u 25 { r with fiducial := some (.offset dx dy) }) ∧
        (∃ u, exec (.postFiducials q tag 1 dx dy) s = .next u ∧ holds u 25 { r with fiducial := some .notFound })) ∧
      (∀ site code v, SiteVerdict.ofCode code = some v → 1 ≤ site → site ≤ 12 →
        (site ≤ r.sites.length → ∃ u, exec (.postSite q tag site code) s = .next u ∧
          holds u 26 { r with sites := r.sites.set (site - 1) v }) ∧
        (r.sites.length < site →
          ∃ u, exec (.postSite q tag site code) s = .next u ∧ Done s u q 26 .invalid [] [] [])) ∧
      (∀ window code v, CoverageVerdict.ofCode code = some v → 1 ≤ window → window ≤ 16 →
        ∃ u, exec (.postCoverage q tag window code) s = .next u ∧ Done s u q 27 .stage [] [] [])) ∧
    (r.claim = some q.link → s.stationOf t = some .post →
      ∀ window code v, CoverageVerdict.ofCode code = some v → 1 ≤ window → window ≤ 16 →
        (window ≤ r.coverage.length → ∃ u, exec (.postCoverage q tag window code) s = .next u ∧
          holds u 27 { r with coverage := r.coverage.set (window - 1) v }) ∧
        (r.coverage.length < window →
          ∃ u, exec (.postCoverage q tag window code) s = .next u ∧ Done s u q 27 .invalid [] [] [])) ∧
    ((r.claim = some q.link ∧ s.stationOf t = some .post) ∨ r.claim ≠ some q.link →
      let word : Status := if r.claim = some q.link then .stage else .notClaimed
      (∀ (found : Nat) (dx dy : Int), found ≤ 1 → -32768 ≤ dx → dx ≤ 32767 → -32768 ≤ dy → dy ≤ 32767 →
        ∃ u, exec (.postFiducials q tag found dx dy) s = .next u ∧ Done s u q 25 word [] [] []) ∧
      (∀ site code v, SiteVerdict.ofCode code = some v → 1 ≤ site → site ≤ 12 →
        ∃ u, exec (.postSite q tag site code) s = .next u ∧ Done s u q 26 word [] [] [])) ∧
    (r.claim ≠ some q.link → ∀ window code v, CoverageVerdict.ofCode code = some v → 1 ≤ window → window ≤ 16 →
      ∃ u, exec (.postCoverage q tag window code) s = .next u ∧ Done s u q 27 .notClaimed [] [] [])) ∧
  (∀ (s : State) (q : Req) (tag : Text), s.Takes q 2 →
    let offset (dx dy : Int) : Prop := -32768 ≤ dx ∧ dx ≤ 32767 ∧ -32768 ≤ dy ∧ dy ≤ 32767
    (∀ (found : Nat) (dx dy : Int), tagForm tag = false ∨ 1 < found ∨ (found = 0 ∧ ¬ offset dx dy) →
      ∃ u, exec (.postFiducials q tag found dx dy) s = .next u ∧ Done s u q 25 .invalid [] [] []) ∧
    (∀ site code, tagForm tag = false ∨ site = 0 ∨ 12 < site ∨ SiteVerdict.ofCode code = none →
      ∃ u, exec (.postSite q tag site code) s = .next u ∧ Done s u q 26 .invalid [] [] []) ∧
    (∀ window code, tagForm tag = false ∨ window = 0 ∨ 16 < window ∨ CoverageVerdict.ofCode code = none →
      ∃ u, exec (.postCoverage q tag window code) s = .next u ∧ Done s u q 27 .invalid [] [] []) ∧
    (tagForm tag = true → s.tagged tag = none →
      (∀ (found : Nat) (dx dy : Int), found ≤ 1 → offset dx dy →
        ∃ u, exec (.postFiducials q tag found dx dy) s = .next u ∧ Done s u q 25 .notFound [] [] []) ∧
      (∀ site code v, SiteVerdict.ofCode code = some v → 1 ≤ site → site ≤ 12 →
        ∃ u, exec (.postSite q tag site code) s = .next u ∧ Done s u q 26 .notFound [] [] []) ∧
      (∀ window code v, CoverageVerdict.ofCode code = some v → 1 ≤ window → window ≤ 16 →
        ∃ u, exec (.postCoverage q tag window code) s = .next u ∧ Done s u q 27 .notFound [] [] [])))

/-- UNCLAIM (R61): it needs level 2 or stronger; a malformed tag is answered INVALID, an unknown one NOT_FOUND, and a
board whose claim field does not name the requesting link NOT_CLAIMED; otherwise the claim field becomes none and
nothing else changes: the inspection stays OPEN with its deadline, the posts stand, and any link may claim the board
next, its answer with the seconds left. (The seconds left are the difference on the wrapping count, which is the
model's reading, log 4.) -/
def Obligations.UnclaimDropsClaim : Prop :=
  ∀ (s : State) (q : Req) (tag : Text),
    (s.Takes q 3 → 2 < max (s.strapped q.link) q.level →
      ∃ u, exec (.unclaim q tag) s = .next u ∧ Done s u q 24 .level [u1 2] [] []) ∧
    (s.Takes q 2 → tagForm tag = false →
      ∃ u, exec (.unclaim q tag) s = .next u ∧ Done s u q 24 .invalid [] [] []) ∧
    (s.Takes q 2 → tagForm tag = true → s.tagged tag = none →
      ∃ u, exec (.unclaim q tag) s = .next u ∧ Done s u q 24 .notFound [] [] []) ∧
    (∀ t r, s.Takes q 2 → tagForm tag = true → s.tagged tag = some (t, r) →
      (r.claim ≠ some q.link → ∃ u, exec (.unclaim q tag) s = .next u ∧ Done s u q 24 .notClaimed [] [] []) ∧
      (r.claim = some q.link → ∃ u, exec (.unclaim q tag) s = .next u ∧ Done s u q 24 .ok [] [] [.table] ∧
        Rewritten s u t { r with claim := none } s.table ∧
        (∀ (p : Req) (x : Station) (i : Inspection) (d : Seconds), u.Takes p 2 → s.record x = some i →
          i.traveler = t → i.phase = .isOpen → i.deadline = some d → r.stage = stationStage x → r.place = .present →
          ∃ v, exec (.claim p tag (Station.code x)) u = .next v ∧
            Done u v p 23 .ok [.word (Station.code x), u1 (d - u.io.seconds).toNat] [] [.table] ∧
            Rewritten u v t { r with claim := some p.link } u.table)))

/-- COMPLETE (R65, R66, R139): the claimant's Complete ends the inspection COMPLETED with its timer stopped and its
claim dropped, raises the holds that the evaluation of the posts asks for (each opened, opened again where it was
RELEASED, or counted where it is OPEN), and answers their number. The station's diverter then decides by the hold
set so left (R72, R140), and its BOARD_STAGE comes after the HOLD_RAISED notices; in IDLE and HALT at PRE, in HALT
at POST, the board stays. (A board is sent on with the destination sensor vacant, so that its transfer does not end
at once, R16.) (The hold set stands in reason order, R148, and no transfer of the board is in flight.)
INSPECTION_TIMER_EXPIRY (R67, R139): an OPEN inspection whose deadline line seconds has reached ends EXPIRED with
its claim dropped; INSPECT_TIMEOUT is raised, then the holds that the evaluation of the posts asks for;
INSPECT_ABANDONED is posted with the link whose claim was dropped and the posts made; then the station's diverter
decides by the hold set so left. Before the deadline, or with the record ENDED, nothing happens. (The stage at
raise, that of the station, is the model's choice, log 26.) (When a deadline counts as reached across the wrap of
line seconds is log 4.) (The hold set stands in reason order, R148, and no transfer of the board is in flight.) (A
board is sent on with the destination sensor vacant, so that its transfer does not end at once, R16.) -/
def Obligations.InspectionsEnd : Prop :=
  (∀ (s : State) (q : Req) (tag : Text) (t : Nat) (r : Traveler) (x : Station) (i : Inspection) (hs : List Hold)
    (o : Option Place), s.Takes q 2 → tagForm tag = true → s.tagged tag = some (t, r) → r.claim = some q.link →
    s.record x = some i → i.traveler = t → s.stationOf t = some x → r.stage = stationStage x → r.place = .present →
    (∀ e ∈ s.table.transfers, e.source ≠ stationPlace x ∧ e.dest ≠ stationPlace x ∧ e.traveler ≠ t) →
    HoldsInOrder r.holds → EvaluationRaises s x r hs →
    let b : Traveler := { r with claim := none, holds := holdsAfterRaises r.holds hs }
    DiverterSends x s.mode s.holds.shelf (s.vacant .cell = true) b.holds o → s.WayClear o →
    ∃ u, exec (.complete q tag) s = .next u ∧
      Done s u q 28 .ok [u1 hs.length] (raiseNotices r.tag t r.holds hs ++ sentNotices b t o)
        [.table, .mask, .engine, .holds, .clock] ∧
      u.record x = some { i with phase := .ended .completed, deadline := none } ∧
      (∀ y, y ≠ x → u.record y = s.record y) ∧
      Sent s u x t b s.table s.engine s.holds.shelf o ∧ WaySet s u x o) ∧
  (∀ (s : State) (x : Station) (i : Inspection) (r : Traveler) (d : Seconds), s.record x = some i →
    (i.phase = .isOpen → i.deadline = some d → reached s.io.seconds d = true → s.traveler i.traveler = some r →
      r.stage = stationStage x → r.place = .present →
      (∀ e ∈ s.table.transfers, e.source ≠ stationPlace x ∧ e.dest ≠ stationPlace x ∧ e.traveler ≠ i.traveler) →
      HoldsInOrder r.holds → ∀ hs o, EvaluationRaises s x r hs →
      let timeout : Hold := newHold s s.io.seconds .inspectTimeout .maskVerification (stationStage x) (.station x)
      let b : Traveler := { r with claim := none, holds := holdsAfterRaises r.holds (timeout :: hs) }
      DiverterSends x s.mode s.holds.shelf (s.vacant .cell = true) b.holds o → s.WayClear o →
      ∃ u, exec (.inspectionTimerExpiry x) s = .next u ∧
        Happened s u
          (raiseNotices r.tag i.traveler r.holds (timeout :: hs) ++
            [.inspectAbandoned x r.tag i.traveler r.claim
              (match x with
                | .pre => r.sites.countP (· != .unchecked)
                | .post => r.coverage.countP (· != .unchecked))] ++
            sentNotices b i.traveler o) [.table, .mask, .engine, .holds, .clock] ∧
        u.record x = some { i with phase := .ended .expired, deadline := none } ∧
        (∀ y, y ≠ x → u.record y = s.record y) ∧
        Sent s u x i.traveler b s.table s.engine s.holds.shelf o ∧ WaySet s u x o) ∧
    ((i.phase ≠ .isOpen ∨ (i.deadline = some d ∧ reached s.io.seconds d = false)) →
      ∃ u, exec (.inspectionTimerExpiry x) s = .next u ∧ Happened s u [] []))

/-- PRE_DIVERTER_DECISION (R72, R73, R155): in RUN or DRAIN the board that waits with its record ENDED goes to the
vacant spray cell where it has no OPEN hold, and to the lowest-numbered free shelf slot where it has one and at
least 2 slots are free; with fewer it waits. In IDLE and HALT nothing happens. EXIT_DIVERTER_DECISION (R140, R155):
outside HALT the board that waits with its record ENDED goes to the outfeed where it has no OPEN hold, and to the
lowest-numbered free shelf slot where it has one and a slot is free; with no free slot it waits. In HALT nothing
happens. -/
def Obligations.DivertersDecide : Prop :=
  (∀ (s : State) (i : Inspection) (t : Nat) (r : Traveler), s.mask.pre = some i → i.traveler = t →
    i.phase ≠ .isOpen → s.traveler t = some r → r.stage = .preInspect → r.place = .present →
    (∀ e ∈ s.table.transfers, e.source ≠ .preStation ∧ e.dest ≠ .preStation ∧ e.traveler ≠ t) →
    ((s.mode = .run ∨ s.mode = .drain) → (∀ h ∈ r.holds, h.state = .released) → s.vacant .cell = true →
      s.occupied .cellArrival = false →
      ∃ u, exec .preDiverterDecision s = .next u ∧
        Happened s u [.boardStage r.tag t .preInspect .spray .arriving] [.table, .engine, .clock] ∧
        Rewritten s u t { r with stage := .spray, place := .arriving }
          { s.table with transfers := s.table.transfers ++ [entryFor s t .preStation .cell] } ∧
        u.engine = { s.engine with cell := .loading, board := some t } ∧
        OutputsBecome s u { s.io.outputs with preDiverter := .line }) ∧
    ((s.mode = .run ∨ s.mode = .drain) → (∃ h ∈ r.holds, h.state = .isOpen) → 2 ≤ s.freeSlots →
      ∀ n, nth s.holds.shelf n = some .free → (∀ m, 1 ≤ m → m < n → nth s.holds.shelf m ≠ some .free) →
      s.occupied (.shelf n) = false →
      ∃ u, exec .preDiverterDecision s = .next u ∧
        Happened s u [.boardStage r.tag t .preInspect .shelved .arriving] [.table, .holds, .clock] ∧
        Rewritten s u t { r with stage := .shelved, place := .arriving, shelfSlot := some n }
          { s.table with transfers := s.table.transfers ++ [entryFor s t .preStation (.shelf n)] } ∧
        nth u.holds.shelf n = some (.assigned t) ∧
        (∀ m, m ≠ n → nth u.holds.shelf m = nth s.holds.shelf m) ∧ u.holds.levels = s.holds.levels ∧
        OutputsBecome s u { s.io.outputs with preDiverter := .shelf } ∧ u.io.outputs.slotSelect = n) ∧
    (((∃ h ∈ r.holds, h.state = .isOpen) ∧ s.freeSlots < 2) ∨
        ((∀ h ∈ r.holds, h.state = .released) ∧ s.vacant .cell = false) ∨ s.mode = .idle ∨ s.mode = .halt →
      ∃ u, exec .preDiverterDecision s = .next u ∧ Happened s u [] [])) ∧
  (∀ (s : State) (i : Inspection) (t : Nat) (r : Traveler), s.mask.post = some i → i.traveler = t →
    i.phase ≠ .isOpen → s.traveler t = some r → r.stage = .postInspect → r.place = .present →
    (∀ e ∈ s.table.transfers, e.source ≠ .postStation ∧ e.dest ≠ .postStation ∧ e.traveler ≠ t) →
    (s.mode ≠ .halt → (∀ h ∈ r.holds, h.state = .released) → s.occupied .outfeedExit = false →
      ∃ u, exec .exitDiverterDecision s = .next u ∧
        Happened s u [.boardStage r.tag t .postInspect .postInspect .arriving] [.table, .clock] ∧
        Rewritten s u t { r with place := .arriving }
          { s.table with transfers := s.table.transfers ++ [entryFor s t .postStation .outfeed] } ∧
        OutputsBecome s u { s.io.outputs with exitDiverter := .outfeed }) ∧
    (s.mode ≠ .halt → (∃ h ∈ r.holds, h.state = .isOpen) →
      ∀ n, nth s.holds.shelf n = some .free → (∀ m, 1 ≤ m → m < n → nth s.holds.shelf m ≠ some .free) →
      s.occupied (.shelf n) = false →
      ∃ u, exec .exitDiverterDecision s = .next u ∧
        Happened s u [.boardStage r.tag t .postInspect .shelved .arriving] [.table, .holds, .clock] ∧
        Rewritten s u t { r with stage := .shelved, place := .arriving, shelfSlot := some n }
          { s.table with transfers := s.table.transfers ++ [entryFor s t .postStation (.shelf n)] } ∧
        nth u.holds.shelf n = some (.assigned t) ∧
        (∀ m, m ≠ n → nth u.holds.shelf m = nth s.holds.shelf m) ∧ u.holds.levels = s.holds.levels ∧
        OutputsBecome s u { s.io.outputs with exitDiverter := .shelf } ∧ u.io.outputs.slotSelect = n) ∧
    (((∃ h ∈ r.holds, h.state = .isOpen) ∧ s.freeSlots = 0) ∨ s.mode = .halt →
      ∃ u, exec .exitDiverterDecision s = .next u ∧ Happened s u [] []))

/-! ### The spray cell (chapter 5) -/

/-- PROGRAM_START of a RE_CURE board (R78), and where no program starts: the cell READY, the mode RUN or DRAIN and the
port QUIET are all needed; a RE_CURE board's empty program is over at once, the cell DONE with the spray end stamp
set. PROGRAM_START of a FULL or TOUCH_UP board whose first stroke sprays and passes every decision (R78, R79, R81 to
R87): the program fields are cleared, the program is RUNNING at that stroke, the lot of the head is recorded as
used, and the MOVE to the start of pass 0 is outstanding at the head's transit speed, with its expected time and the
gantry margin as its deadline; no hold is raised for a NOMINAL verdict. (A lot's age is taken without wrap, the
model's reading, log 4.) -/
def Obligations.ProgramStarts : Prop :=
  (∀ (s : State),
    (∀ t r, s.engine.cell = .ready → (s.mode = .run ∨ s.mode = .drain) → s.engine.port = .quiet →
      s.engine.board = some t → s.traveler t = some r → r.route = .reCure →
      ∃ u, exec .programStart s = .next u ∧ Happened s u [] [.table, .engine] ∧
        u.engine = { s.engine with cell := .done } ∧
        Rewritten s u t { r with sprayEnd := some s.io.seconds } s.table) ∧
    ((s.engine.cell ≠ .ready ∨ s.mode = .idle ∨ s.mode = .halt ∨ s.engine.port ≠ .quiet) →
      ∃ u, exec .programStart s = .next u ∧ Happened s u [] [])) ∧
  (∀ (s : State) (t n : Nat) (r : Traveler) (h : Header) (x : Stroke) (w : Window) (c : HeadConfig) (m : Lot)
    (l : GantryLimits),
    let first : Nat := match r.route with | .touchUp f _ => f | _ => 1
    let last : Nat := match r.route with | .touchUp _ e => e | _ => (s.recipeOf r).strokes.length
    let d := dispense c m.potLife m.derate (m.age s.io.seconds) x w
    let inside (p : Point) : Prop :=
      l.xMin ≤ p.x ∧ p.x ≤ l.xMax ∧ l.yMin ≤ p.y ∧ p.y ≤ l.yMax ∧ l.zMin ≤ p.z ∧ p.z ≤ l.zMax
    let start : Point :=
      { x := x.startX + r.shift.1 + l.origin.x, y := x.startY + r.shift.2 + l.origin.y, z := x.height + l.origin.z }
    s.engine.cell = .ready → (s.mode = .run ∨ s.mode = .drain) → s.engine.port = .quiet → s.engine.board = some t →
    s.traveler t = some r → r.route ≠ .reCure → first ≤ last → 1 ≤ x.passes →
    (s.recipeOf r).header = some h → nth (s.recipeOf r).strokes first = some x → x.valveOn = true →
    nth (s.recipeOf r).windows x.window = some w →
    (w.mask = 0 ∨ nth r.sites w.mask = some .present ∨ nth r.sites w.mask = some .notFitted) →
    nth s.lots.heads x.head = some (some c) → c.zMin ≤ x.height → x.height ≤ c.zMax →
    nth s.lots.map x.head = some (some n) → nth s.lots.records n = some (some m) → m.state = .mounted →
    m.kind = h.kind → (d.strokeVolume : Int) ≤ m.remaining → d.verdict = .nominal →
    s.engine.limits = some l → (∀ p ∈ machinePasses l r.shift x, inside p.1 ∧ inside p.2) →
    ∃ u, exec .programStart s = .next u ∧ Happened s u [] [.table, .engine] ∧
      Rewritten s u t
        { r with program := .running, strokeCursor := first, passCursor := 0,
                 coat := { run := 0, skipped := 0, faults := 0, first := none },
                 lotsUsed := putNth r.lotsUsed x.head (some m.id), sprayEnd := none } s.table ∧
      u.engine = { s.engine with
        cell := .running, lastClose := none,
        port := awaitingAnswer s (.move x.head start c.transit) start (s.engine.moveTime start c.transit),
        work := some { stroke := first, head := x.head, transit := c.transit, results := some d,
                       passes := machinePasses l r.shift x, phase := .toStart } })

/-- ARRIVED (R80, R87, R92, R93, R96, R98): the answer to the park MOVE makes the cell DONE with the spray end stamp,
which an ABORTED board keeps as the halt set it; the answer to the MOVE to a pass start of a spraying stroke sends
PASS and opens the head's valve, and of a dry stroke sends the MOVE to the pass end; the answer to that second MOVE
ends the pass: with a pass left, the MOVE to its start is outstanding, and after the last pass of the last stroke
the program is DONE and the park MOVE outstanding. The reference point is the MOVE's target. With the cell VACANT
after a line clear only the port and the reference point change. To a PASS or a STOP, and with no message
outstanding, ARRIVED changes nothing. -/
def Obligations.ArrivedGoesOn : Prop :=
  ∀ (s : State) (o : Outstanding) (p : Point) (head speed t : Nat) (r : Traveler),
    (s.engine.port = .waiting o → o.message = .move 0 p speed → s.engine.cell = .parking → s.engine.board = some t →
      s.traveler t = some r →
      ∃ u, exec .arrived s = .next u ∧ Happened s u [] [.table, .engine] ∧
        u.engine = { s.engine with cell := .done, port := .quiet, reference := o.target } ∧
        Rewritten s u t
          (if r.program = .aborted then r
            else { r with sprayEnd := some (s.engine.lastClose.getD s.io.seconds) }) s.table) ∧
    (s.engine.port = .waiting o → o.message = .move head p speed → s.engine.cell = .vacant →
      ∃ u, exec .arrived s = .next u ∧ Happened s u [] [.engine] ∧
        u.engine = { s.engine with port := .quiet, reference := o.target }) ∧
    (∀ w a b d, s.engine.port = .waiting o → o.message = .move head p speed → head ≠ 0 → s.engine.cell = .running →
      s.engine.board = some t → s.traveler t = some r → s.engine.work = some w → w.phase = .toStart →
      w.passes[r.passCursor]? = some (a, b) → w.results = some d → s.io.estop = false →
      ∃ u, exec .arrived s = .next u ∧ Happened s u [] [.engine] ∧
        u.engine = { s.engine with
          reference := o.target, work := some { w with phase := .along },
          valve := some { head := w.head, flow := d.flow, duration := d.duration, openMs := 0 },
          port := awaitingAnswer s (.pass w.head b.x b.y d.speed) b (d.duration) }) ∧
    (∀ w a b, s.engine.port = .waiting o → o.message = .move head p speed → head ≠ 0 → s.engine.cell = .running →
      s.engine.board = some t → s.traveler t = some r → s.engine.work = some w → w.phase = .toStart →
      w.passes[r.passCursor]? = some (a, b) → w.results = none → o.target = some p →
      ∃ u, exec .arrived s = .next u ∧ Happened s u [] [.engine] ∧
        u.engine = { s.engine with
          reference := some p, work := some { w with phase := .along },
          port := awaitingAnswer s (.move w.head b w.transit) b (ceilDiv (distance p b * 1000) w.transit) }) ∧
    (∀ w l, s.engine.port = .waiting o → o.message = .move head p speed → head ≠ 0 → s.engine.cell = .running →
      s.engine.board = some t → s.traveler t = some r → s.engine.work = some w → w.phase = .along →
      w.results = none → o.target = some p → s.engine.limits = some l →
      (∀ a b, w.passes[r.passCursor + 1]? = some (a, b) →
        ∃ u, exec .arrived s = .next u ∧ Happened s u [] [.table, .engine] ∧
          Rewritten s u t { r with passCursor := r.passCursor + 1 } s.table ∧
          u.engine = { s.engine with
            reference := some p, work := some { w with phase := .toStart },
            port := awaitingAnswer s (.move w.head a w.transit) a (ceilDiv (distance p a * 1000) w.transit) }) ∧
      (w.passes.length ≤ r.passCursor + 1 → s.lastStroke t ≤ w.stroke →
        ∃ u, exec .arrived s = .next u ∧ Happened s u [] [.table, .engine] ∧
          Rewritten s u t
            { r with passCursor := r.passCursor + 1, program := .done, coat := { r.coat with run := r.coat.run + 1 } }
            s.table ∧
          u.engine = { s.engine with
            cell := .parking, work := none, reference := some p,
            port := awaitingAnswer s (.move 0 l.park l.parkSpeed) l.park
              (ceilDiv (distance p l.park * 1000) l.parkSpeed) })) ∧
    ((s.engine.port = .quiet ∨ s.engine.port = .lost ∨
        (s.engine.port = .waiting o ∧ ∀ h a v, o.message ≠ .move h a v)) →
      ∃ u, exec .arrived s = .next u ∧ Happened s u [] [])

/-- The decisions of a stroke that stop it, and those that do not (R79 to R86), seen at PROGRAM_START of a program of
one stroke. A stroke whose site's verdict does not let it spray is skipped with PARTIAL_COAT; one whose head is
UNCONFIGURED or does not reach its height is skipped with a fault HEAD; one that fails the material check (NO_LOT,
EXPIRED, KIND, VOLUME, in this order) is skipped with MATERIAL; a dry stroke with a pass outside the travel limits
is skipped with a fault TRAVEL naming the first such pass. The program is then over: DONE, the cell PARKING, the
park MOVE outstanding. A verdict THIN or HEAVY raises COAT_DEVIATION and the stroke runs; a dry stroke runs without
results and without a lot. (A lot's age is taken without wrap, the model's reading, log 4.) The passes of a stroke
in the machine frame (R85, R87): one for each pass number from 0, from the start to the end, both displaced by that
many steps, or the other way round where the serpentine flag is set and the number odd; the fiducial offset and the
cell origin are added, and the height is the spray height above the origin. -/
def Obligations.StrokeDecisionsTaken : Prop :=
  (∀ (s : State) (t k : Nat) (r : Traveler) (h : Header) (x : Stroke) (l : GantryLimits),
    s.engine.cell = .ready → (s.mode = .run ∨ s.mode = .drain) → s.engine.port = .quiet → s.engine.board = some t →
    s.traveler t = some r →
    ((r.route = .full ∧ (s.recipeOf r).strokes.length = 1 ∧ k = 1) ∨ r.route = .touchUp k k) →
    (s.recipeOf r).header = some h → nth (s.recipeOf r).strokes k = some x → 1 ≤ x.passes →
    s.engine.limits = some l → s.leaving t = false → r.holds = [] →
    let raised (reason : HoldReason) (d : HoldDetail) : NoticeKind :=
      .holdRaised r.tag t reason .strokeEngine .spray (s.holds.levelOf reason) (some d)
    let hold (reason : HoldReason) (d : HoldDetail) : Hold := newHold s s.io.seconds reason .strokeEngine .spray d
    let overWith (coat : CoatSummary) (reason : HoldReason) (d : HoldDetail) : Prop :=
      ∃ u, exec .programStart s = .next u ∧ Happened s u [raised reason d] [.table, .engine] ∧
        Rewritten s u t
          { r with program := .done, strokeCursor := k, passCursor := 0, coat := coat, sprayEnd := none,
                   holds := [hold reason d] } s.table ∧
        u.engine = { s.engine with
          cell := .parking, work := none, lastClose := none,
          port := awaitingAnswer s (.move 0 l.park l.parkSpeed) l.park (s.engine.moveTime l.park l.parkSpeed) }
    let skipped : CoatSummary := { run := 0, skipped := 1, faults := 0, first := none }
    let faulted (p : Nat) (c : StrokeFaultCause) : CoatSummary :=
      { run := 0, skipped := 1, faults := 1, first := some { stroke := k, pass := p, cause := c } }
    let runs (c : HeadConfig) (results : Option Dispense) (used : List (Option Text)) (hs : List Hold)
        (ks : List NoticeKind) : Prop :=
      ∃ u a b, exec .programStart s = .next u ∧ Happened s u ks [.table, .engine] ∧
        (machinePasses l r.shift x)[0]? = some (a, b) ∧
        Rewritten s u t
          { r with program := .running, strokeCursor := k, passCursor := 0,
                   coat := { run := 0, skipped := 0, faults := 0, first := none }, lotsUsed := used,
                   sprayEnd := none, holds := hs } s.table ∧
        u.engine = { s.engine with
          cell := .running, lastClose := none,
          port := awaitingAnswer s (.move x.head a c.transit) a (s.engine.moveTime a c.transit),
          work := some { stroke := k, head := x.head, transit := c.transit, results := results,
                         passes := machinePasses l r.shift x, phase := .toStart } }
    let outside (p : Point) : Prop :=
      p.x < l.xMin ∨ l.xMax < p.x ∨ p.y < l.yMin ∨ l.yMax < p.y ∨ p.z < l.zMin ∨ l.zMax < p.z
    let reachable (passes : List (Point × Point)) : Prop := ∀ p ∈ passes, ¬ outside p.1 ∧ ¬ outside p.2
    let configured (c : HeadConfig) : Prop :=
      nth s.lots.heads x.head = some (some c) ∧ c.zMin ≤ x.height ∧ x.height ≤ c.zMax
    let masked (w : Window) : Prop :=
      w.mask ≠ 0 ∧ nth r.sites w.mask ≠ some .present ∧ nth r.sites w.mask ≠ some .notFitted
    let sprays (w : Window) : Prop := x.valveOn = true ∧ nth (s.recipeOf r).windows x.window = some w
    (∀ w, sprays w → masked w → overWith skipped .partialCoat (.site w.mask)) ∧
    ((x.valveOn = false ∨ ∃ w, sprays w ∧ ¬ masked w) → (∀ c, ¬ configured c) →
      overWith (faulted 0 .head) .strokeFault (.strokeFault k 0 .head)) ∧
    (∀ w c, sprays w → ¬ masked w → configured c →
      (nth s.lots.map x.head = some none → overWith skipped .material (.material .noLot)) ∧
      (∀ n m, nth s.lots.map x.head = some (some n) → nth s.lots.records n = some (some m) →
        let d := dispense c m.potLife m.derate (m.age s.io.seconds) x w
        (m.state = .expired → overWith skipped .material (.material .expired)) ∧
        (m.state ≠ .expired → m.kind ≠ h.kind → overWith skipped .material (.material .kind)) ∧
        (m.state ≠ .expired → m.kind = h.kind → m.remaining < d.strokeVolume →
          overWith skipped .material (.material .volume)) ∧
        (m.state ≠ .expired → m.kind = h.kind → (d.strokeVolume : Int) ≤ m.remaining → d.verdict ≠ .nominal →
          reachable (machinePasses l r.shift x) →
          runs c (some d) (putNth r.lotsUsed x.head (some m.id))
            [hold .coatDeviation (.deviation k d.verdict d.mark)]
            [raised .coatDeviation (.deviation k d.verdict d.mark)]))) ∧
    (∀ c, x.valveOn = false → configured c →
      (reachable (machinePasses l r.shift x) → runs c none r.lotsUsed [] []) ∧
      (∀ before p after, machinePasses l r.shift x = before ++ p :: after → reachable before →
        (outside p.1 ∨ outside p.2) →
        overWith (faulted before.length .travel) .strokeFault (.strokeFault k before.length .travel)))) ∧
  (∀ (l : GantryLimits) (r : Traveler) (x : Stroke) (k : Nat),
    let point (a b : Int) : Point :=
      { x := a + r.shift.1 + l.origin.x, y := b + r.shift.2 + l.origin.y, z := x.height + l.origin.z }
    let first := point (x.startX + k * x.stepX) (x.startY + k * x.stepY)
    let second := point (x.endX + k * x.stepX) (x.endY + k * x.stepY)
    (machinePasses l r.shift x).length = x.passes ∧
    (k < x.passes → (machinePasses l r.shift x)[k]? =
      some (if x.serpentine = true ∧ k % 2 = 1 then (second, first) else (first, second))) ∧
    (r.shift = match r.fiducial with | some (.offset dx dy) => (dx, dy) | _ => (0, 0)))

/-- PASS_DONE (R87, R92, R93): the answer to the PASS of a pass with the valve already shut ends the pass: with a pass
left, the MOVE to its start is outstanding and the pass cursor has risen by one; after the last pass of the last
stroke the stroke counts as run, the program is DONE, the cell PARKING and the park MOVE outstanding. To any other
message, and with none outstanding, PASS_DONE changes nothing. The end of the last pass takes up the next stroke of
the program (R79, R80, R87): at PASS_DONE to the PASS of a spraying stroke and at ARRIVED to the second MOVE of a
dry one, the stroke counts as run, the cursors stand at the next stroke and pass 0, and where that stroke passes
every decision (a dry one, or a spraying one with a NOMINAL verdict, its lot recorded as used) the MOVE to its first
pass start is outstanding at its head's transit speed. -/
def Obligations.PassDoneEndsPass : Prop :=
  (∀ (s : State) (o : Outstanding) (head speed t : Nat) (x y : Int) (r : Traveler) (w : StrokeWork) (l : GantryLimits)
    (b : Point),
    (s.engine.port = .waiting o → o.message = .pass head x y speed → o.target = some b → s.engine.valve = none →
      s.engine.cell = .running → s.engine.board = some t → s.traveler t = some r → s.engine.work = some w →
      (∀ a e, w.passes[r.passCursor + 1]? = some (a, e) →
        ∃ u, exec .passDone s = .next u ∧ Happened s u [] [.table, .engine] ∧
          Rewritten s u t { r with passCursor := r.passCursor + 1 } s.table ∧
          u.engine = { s.engine with
            reference := some b, work := some { w with phase := .toStart },
            port := awaitingAnswer s (.move w.head a w.transit) a (ceilDiv (distance b a * 1000) w.transit) }) ∧
      (w.passes.length ≤ r.passCursor + 1 → s.lastStroke t ≤ w.stroke → s.engine.limits = some l →
        ∃ u, exec .passDone s = .next u ∧ Happened s u [] [.table, .engine] ∧
          Rewritten s u t
            { r with passCursor := r.passCursor + 1, program := .done, coat := { r.coat with run := r.coat.run + 1 } }
            s.table ∧
          u.engine = { s.engine with
            cell := .parking, work := none, reference := some b,
            port := awaitingAnswer s (.move 0 l.park l.parkSpeed) l.park
              (ceilDiv (distance b l.park * 1000) l.parkSpeed) })) ∧
    ((s.engine.port = .quiet ∨ s.engine.port = .lost ∨
        (s.engine.port = .waiting o ∧ ∀ h a e v, o.message ≠ .pass h a e v)) →
      ∃ u, exec .passDone s = .next u ∧ Happened s u [] [])) ∧
  (∀ (s : State) (i : Instr) (o : Outstanding) (t : Nat) (r : Traveler) (w : StrokeWork) (l : GantryLimits)
    (b p q : Point) (k : Stroke) (c : HeadConfig) (results : Option Dispense) (used : List (Option Text)),
    ((i = .passDone ∧ ∃ head x y speed, o.message = .pass head x y speed) ∨
      (i = .arrived ∧ w.phase = .along ∧ ∃ head a speed, o.message = .move head a speed ∧ head ≠ 0)) →
    s.engine.port = .waiting o → o.target = some b → s.engine.valve = none →
    s.engine.cell = .running → s.engine.board = some t → s.traveler t = some r → s.engine.work = some w →
    w.passes.length ≤ r.passCursor + 1 → w.stroke < s.lastStroke t →
    nth (s.recipeOf r).strokes (w.stroke + 1) = some k → s.engine.limits = some l →
    (machinePasses l r.shift k)[0]? = some (p, q) → StrokePasses s r k c l results used →
    ∃ u, exec i s = .next u ∧ Happened s u [] [.table, .engine] ∧
      Rewritten s u t
        { r with strokeCursor := w.stroke + 1, passCursor := 0, lotsUsed := used,
                 coat := { r.coat with run := r.coat.run + 1 } } s.table ∧
      u.engine = { s.engine with
        reference := some b,
        port := awaitingAnswer s (.move k.head p c.transit) p (ceilDiv (distance b p * 1000) c.transit),
        work := some { stroke := w.stroke + 1, head := k.head, transit := c.transit, results := results,
                       passes := machinePasses l r.shift k, phase := .toStart } })

/-- STOPPED (R92, R95, R96): the answer to STOP makes the port QUIET with the reference point unknown; in HALT nothing
else changes, and out of HALT a cell that is ABORTED or PARKING sends the park MOVE, its expected time that of the
diagonal of the travel limits (R91). To any other message, and with none outstanding, STOPPED changes nothing.
GANTRY_FAULT (R86, R92): in QUIET and LOST it sets the last fault code and nothing else; to a MOVE of a running
program with the valve shut it also makes the port leave that message with the reference point unknown, counts the
first stroke fault with cause GANTRY and the cursors, raises STROKE_FAULT, ends the program and parks the gantry.
FAULT to a PASS whose valve is shut, to the park MOVE and to STOP (R86, R92, R93): the code is recorded, the port is
QUIET and the reference point unknown. To a PASS it ends the program as to a MOVE. To the park MOVE the cell becomes
DONE with the spray end stamp, and a stroke fault GANTRY of stroke 0, pass 0 is counted, the first of the program
kept and raised as STROKE_FAULT, a later one only counted. To STOP it ends the message as STOPPED does. -/
def Obligations.StopAndFaultEndMessage : Prop :=
  (∀ (s : State) (o : Outstanding) (l : GantryLimits),
    let diagonal : Nat := ceilDiv (distance { x := l.xMin, y := l.yMin, z := l.zMin }
      { x := l.xMax, y := l.yMax, z := l.zMax } * 1000) l.parkSpeed
    (s.engine.port = .waiting o → o.message = .stop →
      (s.mode = .halt ∨ (s.engine.cell ≠ .aborted ∧ s.engine.cell ≠ .parking) →
        ∃ u, exec .stopped s = .next u ∧ Happened s u [] [.engine] ∧
          u.engine = { s.engine with port := .quiet, reference := none }) ∧
      (s.mode ≠ .halt → (s.engine.cell = .aborted ∨ s.engine.cell = .parking) → s.engine.limits = some l →
        ∃ u, exec .stopped s = .next u ∧ Happened s u [] [.engine] ∧
          u.engine = { s.engine with
            cell := .parking, reference := none, port := awaitingAnswer s (.move 0 l.park l.parkSpeed) l.park diagonal })) ∧
    ((s.engine.port = .quiet ∨ s.engine.port = .lost ∨ (s.engine.port = .waiting o ∧ o.message ≠ .stop)) →
      ∃ u, exec .stopped s = .next u ∧ Happened s u [] [])) ∧
  (∀ (s : State) (code : Nat) (o : Outstanding) (p : Point) (head speed t : Nat) (r : Traveler) (l : GantryLimits),
    let diagonal : Nat := ceilDiv (distance { x := l.xMin, y := l.yMin, z := l.zMin }
      { x := l.xMax, y := l.yMax, z := l.zMax } * 1000) l.parkSpeed
    (s.engine.port = .quiet ∨ s.engine.port = .lost →
      ∃ u, exec (.gantryFault code) s = .next u ∧ Happened s u [] [.engine] ∧
        u.engine = { s.engine with lastFault := some code }) ∧
    (s.engine.port = .waiting o → o.message = .move head p speed → head ≠ 0 → s.engine.cell = .running →
      s.engine.board = some t → s.traveler t = some r → s.engine.valve = none → r.coat.faults = 0 →
      s.leaving t = false → (∀ h ∈ r.holds, h.reason ≠ .strokeFault) → s.engine.limits = some l →
      ∃ u, exec (.gantryFault code) s = .next u ∧
        Happened s u
          [.holdRaised r.tag t .strokeFault .strokeEngine .spray (s.holds.levelOf .strokeFault)
            (some (.strokeFault r.strokeCursor r.passCursor (.gantry code)))] [.table, .engine] ∧
        u.engine = { s.engine with
          lastFault := some code, reference := none, cell := .parking, work := none,
          port := awaitingAnswer s (.move 0 l.park l.parkSpeed) l.park diagonal } ∧
        (∃ hs, HoldAdded r.holds hs (newHold s s.io.seconds .strokeFault .strokeEngine .spray
            (.strokeFault r.strokeCursor r.passCursor (.gantry code))) ∧
          Rewritten s u t
            { r with program := .done, holds := hs, coat :=
              { run := r.coat.run, skipped := r.coat.skipped, faults := 1,
                first := some ⟨r.strokeCursor, r.passCursor, .gantry code⟩ } } s.table))) ∧
  (∀ (s : State) (code : Nat) (o : Outstanding) (l : GantryLimits), s.engine.port = .waiting o →
    s.engine.limits = some l →
    let diagonal : Nat := ceilDiv (distance { x := l.xMin, y := l.yMin, z := l.zMin }
      { x := l.xMax, y := l.yMax, z := l.zMax } * 1000) l.parkSpeed
    let raised (r : Traveler) (t : Nat) (d : HoldDetail) : NoticeKind :=
      .holdRaised r.tag t .strokeFault .strokeEngine .spray (s.holds.levelOf .strokeFault) (some d)
    let hold (d : HoldDetail) : Hold := newHold s s.io.seconds .strokeFault .strokeEngine .spray d
    (∀ t r head x y speed, o.message = .pass head x y speed → s.engine.cell = .running → s.engine.board = some t →
      s.traveler t = some r → s.engine.valve = none → r.coat.faults = 0 → s.leaving t = false → r.holds = [] →
      let d : HoldDetail := .strokeFault r.strokeCursor r.passCursor (.gantry code)
      ∃ u, exec (.gantryFault code) s = .next u ∧ Happened s u [raised r t d] [.table, .engine] ∧
        Rewritten s u t
          { r with program := .done, holds := [hold d], coat :=
            { run := r.coat.run, skipped := r.coat.skipped, faults := 1,
              first := some ⟨r.strokeCursor, r.passCursor, .gantry code⟩ } } s.table ∧
        u.engine = { s.engine with
          lastFault := some code, reference := none, cell := .parking, work := none,
          port := awaitingAnswer s (.move 0 l.park l.parkSpeed) l.park diagonal }) ∧
    (∀ t r p speed, o.message = .move 0 p speed → s.engine.cell = .parking → s.engine.board = some t →
      s.traveler t = some r → s.leaving t = false → r.holds = [] →
      let d : HoldDetail := .strokeFault 0 0 (.gantry code)
      let stamp : Option Seconds :=
        if r.program = .aborted then r.sprayEnd else some (s.engine.lastClose.getD s.io.seconds)
      ∃ u, exec (.gantryFault code) s = .next u ∧
        Happened s u (if r.coat.faults = 0 then [raised r t d] else []) [.table, .engine] ∧
        Rewritten s u t
          { r with
            sprayEnd := stamp, holds := if r.coat.faults = 0 then [hold d] else [],
            coat := { run := r.coat.run, skipped := r.coat.skipped, faults := r.coat.faults + 1,
                      first := if r.coat.faults = 0 then some ⟨0, 0, .gantry code⟩ else r.coat.first } } s.table ∧
        u.engine = { s.engine with lastFault := some code, port := .quiet, reference := none, cell := .done }) ∧
    (o.message = .stop →
      ((s.mode = .halt ∨ (s.engine.cell ≠ .aborted ∧ s.engine.cell ≠ .parking)) →
        ∃ u, exec (.gantryFault code) s = .next u ∧ Happened s u [] [.engine] ∧
          u.engine = { s.engine with lastFault := some code, port := .quiet, reference := none }) ∧
      (s.mode ≠ .halt → (s.engine.cell = .aborted ∨ s.engine.cell = .parking) →
        ∃ u, exec (.gantryFault code) s = .next u ∧ Happened s u [] [.engine] ∧
          u.engine = { s.engine with
            lastFault := some code, cell := .parking, reference := none,
            port := awaitingAnswer s (.move 0 l.park l.parkSpeed) l.park diagonal })))

/-- The close of an open valve by VALVE_TIMER_EXPIRY (R51, R52, R88, R89) and by ESTOP_ASSERTION (R181): the lot on the
head is charged the stroke's effective flow times the open time, the whole pass duration at the timer's expiry, from
the remaining to the dispensed volume in one step, and LOT_LOW is posted where the remaining volume has fallen below
the threshold for the first time in the mount. The assertion is also recognised and handed to the traveler table.
The close of an open valve at PASS_DONE and at a FAULT to its PASS (R88, R89, R92): the lot is charged the effective
flow times the open time so far, and the port is QUIET first. After PASS_DONE the next pass begins with the MOVE to
its start; after a FAULT the stroke fault GANTRY is recorded with the cursors, and the program is over with the park
MOVE outstanding, timed from an unknown reference point. (The close at an entry into HALT is HaltEntriesStopLine's.) -/
def Obligations.ValveCloseDrawsFromLot : Prop :=
  (∀ (s : State) (v : OpenValve) (n : Nat) (m : Lot), s.engine.valve = some v →
    nth s.lots.map v.head = some (some n) → nth s.lots.records n = some (some m) →
    let drawn (u : State) (a : Nat) (changed : List Part) : Prop :=
      let low : Bool := decide (m.remaining - a < m.lowLimit) && !m.lowWarned
      Happened s u (if low then [.lotLow m.head n m.id (m.remaining - a) m.lowLimit] else [])
          ([.lots, .engine] ++ changed) ∧
        LotBecomes s u n { m with
          remaining := m.remaining - a, dispensed := m.dispensed + a, lowWarned := m.lowWarned || low } s.lots ∧
        u.engine = { s.engine with valve := none, lastClose := some s.io.seconds }
    (∃ u, exec .valveTimerExpiry s = .next u ∧ drawn u (v.flow * v.duration) []) ∧
    (s.io.estop = false →
      ∃ u, exec .estopAssertion s = .next u ∧ drawn u (v.flow * v.openMs) [.clock] ∧
        u.io.estop = true ∧ u.io.estopHanded = true ∧ u.mode = s.mode ∧ u.io.timeouts = s.io.timeouts ∧
        u.io.seconds = s.io.seconds ∧ u.io.sensors = s.io.sensors)) ∧
  (∀ (s : State) (o : Outstanding) (head speed t n : Nat) (x y : Int) (r : Traveler) (w : StrokeWork)
    (l : GantryLimits) (b : Point) (v : OpenValve) (m : Lot), s.engine.port = .waiting o →
    o.message = .pass head x y speed → o.target = some b → s.engine.valve = some v → s.engine.cell = .running →
    s.engine.board = some t → s.traveler t = some r → s.engine.work = some w → s.engine.limits = some l →
    nth s.lots.map v.head = some (some n) → nth s.lots.records n = some (some m) →
    let a := v.flow * v.openMs
    let low : Bool := decide (m.remaining - a < m.lowLimit) && !m.lowWarned
    let warned : List NoticeKind := if low then [.lotLow m.head n m.id (m.remaining - a) m.lowLimit] else []
    let drawn (u : State) : Prop :=
      LotBecomes s u n { m with
        remaining := m.remaining - a, dispensed := m.dispensed + a, lowWarned := m.lowWarned || low } s.lots
    let diagonal : Nat := ceilDiv (distance { x := l.xMin, y := l.yMin, z := l.zMin }
      { x := l.xMax, y := l.yMax, z := l.zMax } * 1000) l.parkSpeed
    (∀ p e, w.passes[r.passCursor + 1]? = some (p, e) →
      ∃ u, exec .passDone s = .next u ∧ Happened s u warned [.table, .lots, .engine] ∧ drawn u ∧
        Rewritten s u t { r with passCursor := r.passCursor + 1 } s.table ∧
        u.engine = { s.engine with
          valve := none, lastClose := some s.io.seconds, reference := some b,
          work := some { w with phase := .toStart },
          port := awaitingAnswer s (.move w.head p w.transit) p (ceilDiv (distance b p * 1000) w.transit) }) ∧
    (∀ code, r.coat.faults = 0 → s.leaving t = false → r.holds = [] →
      let d : HoldDetail := .strokeFault r.strokeCursor r.passCursor (.gantry code)
      ∃ u, exec (.gantryFault code) s = .next u ∧
        Happened s u
          (warned ++ [.holdRaised r.tag t .strokeFault .strokeEngine .spray (s.holds.levelOf .strokeFault) (some d)])
          [.table, .lots, .engine] ∧ drawn u ∧
        Rewritten s u t
          { r with program := .done, holds := [newHold s s.io.seconds .strokeFault .strokeEngine .spray d], coat :=
            { run := r.coat.run, skipped := r.coat.skipped, faults := 1,
              first := some ⟨r.strokeCursor, r.passCursor, .gantry code⟩ } } s.table ∧
        u.engine = { s.engine with
          valve := none, lastClose := some s.io.seconds, lastFault := some code, reference := none, cell := .parking,
          work := none, port := awaitingAnswer s (.move 0 l.park l.parkSpeed) l.park diagonal }))

/-! ### The dispense arithmetic (chapter 6) -/

/-- The effective flow (R100): floor(Q_ref × (100·P − D·age) / (100·P)), raised to 1 where the floor is 0; it does not
rise with the age, equals Q_ref with D = 0, lies between floor(Q_ref × (100 − D) / 100) and Q_ref apart from the
raise, and the raise takes effect only for a Q_ref of 1. Fan width, head speed and film (R101 to R103): the fan is
round(W_ref × z / z_ref) clamped to the head's [Wmin, Wmax]; the ideal speed is round(Q_eff × 100000 / (W × t)),
clamped to [vmin, vmax] with the clamp mark saying how; the film is round(Q_eff × 100000 / (W × v)); every rounding
is to nearest with a half up. Q_eff is the effective flow of R100 at the lot's age, and the verdict is that of R104
on the film. The deviation verdict (R104): THIN below floor(t × (100 − tol) / 100), HEAVY above floor(t × (100 +
tol) / 100), else NOMINAL; the target itself is NOMINAL. -/
def Obligations.FanSpeedFilmAndVerdict : Prop :=
  (∀ (flow pot derate age : Nat), 1 ≤ flow → 1 ≤ pot → derate ≤ 50 → age ≤ pot →
    let f := flow * (100 * pot - derate * age) / (100 * pot)
    effectiveFlow flow pot derate age = (if f = 0 then 1 else f) ∧
    (∀ b : Nat, age ≤ b → b ≤ pot → effectiveFlow flow pot derate b ≤ effectiveFlow flow pot derate age) ∧
    (derate = 0 → effectiveFlow flow pot derate age = flow) ∧
    flow * (100 - derate) / 100 ≤ f ∧ f ≤ flow ∧ (2 ≤ flow → flow / 2 ≤ f ∧ 1 ≤ f)) ∧
  (∀ (c : HeadConfig) (pot derate : Nat) (age : Int) (x : Stroke) (w : Window),
    1 ≤ c.height → c.fanMin ≤ c.fanMax → 1 ≤ c.fanMin → c.vMin ≤ c.vMax → 1 ≤ c.vMin → 1 ≤ w.thickness →
    let d := dispense c pot derate age x w
    let rounds (v a b : Nat) : Prop := 2 * v * b ≤ 2 * a + b ∧ 2 * a + b < 2 * (v + 1) * b
    ∃ fan ideal, rounds fan (c.fan * x.height) c.height ∧ rounds ideal (d.flow * 100000) (d.fan * w.thickness) ∧
      rounds d.film (d.flow * 100000) (d.fan * d.speed) ∧
      d.fan = max c.fanMin (min c.fanMax fan) ∧ d.speed = max c.vMin (min c.vMax ideal) ∧
      (d.mark = .clampedLow ↔ ideal < c.vMin) ∧ (d.mark = .clampedHigh ↔ c.vMax < ideal) ∧
      c.fanMin ≤ d.fan ∧ d.fan ≤ c.fanMax ∧ c.vMin ≤ d.speed ∧ d.speed ≤ c.vMax ∧
      d.flow = effectiveFlow c.flow pot derate age ∧ d.verdict = deviationOf w.thickness w.tolerance d.film) ∧
  (∀ (t tol film : Nat), tol ≤ 100 →
    (deviationOf t tol film = .thin ↔ film < t * (100 - tol) / 100) ∧
    (deviationOf t tol film = .heavy ↔ t * (100 + tol) / 100 < film) ∧
    (deviationOf t tol film = .nominal ↔ t * (100 - tol) / 100 ≤ film ∧ film ≤ t * (100 + tol) / 100) ∧
    deviationOf t tol t = .nominal)

/-- Pass length and duration (R105): L is the integer nearest to the root of Δx² + Δy² (never half-way), at least 1
where the start is not the end, and the same whichever end a pass starts from; the duration is ceil(L × 1000 / v).
Planned volumes (R106): Q_eff × duration per pass and n times that per stroke, in nL; both are at least 1 where the
stroke has length and passes. -/
def Obligations.PassLengthAndVolumes : Prop :=
  (∀ (x : Stroke),
    let n : Int := (x.startX - x.endX) ^ 2 + (x.startY - x.endY) ^ 2
    let len : Int := (passLength x : Nat)
    4 * n < (2 * len + 1) ^ 2 ∧ (len = 0 ∨ (2 * len - 1) ^ 2 < 4 * n) ∧
    ((x.startX ≠ x.endX ∨ x.startY ≠ x.endY) → 1 ≤ passLength x) ∧
    (∀ k, let p := x.passPoints k
      (p.1.1 - p.2.1) ^ 2 + (p.1.2 - p.2.2) ^ 2 = n) ∧
    ∀ (c : HeadConfig) (pot derate : Nat) (age : Int) (w : Window), 1 ≤ c.vMin → c.vMin ≤ c.vMax →
      let d := dispense c pot derate age x w
      passLength x * 1000 ≤ d.duration * d.speed ∧ d.duration * d.speed < passLength x * 1000 + d.speed) ∧
  (∀ (c : HeadConfig) (pot derate : Nat) (age : Int) (x : Stroke) (w : Window),
    let d := dispense c pot derate age x w
    d.passVolume = d.flow * d.duration ∧ d.strokeVolume = x.passes * d.passVolume ∧
      ((x.startX ≠ x.endX ∨ x.startY ≠ x.endY) → 1 ≤ c.vMin → c.vMin ≤ c.vMax → 1 ≤ c.flow → 1 ≤ pot → derate ≤ 50 →
        0 ≤ age → age ≤ pot → 1 ≤ x.passes → 1 ≤ d.flow ∧ 1 ≤ d.duration ∧ 1 ≤ d.strokeVolume))

/-! ### Flash-off, the oven and the dose (chapters 7 and 8) -/

/-- SET_OVEN_SPEED (R121): a speed outside 10 to 2000 is answered INVALID, and HALT refuses MODE; otherwise the speed
clamped into I becomes the setpoint, answered OK where the clamp leaves it and CLAMPED with the value applied where
it changes it; the output follows unless the oven is stalled, at 5 mV per mm/min (R180), and SPEED_CHANGED is posted
where the setpoint changes. The speed range of a board (R113): ceil(L × 60 / dwell maximum) to floor(L × 60 / dwell
minimum) with L in mm, each clamped to the belt drive's [10, 2000], or unreachable where they are crossed. -/
def Obligations.OvenSpeedAndRange : Prop :=
  (∀ (s : State) (q : Req) (v : Nat), s.Takes q 1 →
    ((v < 10 ∨ 2000 < v) → ∃ u, exec (.setOvenSpeed q v) s = .next u ∧ Done s u q 31 .invalid [] [] []) ∧
    (10 ≤ v → v ≤ 2000 → s.mode = .halt →
      ∃ u, exec (.setOvenSpeed q v) s = .next u ∧ Done s u q 31 .mode [] [] []) ∧
    (10 ≤ v → v ≤ 2000 → s.mode ≠ .halt → s.cure.rangeLow ≤ s.cure.rangeHigh →
      let a := max s.cure.rangeLow (min s.cure.rangeHigh v)
      ∃ u, exec (.setOvenSpeed q v) s = .next u ∧
        Done s u q 31 (if a = v then .ok else .clamped) (if a = v then [] else [u2 a])
          (if s.cure.setpoint = a then [] else [.speedChanged s.cure.setpoint a .request]) [.cure] ∧
        u.cure = { s.cure with setpoint := a, output := if s.cure.stalled then 0 else a } ∧
        u.cure.millivolts = if s.cure.stalled then 0 else 5 * a)) ∧
  (∀ (g : OvenGeometry) (h : Header) (mm : Nat), g.length = mm * 10 → 1 ≤ mm → 1 ≤ h.dwellMin → h.dwellMin ≤ h.dwellMax →
    ∃ lo hi, (lo - 1) * h.dwellMax < mm * 60 ∧ mm * 60 ≤ lo * h.dwellMax ∧
      hi * h.dwellMin ≤ mm * 60 ∧ mm * 60 < (hi + 1) * h.dwellMin ∧
      let a := max 10 (min 2000 lo)
      let b := max 10 (min 2000 hi)
      (a ≤ b → speedRange g h = some (a, b)) ∧ (b < a → speedRange g h = none))

/-- OVEN_ADMISSION (R116 to R118): with the conditions met, an ordinary admission takes the head of the flash list into
the oven list, lowers the end stop, makes the board PRESENT in CURE at lead position 0 with pass dose 0, narrows I
to the intersection, moves the setpoint to the nearer bound, and posts BOARD_STAGE and, where the setpoint moved,
SPEED_CHANGED; an overdue board whose range does not meet I is admitted forced with I unchanged, and one that is not
overdue waits; an EMPTY profile, and an unreachable range, force with CURE_UNVERIFIED raised first, detail PROFILE
or DWELL (opened, opened again or counted, R149), and I unchanged. (The flash time is the difference on the wrapping
count of line seconds by the model's choice, log 4.) (The hold set stands in reason order, R148, and no transfer to
the outfeed takes the board out of reach, R150.) No admission where a condition of R116 fails: HALT, 20 boards in
the oven, the end stop lowered, the flash-end sensor vacant, an empty flash list, a flash time of the head below its
flash minimum (0 for RE_CURE), or an entry not clear, the tail board's trailing edge less than the entry gap past
the oven entry. (The flash time is the difference on the wrapping count, the model's reading, log 4.) -/
def Obligations.OvenAdmissionForms : Prop :=
  (∀ (s : State) (t : Nat) (rest : List Nat) (g : OvenGeometry) (r : Traveler) (h : Header) (o : Option Profile)
    (range : Option (Nat × Nat)) (e : Seconds),
    s.mode ≠ .halt → s.cure.flash = t :: rest → t ∉ rest → s.cure.geometry = some g → s.traveler t = some r →
    (s.recipeOf r).header = some h → s.profileOf r = o → speedRange g h = range → s.cure.oven.length < 20 →
    s.entryClear g = true → s.cure.stopUp = true → s.occupied .flashEnd = true → r.sprayEnd = some e →
    s.flashMinimum r ≤ (s.io.seconds - e).toNat → s.cure.rangeLow ≤ s.cure.rangeHigh → s.leaving t = false →
    HoldsInOrder r.holds →
    let admitted (u : State) (f : ForcedForm) (hs : List Hold) (low high : Nat) : Prop :=
      let v := max low (min high s.cure.setpoint)
      Happened s u (raiseNotices r.tag t r.holds hs ++ [.boardStage r.tag t r.stage .cure .present] ++
          if s.cure.setpoint = v then [] else [.speedChanged s.cure.setpoint v .admission]) [.table, .cure] ∧
        u.cure = { s.cure with
          flash := rest, overdue := s.cure.overdue.filter (fun k => k != t), stopUp := false,
          oven := s.cure.oven ++ [{ traveler := t, stamp := s.io.seconds, range := range, form := f }],
          overCured := s.cure.overCured.filter (fun k => k != t), rangeLow := low, rangeHigh := high, setpoint := v,
          output := if s.cure.stalled then 0 else v } ∧
        Rewritten s u t
          { r with stage := .cure, place := .present, lead := some 0, passDose := 0, forced := f != .none,
                   holds := holdsAfterRaises r.holds hs } s.table
    let unverified (c : UnverifiedCause) : List Hold :=
      [newHold s s.io.seconds .cureUnverified .cureMonitor .flash (.unverified c)]
    (∀ p a b, o = some p → range = some (a, b) → max a s.cure.rangeLow ≤ min b s.cure.rangeHigh →
      ∃ u, exec .ovenAdmission s = .next u ∧
        admitted u .none [] (max s.cure.rangeLow a) (min s.cure.rangeHigh b)) ∧
    (∀ p a b, o = some p → range = some (a, b) → min b s.cure.rangeHigh < max a s.cure.rangeLow →
      (t ∈ s.cure.overdue → ∃ u, exec .ovenAdmission s = .next u ∧
        admitted u .overdue [] s.cure.rangeLow s.cure.rangeHigh) ∧
      (t ∉ s.cure.overdue → ∃ u, exec .ovenAdmission s = .next u ∧ Happened s u [] [])) ∧
    (o = none → ∃ u, exec .ovenAdmission s = .next u ∧
      admitted u .profile (unverified .profile) s.cure.rangeLow s.cure.rangeHigh) ∧
    (∀ p, o = some p → range = none → ∃ u, exec .ovenAdmission s = .next u ∧
      admitted u .dwell (unverified .dwell) s.cure.rangeLow s.cure.rangeHigh)) ∧
  (∀ (s : State), (s.mode = .halt ∨ 20 ≤ s.cure.oven.length ∨ s.cure.stopUp = false ∨ s.occupied .flashEnd = false ∨
      s.cure.flash = [] ∨ s.cure.geometry = none ∨
      (∃ t r h, s.cure.flash.head? = some t ∧ s.traveler t = some r ∧ (s.recipeOf r).header = some h ∧
        (r.sprayEnd = none ∨ ∃ e, r.sprayEnd = some e ∧ r.route ≠ .reCure ∧
          (s.io.seconds - e).toNat < h.flashMin)) ∨
      ∃ g e r h lead, s.cure.geometry = some g ∧ s.cure.oven.getLast? = some e ∧ s.traveler e.traveler = some r ∧
        (s.recipeOf r).header = some h ∧ r.lead = some lead ∧ (lead : Int) - h.length < g.gap) →
    ∃ u, exec .ovenAdmission s = .next u ∧ Happened s u [] [])

/-- SECOND_TICK (R128 to R131, R177): line seconds rises by one and wraps; every board in CURE accrues its dose and is
tested for over-cure, whatever its forced form: a board whose centre lies over a zone with a value gains the weight
of its band on both doses, saturating, and none below the base temperature; over a FAILED zone it gains nothing and
CURE_UNVERIFIED is raised, or counted; outside the oven it gains nothing; a board forced PROFILE gains 1 and is not
tested; a pass dose above Dmax, or a lifetime dose above Dlife, raises OVER_CURE and posts OVERCURE once. (That the
boards' notices come in the order of the oven list is the model's choice, log 24.) (The hold set stands in reason
order, R148, and no transfer to the outfeed takes the board out of reach, R150.) -/
def Obligations.SecondTickAccruesDose : Prop :=
  (∀ s : State, ∃ u, exec .secondTick s = .next u ∧
    u.io = { s.io with
      seconds := s.io.seconds + 1,
      outputs := { s.io.outputs with
        green := u.io.outputs.green, amber := u.io.outputs.amber, red := u.io.outputs.red } }) ∧
  (∀ s : State, s.cure.oven = [] → ∃ u, exec .secondTick s = .next u ∧ Happened s u [] [.clock] ∧
    u.io.seconds = s.io.seconds + 1) ∧
  ∀ (s : State) (outcomes : List TickOutcome), (s.cure.oven.map (·.traveler)).Nodup →
    List.Forall₂ (TickGives s) s.cure.oven outcomes →
    ∃ u, exec .secondTick s = .next u ∧ PostedAt (s.io.seconds + 1) s u (outcomes.flatMap (·.notices)) ∧
      SettingsKept s u ∧ FramesKept s u ∧ KeptBut s u [.table, .cure, .clock] ∧ u.io.seconds = s.io.seconds + 1 ∧
      (∀ e x, (e, x) ∈ s.cure.oven.zip outcomes → u.traveler e.traveler = some x.record) ∧
      (∀ n, (∀ e ∈ s.cure.oven, e.traveler ≠ n) → u.traveler n = s.traveler n) ∧
      u.table = { s.table with records := u.table.records } ∧
      u.cure = { s.cure with overCured := s.cure.overCured ++
        ((s.cure.oven.zip outcomes).filter fun x => x.2.marked).map fun x => x.1.traveler }

/-- SAMPLING_ROUND (R124, R125): each strapped zone's record takes its sample by the table of R125, ZONE_FAILED and
ZONE_RESTORED are posted in zone order, and nothing else changes; a channel that delivered nothing, an answer that
failed its check or was marked faulted, and a reading outside −50 to 450 are invalid samples; the value of a valid
one is the reading with its fraction dropped toward zero. (That the range is tested on the reading with its
fraction, before the fraction is dropped, is the model's choice, log 20.) -/
def Obligations.SamplingRoundChangesZones : Prop :=
  ∀ (s : State) (channels : List ChannelSignals), s.cure.zones.length = s.io.straps.zones →
    let sample (k : Nat) : Option Int :=
      match nth channels k with
      | none => none
      | some x =>
        if x.answered ∧ x.checked ∧ ¬ x.faulted ∧ -50 ≤ x.reading ∧ x.reading ≤ 450 then
          some (if 0 ≤ x.reading then ⌊x.reading⌋ else ⌈x.reading⌉) else none
    let after (z : Zone) (x : Option Int) : Zone :=
      match z.state, x with
      | .normal, some v => { z with last := some v }
      | .normal, none => { z with state := .holding, invalidRun := 1 }
      | .holding, some v => { z with state := .normal, invalidRun := 0, last := some v }
      | .holding, none =>
        if z.invalidRun < 19 then { z with invalidRun := z.invalidRun + 1 }
        else { z with state := .failed, invalidRun := z.invalidRun + 1, validRun := 0 }
      | .failed, some v =>
        if z.validRun < 3 then { z with last := some v, validRun := z.validRun + 1 }
        else { state := .normal, last := some v, invalidRun := 0, validRun := 0 }
      | .failed, none => { z with validRun := 0 }
    let notice (k : Nat) (z : Zone) : List NoticeKind :=
      match z.state, (after z (sample k)).state, (after z (sample k)).last with
      | .holding, .failed, v => [.zoneFailed k v]
      | .failed, .normal, some v => [.zoneRestored k v]
      | _, _, _ => []
    ∃ u, exec (.samplingRound channels) s = .next u ∧
      Happened s u ((List.range' 1 s.io.straps.zones).flatMap fun k =>
        match nth s.cure.zones k with | none => [] | some z => notice k z) [.cure] ∧
      (∀ k z, nth s.cure.zones k = some z → nth u.cure.zones k = some (after z (sample k))) ∧
      u.cure = { s.cure with zones := u.cure.zones }

/-- BELT_ADVANCE (R127, R134): every board in CURE advances by 0.1 mm, no other record changes, and the prescaler holds
its reload value; with the exit count below 2 nothing else happens; a board at the oven end with the exit count at 2
stalls the oven once: the output falls to 0 and OVEN_STALL names the board, the setpoint being kept. -/
def Obligations.BeltAdvanceMovesBoards : Prop :=
  ∀ s : State,
    (∃ u, exec .beltAdvance s = .next u ∧ u.cure.prescaler = s.io.timeouts.reload ∧
      u.cure.setpoint = s.cure.setpoint ∧
      (∀ t r, s.traveler t = some r → r.stage = .cure →
        u.traveler t = some { r with lead := r.lead.map (· + 1) }) ∧
      (∀ t r, s.traveler t = some r → r.stage ≠ .cure → u.traveler t = some r) ∧
      (∀ t, s.traveler t = none → u.traveler t = none) ∧
      u.table = { s.table with records := u.table.records } ∧
      (s.exitCount < 2 ∨ s.mode = .halt ∨ s.cure.stalled = true → Happened s u [] [.table, .cure] ∧
        u.cure = { s.cure with prescaler := s.io.timeouts.reload })) ∧
    (∀ e rest g r lead, s.cure.oven = e :: rest → s.cure.geometry = some g → s.traveler e.traveler = some r →
      r.stage = .cure → r.lead = some lead → g.length ≤ lead + 1 → s.mode ≠ .halt → s.cure.stalled = false →
      2 ≤ s.exitCount →
      ∃ u, exec .beltAdvance s = .next u ∧ Happened s u [.ovenStall r.tag e.traveler] [.table, .cure] ∧
        u.cure = { s.cure with prescaler := s.io.timeouts.reload, stalled := true, output := 0 })

/-- OVEN_EXIT_MOVE (R120, R132, R135): outside HALT with the exit count below 2, the head of the oven list at the oven
end becomes PRESENT in OVEN_EXIT at the tail of the exit list, its lead position absent and I recomputed from the
rest; UNDER_CURE is raised (opened, opened again or counted) where its pass dose is below Dreq, for every forced
form but PROFILE, which has no verdict; and a stall ends with OVEN_RESUME last. Otherwise it stays. (The hold set
stands in reason order, R148, and no transfer to the outfeed takes the board out of reach, R150.) -/
def Obligations.OvenExitMoveJudgesDose : Prop :=
  ∀ (s : State) (e : OvenEntry) (rest : List OvenEntry) (g : OvenGeometry) (r : Traveler) (lead : Nat),
    s.cure.oven = e :: rest → (∀ x ∈ rest, x.traveler ≠ e.traveler) → s.cure.geometry = some g →
    s.traveler e.traveler = some r → r.lead = some lead →
    (g.length ≤ lead → s.mode ≠ .halt → s.exitCount < 2 → s.leaving e.traveler = false → HoldsInOrder r.holds →
      ∀ hs : List Hold,
      ((e.form = .profile ∧ hs = []) ∨
        (e.form ≠ .profile ∧ ∃ p, s.profileOf r = some p ∧ (p.required ≤ r.passDose → hs = []) ∧
          (r.passDose < p.required →
            hs = [newHold s s.io.seconds .underCure .cureMonitor .ovenExit (.underCure r.passDose p.required)]))) →
      ∃ u, exec .ovenExitMove s = .next u ∧
        Happened s u ([.boardStage r.tag e.traveler r.stage .ovenExit .present] ++
          raiseNotices r.tag e.traveler r.holds hs ++
          (if s.cure.stalled then [.ovenResume r.tag e.traveler s.cure.setpoint] else [])) [.table, .cure] ∧
        Rewritten s u e.traveler
          { r with stage := .ovenExit, place := .present, lead := none, holds := holdsAfterRaises r.holds hs }
          s.table ∧
        u.cure = { s.cure with
          exit := s.cure.exit ++ [e.traveler], oven := rest, stalled := false,
          rangeLow := (admittedRange rest).1, rangeHigh := (admittedRange rest).2,
          overCured := s.cure.overCured.filter (fun k => k != e.traveler),
          output := if s.cure.stalled then s.cure.setpoint else s.cure.output }) ∧
    ((lead < g.length ∨ s.mode = .halt ∨ 2 ≤ s.exitCount) →
      ∃ u, exec .ovenExitMove s = .next u ∧ Happened s u [] [])

/-! ### Holds and rework (chapter 10) -/

/-- PLACE_HOLD (R149 to R151): on a board that no diverter waits for, OPERATOR opens with the note, the requesting link,
the traveler's stage and the table's level, HOLD_RAISED is posted and OPENED answered with count 1; a RELEASED
record is replaced in the same way and answered REOPENED, its count 1 again; an OPEN record only counts, up to
65,535, keeping its note; a board on its way to the outfeed is refused STAGE. -/
def Obligations.PlaceHoldOpensOrCounts : Prop :=
  ∀ (s : State) (q : Req) (tag : Text) (note t : Nat) (r : Traveler), s.Takes q 2 → tagForm tag = true →
    note ≤ 65535 → s.tagged tag = some (t, r) →
    (s.leaving t = true → ∃ u, exec (.placeHold q tag note) s = .next u ∧ Done s u q 34 .stage [] [] []) ∧
    (s.leaving t = false → s.stationOf t = none → (∀ h ∈ r.holds, h.reason ≠ .operator) →
      ∃ u hs, exec (.placeHold q tag note) s = .next u ∧
        Done s u q 34 .ok [.word 0, u2 1]
          [.holdRaised r.tag t .operator (.link q.link) r.stage (s.holds.levelOf .operator) (some (.note note))]
          [.table] ∧
        Rewritten s u t { r with holds := hs } s.table ∧
        HoldAdded r.holds hs (newHold s s.io.seconds .operator (.link q.link) r.stage (.note note))) ∧
    (∀ h : Hold, s.leaving t = false → s.stationOf t = none → r.holds = [h] → h.reason = .operator →
      h.state = .released →
      ∃ u, exec (.placeHold q tag note) s = .next u ∧
        Done s u q 34 .ok [.word 1, u2 1]
          [.holdRaised r.tag t .operator (.link q.link) r.stage (s.holds.levelOf .operator) (some (.note note))]
          [.table] ∧
        Rewritten s u t
          { r with holds := [newHold s s.io.seconds .operator (.link q.link) r.stage (.note note)] } s.table) ∧
    (∀ h : Hold, s.leaving t = false → r.holds = [h] → h.reason = .operator → h.state = .isOpen →
      ∃ u, exec (.placeHold q tag note) s = .next u ∧
        Done s u q 34 .ok [.word 2, u2 (min (h.count + 1) 65535 : Nat)] [] [.table] ∧
        Rewritten s u t { r with holds := [{ h with count := min (h.count + 1) 65535 }] } s.table)

/-- RELEASE_HOLD (R152): an OPEN record whose release level is no lower than the effective level becomes RELEASED with
the releasing link and line second, and HOLD_RELEASED is posted; a level below the effective one is refused LEVEL
with the record's level, and no OPEN record of the reason NOT_FOUND with the reason; neither changes anything. (On a
board that no diverter waits for.) RELEASE_HOLD_ALL (R153): every OPEN record that the effective level allows is
released, in set order, one HOLD_RELEASED for each; the answer lists the reasons released and those left open. With
no OPEN record the answer is NOT_FOUND, and with none allowed LEVEL with the reasons left open. (Shown for a set of
two, no diverter waiting.) -/
def Obligations.ReleaseNeedsLevel : Prop :=
  (∀ (s : State) (q : Req) (tag : Text) (t : Nat) (r : Traveler) (h : Hold), s.Takes q 3 → tagForm tag = true →
    s.tagged tag = some (t, r) →
    let eff := max (s.strapped q.link) q.level
    (r.holds = [h] → h.state = .isOpen → eff ≤ h.level → s.stationOf t = none →
      ∃ u, exec (.releaseHold q tag h.reason.code) s = .next u ∧
        Done s u q 35 .ok [] [.holdReleased r.tag t h.reason q.link eff h.count] [.table] ∧
        Rewritten s u t { r with holds :=
          [{ h with state := .released, releasedBy := some q.link, releasedStamp := some s.io.seconds }] } s.table) ∧
    (r.holds = [h] → h.state = .isOpen → h.level < eff →
      ∃ u, exec (.releaseHold q tag h.reason.code) s = .next u ∧ Done s u q 35 .level [u1 h.level] [] []) ∧
    (∀ k : HoldReason, (∀ g ∈ r.holds, g.reason = k → g.state = .released) →
      ∃ u, exec (.releaseHold q tag k.code) s = .next u ∧ Done s u q 35 .notFound [.word k.code] [] [])) ∧
  (∀ (s : State) (q : Req) (tag : Text) (t : Nat) (r : Traveler) (g h : Hold), s.Takes q 3 → tagForm tag = true →
    s.tagged tag = some (t, r) → r.holds = [g, h] → g.reason ≠ h.reason → g.reason.code < h.reason.code →
    s.stationOf t = none →
    let eff := max (s.strapped q.link) q.level
    let closed (x : Hold) : Hold :=
      { x with state := .released, releasedBy := some q.link, releasedStamp := some s.io.seconds }
    (g.state = .isOpen → h.state = .isOpen → eff ≤ g.level → eff ≤ h.level →
      ∃ u, exec (.releaseHoldAll q tag) s = .next u ∧
        Done s u q 35 .ok [.count 2, .word g.reason.code, .word h.reason.code, .count 0]
          [.holdReleased r.tag t g.reason q.link eff g.count, .holdReleased r.tag t h.reason q.link eff h.count]
          [.table] ∧
        Rewritten s u t { r with holds := [closed g, closed h] } s.table) ∧
    (g.state = .isOpen → h.state = .isOpen → g.level < eff → eff ≤ h.level →
      ∃ u, exec (.releaseHoldAll q tag) s = .next u ∧
        Done s u q 35 .ok [.count 1, .word h.reason.code, .count 1, .word g.reason.code]
          [.holdReleased r.tag t h.reason q.link eff h.count] [.table] ∧
        Rewritten s u t { r with holds := [g, closed h] } s.table) ∧
    (g.state = .isOpen → h.state = .isOpen → g.level < eff → h.level < eff →
      ∃ u, exec (.releaseHoldAll q tag) s = .next u ∧
        Done s u q 35 .level [.count 2, .word g.reason.code, .word h.reason.code] [] []) ∧
    (g.state = .released → h.state = .released →
      ∃ u, exec (.releaseHoldAll q tag) s = .next u ∧ Done s u q 35 .notFound [] [] []))

/-- DISPOSE by re-entry (R157 to R160): a board PRESENT on the shelf with no OPEN hold goes back to the tail of the
infeed queue QUEUED and PRESENT with its slot free; REDO_FULL and TOUCH_UP clear verdicts, offset, program, coat
summary and spray end stamp, REDO_FULL alone the pass dose; RE_CURE clears the coverage verdicts only; all three
keep the lifetime dose, and the RELEASED holds are gone. (No diverter waits.) -/
def Obligations.DisposeReturnsBoardToQueue : Prop :=
  ∀ (s : State) (q : Req) (tag : Text) (t n : Nat) (r : Traveler) (d : DispositionField) (route : Route),
    s.Takes q 2 → tagForm tag = true → s.tagged tag = some (t, r) → r.stage = .shelved → r.place = .present →
    (∀ h ∈ r.holds, h.state = .released) → s.mode ≠ .drain → s.occupancy < 4 → s.mask.pre = none →
    s.mask.post = none → s.stationOf t = none → nth s.holds.shelf n = some (.resting t) →
    ((d = .redoFull ∧ route = .full) ∨
      (∃ f l, d = .touchUp f l ∧ route = .touchUp f l ∧ 1 ≤ f ∧ f ≤ l ∧ l ≤ (s.recipeOf r).strokes.length) ∨
      (d = .reCure ∧ route = .reCure)) →
    let cleared : Traveler :=
      { r with route := route, stage := .queued, place := .present, shelfSlot := none, holds := [],
               coverage := List.replicate (s.recipeOf r).windows.length .unchecked }
    ∃ u, exec (.dispose q tag d) s = .next u ∧
      Done s u q 36 .ok [] [.boardStage r.tag t .shelved .queued .present] [.table, .holds] ∧
      Rewritten s u t
        (if route = .reCure then cleared
         else
          { cleared with sites := List.replicate (s.recipeOf r).sites.length .unchecked, fiducial := none,
                         program := .notStarted, strokeCursor := 0, passCursor := 0,
                         coat := { run := 0, skipped := 0, faults := 0, first := none }, sprayEnd := none,
                         passDose := if route = .full then 0 else r.passDose })
        { s.table with queue := s.table.queue ++ [t] } ∧
      nth u.holds.shelf n = some .free ∧
      (∀ m, nth s.holds.shelf m ≠ some (.resting t) → nth s.holds.shelf m ≠ some (.assigned t) →
        nth u.holds.shelf m = nth s.holds.shelf m) ∧
      u.holds.levels = s.holds.levels

/-- DISPOSE by retirement (R19, R161): ACCEPT of a board with no OPEN hold, and SCRAP whatever its holds, retire it: its
record is free and its number at the tail of the free list, its tag out of the index, its recipe slot's use count
one lower, its shelf slot free, and BOARD_RETIRED posted with the outcome; no HOLD_RELEASED is posted. (No board
waits at a diverter.) DISPOSE refused, in the order of R157: INVALID for a word that is none of the five
dispositions; then, for each of the five, LEVEL below the disposition's own level, STAGE for a board that is not
PRESENT on the shelf, INVALID for a TOUCH_UP range outside the recipe's strokes, HOLDS_OPEN with the reasons of the
OPEN records for any disposition but SCRAP, and for each re-entry MODE in DRAIN and FULL at an occupancy of 4; a
refusal changes nothing. -/
def Obligations.DisposeRetiresOrRefuses : Prop :=
  (∀ (s : State) (q : Req) (tag : Text) (t n : Nat) (r : Traveler) (x : RecipeSlot) (d : DispositionField)
    (o : RetireOutcome), tagForm tag = true → s.tagged tag = some (t, r) → r.stage = .shelved → r.place = .present →
    s.mask.pre = none → s.mask.post = none → nth s.holds.shelf n = some (.resting t) →
    nth s.recipes.slots r.recipe = some x →
    ((d = .accept ∧ o = .accepted ∧ s.Takes q 0 ∧ ∀ h ∈ r.holds, h.state = .released) ∨
      (d = .scrap ∧ o = .scrapped ∧ s.Takes q 1)) →
    ∃ u, exec (.dispose q tag d) s = .next u ∧
      Done s u q 36 .ok [] [.boardRetired r.tag t o] [.table, .recipes, .engine, .cure, .holds, .clock] ∧
      u.traveler t = none ∧ (∀ k, k ≠ t → u.traveler k = s.traveler k) ∧
      u.table = { s.table with
        records := u.table.records, free := s.table.free ++ [t],
        index := s.table.index.filter (fun e => e.2 != t), queue := s.table.queue.filter (fun k => k != t),
        transfers := s.table.transfers.filter (fun e => e.traveler != t) } ∧
      SlotBecomes s u r.recipe { x with useCount := x.useCount - 1 } ∧
      nth u.holds.shelf n = some .free ∧
      (∀ m, nth s.holds.shelf m ≠ some (.resting t) → nth s.holds.shelf m ≠ some (.assigned t) →
        nth u.holds.shelf m = nth s.holds.shelf m) ∧
      u.holds.levels = s.holds.levels ∧ OutputsBecome s u s.io.outputs ∧
      (s.engine.board ≠ some t → u.engine = s.engine) ∧
      (t ∉ s.cure.flash → t ∉ s.cure.overdue → t ∉ s.cure.exit → (∀ e ∈ s.cure.oven, e.traveler ≠ t) →
        u.cure = s.cure)) ∧
  (∀ (s : State) (q : Req) (tag : Text) (t : Nat) (r : Traveler), s.Takes q 2 → tagForm tag = true →
    s.tagged tag = some (t, r) →
    let eff := max (s.strapped q.link) q.level
    let answers (d : DispositionField) (w : Status) (fields : List Field) : Prop :=
      ∃ u, exec (.dispose q tag d) s = .next u ∧ Done s u q 36 w fields [] []
    let need (d : DispositionField) : Nat := if d = .accept then 0 else if d = .scrap then 1 else 2
    let ranged (d : DispositionField) : Prop :=
      ∀ f l, d = .touchUp f l → 1 ≤ f ∧ f ≤ l ∧ l ≤ (s.recipeOf r).strokes.length
    (∀ c, answers (.other c) .invalid []) ∧
    ∀ d, (∀ c, d ≠ .other c) →
      (need d < eff → answers d .level []) ∧
      (eff ≤ need d → (r.stage ≠ .shelved ∨ r.place ≠ .present) → answers d .stage []) ∧
      (eff ≤ need d → r.stage = .shelved → r.place = .present →
        (¬ ranged d → answers d .invalid []) ∧
        (ranged d →
          (d ≠ .scrap → (∃ h ∈ r.holds, h.state = .isOpen) → answers d .holdsOpen
            (listOf (fun h => [.word h.reason.code]) (r.holds.filter fun h => h.state == .isOpen))) ∧
          (d ≠ .accept → d ≠ .scrap → (∀ h ∈ r.holds, h.state = .released) →
            (s.mode = .drain → answers d .mode []) ∧
            (s.mode ≠ .drain → 4 ≤ s.occupancy → answers d .full [])))))

/-! ### Station links (chapter 11) -/

/-- A request refused by its owner changes nothing (R167): whatever the request, if its answer's status is neither OK
nor CLAMPED, no notice is posted and every part of the block is as it was, except that a FinishRecipe answered
INVALID empties its recipe slot (R31). -/
def Obligations.RefusedRequestChangesNothing : Prop :=
  ∀ (i : Instr) (s u : State) (q : Req) (code : Nat) (body : List Field) (a : Answer),
    requestParts i = some (q, code, body) → exec i s = .next u →
    (u.link q.link).answers = (s.link q.link).answers ++ [a] → a.status ≠ .ok → a.status ≠ .clamped →
    Posted s u [] ∧ SettingsKept s u ∧ OthersKept q.link s u ∧
      KeptBut s u (if code = 14 ∧ a.status = .invalid then [.recipes] else [])

/-- What the interface itself answers a request with, whatever the request (R164 to R166): a frame that meets a full
answer list is discarded; one that meets a request in service is answered LINK_BUSY; one with a level field above 3
FORMAT; one whose effective level is too weak LEVEL with the required level; none of them is carried out. The level
each request needs of its link (request index of 11.3, R166): a request that is not held up by its link is answered
LEVEL where its effective level is numerically greater than this one; for RELEASE_HOLD it is 3 and for DISPOSE 2,
their owners checking again. -/
def Obligations.InterfaceAnswersUntakenRequest : Prop :=
  (∀ (i : Instr) (s : State) (q : Req) (code : Nat) (body : List Field), requestParts i = some (q, code, body) →
    let x := s.link q.link
    let held : Nat := if x.inService then 1 else 0
    let bare (u : State) (w : Status) (level : Nat) (fields : List Field) : Prop :=
      (u.link q.link).answers = x.answers ++
        [{ code := code, level := level, corr := q.corr, status := w, fields := fields }] ∧
      Posted s u [] ∧ SettingsKept s u ∧ OthersKept q.link s u ∧ KeptBut s u []
    (8 ≤ x.answers.length + held → ∃ u, exec i s = .next u ∧ (u.link q.link).answers = x.answers ∧
      Posted s u [] ∧ SettingsKept s u ∧ OthersKept q.link s u ∧ KeptBut s u []) ∧
    (x.answers.length + held < 8 → (x.inService = true ∨ q.overlaps = true) →
      ∃ u, exec i s = .next u ∧ bare u .linkBusy (s.strapped q.link) []) ∧
    (x.answers.length < 8 → x.inService = false → q.overlaps = false → 3 < q.level →
      ∃ u, exec i s = .next u ∧ bare u .format (s.strapped q.link) []) ∧
    (x.answers.length < 8 → x.inService = false → q.overlaps = false → q.level ≤ 3 →
      max (s.strapped q.link) q.level = 3 → code ∈ [1, 2, 3, 5, 31] →
      ∃ u, exec i s = .next u ∧ bare u .level 3 [u1 1])) ∧
  (∀ (i : Instr) (s : State) (q : Req) (code : Nat) (body : List Field), requestParts i = some (q, code, body) →
    (s.link q.link).answers.length < 8 → (s.link q.link).inService = false → q.overlaps = false → q.level ≤ 3 →
    let need : Nat :=
      if code ∈ [6, 10, 11, 12, 13, 14, 15, 17, 18, 19, 29, 30, 33, 43] then 0
      else if code ∈ [1, 2, 3, 5, 31] then 1
      else if code ∈ [4, 20, 21, 23, 24, 25, 26, 27, 28, 34, 36] then 2
      else 3
    need < max (s.strapped q.link) q.level →
    ∃ u, exec i s = .next u ∧
      Answered s u q code .level [u1 need] ∧ Posted s u [] ∧ KeptBut s u [])

/-- A frame carries its request and nothing is lost in it (R162, R164): reading the body a well-formed request is sent
with gives that request back. -/
def Obligations.RequestBodyReadsBack : Prop :=
  ∀ (i : Instr) (q : Req) (code : Nat) (body : List Field), i.wellFormed = true →
    requestParts i = some (q, code, body) → readRequest q code (bodyBytes body) = some i

/-- Reception of a frame (R163): from the start mark on, the bytes of a request's frame, received one after another,
complete it at their last byte as the command it stands for, and the interface searches again; before the last byte
no command arises. A frame whose CRC differs in its last byte is discarded. -/
def Obligations.FrameBytesCompleteRequest : Prop :=
  ∀ (i : Instr) (q : Req) (code : Nat) (body : List Field) (pre : List Byte) (last : Byte),
    i.wellFormed = true → requestParts i = some (q, code, body) → q.overlaps = false →
    (bodyBytes body).length ≤ 2048 →
    frameBytes code q.level q.corr (bodyBytes body) = startMark :: (pre ++ [last]) →
    let run (l : List Byte) : Reception × List Instr :=
      l.foldl (fun x b => ((receiveByte q.link x.1 b).1, x.2 ++ (receiveByte q.link x.1 b).2.toList)) (.inFrame [] 0, [])
    (run (pre ++ [last])).1 = .searching ∧ (run (pre ++ [last])).2 = [i] ∧ (run pre).2 = [] ∧
      ∀ b, b ≠ last → (run (pre ++ [b])).2 = [.frameDiscarded q.link .badCrc]

/-- Frames and answers at a link (R163 to R165): a start mark met while SEARCHING enters a frame; a discarded frame and
an inter-byte timeout leave no answer and return to SEARCHING; a complete frame that is no request is answered
FORMAT with the strapped level and its code and correlation; the head answer leaves the list. -/
def Obligations.LinkFramesAndAnswers : Prop :=
  ∀ (s : State) (l : Link) (cause : DiscardCause) (q : Req) (code : Nat),
    let kept (u : State) (k : Link) : Prop := Posted s u [] ∧ SettingsKept s u ∧ OthersKept k s u ∧ KeptBut s u []
    ((s.link l).reception = .searching → ∃ u, exec (.startMarkReceived l) s = .next u ∧ kept u l ∧
      u.link l = { s.link l with reception := .inFrame [] 0 }) ∧
    (∃ u, exec (.frameDiscarded l cause) s = .next u ∧ kept u l ∧ u.link l = { s.link l with reception := .searching }) ∧
    (∃ u, exec (.interByteTimeout l) s = .next u ∧ kept u l ∧ u.link l = { s.link l with reception := .searching }) ∧
    ((s.link q.link).answers.length < 8 → (s.link q.link).inService = false → q.overlaps = false →
      ∃ u, exec (.badFrame q code) s = .next u ∧ kept u q.link ∧
        u.link q.link = { s.link q.link with reception := .searching, answers := (s.link q.link).answers ++
          [{ code := code, level := s.strapped q.link, corr := q.corr, status := .format, fields := [] }] }) ∧
    (∀ a rest, (s.link l).answers = a :: rest → (s.link l).inService = false →
      ∃ u, exec (.answerSent l) s = .next u ∧ kept u l ∧ u.link l = { s.link l with answers := rest })

/-- Posting a notice (R169, R170, R174), seen at a Start taken in DRAIN with no record at the pre-inspection station:
the serial counter rises by one, and of each link that has subscribed to LINE the queue gains the notice at its tail
where it holds fewer than 32; where it holds 32 it is kept and the overrun marker set. TAKE (R172, R174): of up to 8
short notices as many as asked for, or all, leave the head of the requesting link's queue oldest first; the answer
carries their number, the depth left and the marker as it stood, and the marker is then clear; n outside 1 to 8 is
answered INVALID. (Short: each at most 250 bytes, so that 8 fit in an answer body.) -/
def Obligations.NoticePostedToSubscribers : Prop :=
  (∀ (s : State) (q : Req), s.Takes q 1 → s.mode = .drain → s.mask.pre = none →
    ∃ u, exec (.start q) s = .next u ∧ u.links.serial = s.links.serial + 1 ∧
      ∀ l, let x := s.link l
        let n : Notice := { serial := s.links.serial + 1, stamp := s.io.seconds, kind := .modeChanged .drain .run }
        (.line ∈ x.subs → x.queue.length < 32 → (u.link l).queue = x.queue ++ [n] ∧ (u.link l).overrun = x.overrun ∧
          (u.link l).attention = (decide (x.trigger ≤ x.queue.length + 1) || x.queue.any fun m => m.kind.cls == .alarm)) ∧
        (.line ∈ x.subs → 32 ≤ x.queue.length → (u.link l).queue = x.queue ∧ (u.link l).overrun = true) ∧
        (.line ∉ x.subs → (u.link l).queue = x.queue ∧ (u.link l).overrun = x.overrun ∧
          (u.link l).attention = x.attention)) ∧
  (∀ (s : State) (q : Req) (n : Nat), s.Takes q 3 →
    ((n = 0 ∨ 8 < n) → ∃ u, exec (.take q n) s = .next u ∧ Done s u q 38 .invalid [] [] []) ∧
    (1 ≤ n → n ≤ 8 → (∀ x ∈ (s.link q.link).queue, x.size ≤ 250) →
      let x := s.link q.link
      let k := min n x.queue.length
      ∃ u, exec (.take q n) s = .next u ∧
        Answered s u q 38 .ok ([u1 k, u1 (x.queue.length - k : Nat), .word (if x.overrun then 1 else 0)] ++
          (x.queue.take k).flatMap Notice.fields) ∧
        KeptBut s u [] ∧ OthersKept q.link s u ∧ SettingsKept s u ∧ u.links.serial = s.links.serial ∧
        (u.link q.link).queue = x.queue.drop k ∧ (u.link q.link).overrun = false ∧
        (u.link q.link).attention =
          (decide (x.trigger ≤ x.queue.length - k) || (x.queue.drop k).any fun m => m.kind.cls == .alarm) ∧
        (∀ l, l ≠ q.link → u.link l = s.link l)))

/-- SUBSCRIBE (R171): SET adds the named classes to the requesting link's set and CLEAR removes them, a class not named
keeping its membership; the answer carries the resulting set, and no other link changes. An unknown mode or class
word is answered INVALID with the set unchanged. (The order of the classes in the answer is the model's choice, log
12.) SET_TRIGGER (R173, R174): the requesting link's trigger level becomes k, 1 to 32, its attention output is
judged again at once, and OK is answered with the depth; a k outside the range is answered INVALID with the level
unchanged. RESTART (R70, R175): the requesting link's queue and set are empty, its trigger level is 1 and its marker
clear, its attention output falls; the claim it holds at either station, or at both, is dropped with the inspection
as it stands, another link's claim is kept, and the number dropped is answered; no notice is posted and no other
link changes. -/
def Obligations.NoticeSettingsChange : Prop :=
  (∀ (s : State) (q : Req) (named : List NoticeClass), s.Takes q 3 → named.length ≤ 6 →
    (∀ mode : Nat, mode ≤ 1 →
      ∃ u, exec (.subscribe q mode (named.map NoticeClass.code)) s = .next u ∧
        Answered s u q 37 .ok (classFields (u.link q.link).subs) ∧ KeptBut s u [] ∧ OthersKept q.link s u ∧
        u.links.serial = s.links.serial ∧
        (∀ c, c ∈ (u.link q.link).subs ↔
          if mode = 0 then c ∈ (s.link q.link).subs ∨ c ∈ named else c ∈ (s.link q.link).subs ∧ c ∉ named) ∧
        (u.link q.link).queue = (s.link q.link).queue ∧ (u.link q.link).trigger = (s.link q.link).trigger ∧
        (∀ l, l ≠ q.link → u.link l = s.link l)) ∧
    (∀ mode : Nat, 1 < mode → ∃ u, exec (.subscribe q mode (named.map NoticeClass.code)) s = .next u ∧
      Done s u q 37 .invalid [] [] []) ∧
    (∀ (mode : Nat) (words : List Nat), (∃ c ∈ words, 5 < c) →
      ∃ u, exec (.subscribe q mode words) s = .next u ∧ Done s u q 37 .invalid [] [] [])) ∧
  (∀ (s : State) (q : Req) (k : Nat), s.Takes q 3 →
    (1 ≤ k → k ≤ 32 → ∃ u, exec (.setTrigger q k) s = .next u ∧
      Answered s u q 40 .ok [u1 (s.link q.link).queue.length] ∧ KeptBut s u [] ∧ Posted s u [] ∧
      (u.link q.link).trigger = k ∧ (u.link q.link).subs = (s.link q.link).subs ∧
      ((u.link q.link).attention = true ↔
        k ≤ (s.link q.link).queue.length ∨ ∃ n ∈ (s.link q.link).queue, n.kind.cls = .alarm) ∧
      (∀ l, l ≠ q.link → u.link l = s.link l)) ∧
    ((k = 0 ∨ 32 < k) → ∃ u, exec (.setTrigger q k) s = .next u ∧ Done s u q 40 .invalid [] [] [])) ∧
  (∀ (s : State) (q : Req), s.Takes q 3 →
    ∃ u n, exec (.restart q) s = .next u ∧ Answered s u q 41 .ok [u1 n] ∧ KeptBut s u [.table] ∧
      (u.link q.link).queue = [] ∧ (u.link q.link).subs = [] ∧ (u.link q.link).trigger = 1 ∧
      (u.link q.link).overrun = false ∧ (u.link q.link).attention = false ∧
      u.links.serial = s.links.serial ∧ (∀ l, l ≠ q.link → u.link l = s.link l) ∧
      (s.mask.pre = none → s.mask.post = none → n = 0 ∧ u.table = s.table) ∧
      (∀ x y i t r, x ≠ y → s.record x = some i → s.record y = none → i.traveler = t → s.traveler t = some r →
        (r.claim = some q.link → n = 1 ∧ u.traveler t = some { r with claim := none } ∧
          ∀ m, m ≠ t → u.traveler m = s.traveler m) ∧
        (r.claim ≠ some q.link → n = 0 ∧ u.table = s.table)) ∧
      (∀ i j r k, s.mask.pre = some i → s.mask.post = some j → i.traveler ≠ j.traveler →
        s.traveler i.traveler = some r → s.traveler j.traveler = some k → r.claim = some q.link →
        k.claim = some q.link →
        n = 2 ∧ u.traveler i.traveler = some { r with claim := none } ∧
          u.traveler j.traveler = some { k with claim := none } ∧
          ∀ m, m ≠ i.traveler → m ≠ j.traveler → u.traveler m = s.traveler m))

/-! ### Line I/O and time base (chapter 12) -/

/-- The stack light after any command (R182): green blinks in DRAIN and is steady in RUN; amber blinks with no free slot
or with the oven stalled, and is else steady with an OPEN hold on a live traveler; red blinks in HALT for JAM and
GANTRY and is steady there for ESTOP and REQUEST; each is else dark. BLINK_TOGGLE (R178, R182): the blink phase
changes, in every line mode, and nothing else does; a blinking lamp is lit in the on phase and dark in the off
phase, a steady one lit in both. -/
def Obligations.StackLightFollowsLine : Prop :=
  (∀ (i : Instr) (s u : State), exec i s = .next u →
    (u.io.outputs.green = .blinking ↔ u.mode = .drain) ∧ (u.io.outputs.green = .steady ↔ u.mode = .run) ∧
    (u.io.outputs.amber = .blinking ↔ (∀ x ∈ u.holds.shelf, x ≠ .free) ∨ u.cure.stalled = true) ∧
    (u.io.outputs.amber = .steady ↔
      (∃ x ∈ u.holds.shelf, x = .free) ∧ u.cure.stalled = false ∧
        ∃ r, some r ∈ u.table.records ∧ ∃ h ∈ r.holds, h.state = .isOpen) ∧
    (u.io.outputs.red = .blinking ↔
      u.mode = .halt ∧ (u.table.cause = some .jam ∨ u.table.cause = some .gantry)) ∧
    (u.io.outputs.red = .steady ↔
      u.mode = .halt ∧ (u.table.cause = some .estop ∨ u.table.cause = some .request))) ∧
  ((∀ s : State, ∃ u, exec .blinkToggle s = .next u ∧ Happened s u [] [.clock] ∧ u.io.blinkOn = !s.io.blinkOn ∧
    u.io = { s.io with blinkOn := !s.io.blinkOn, outputs := u.io.outputs } ∧
    (s.LampsOk → u.io.outputs = s.io.outputs)) ∧
  (∀ phase, Lamp.lit phase .blinking = phase ∧ Lamp.lit phase .steady = true ∧ Lamp.lit phase .dark = false))

/-- SENSOR_CHANGE (R110, R179): the debounced reading of the sensor becomes the level, no other reading changes, and the
end stop rises when the flash-end sensor next reads vacant; no transfer ends here (TRANSFER_END is its own row). A
level the sensor already reads changes nothing. ESTOP_ASSERTION and ESTOP_RELEASE with no valve open (R181): an
assertion is recognised and handed to the traveler table, and the line mode stands until the table takes it; a
release moves nothing. -/
def Obligations.SensorsAndEstopRecognised : Prop :=
  (∀ (s : State) (x : Sensor) (level : Bool), x.exists? = true → s.io.sensors.length = 24 →
    (s.occupied x ≠ level →
      ∃ u, exec (.sensorChange x level) s = .next u ∧ Posted s u [] ∧ SettingsKept s u ∧ FramesKept s u ∧
        KeptBut s u [.cure, .clock] ∧ u.occupied x = level ∧
        (∀ y, y.exists? = true → y ≠ x → u.occupied y = s.occupied y) ∧
        u.io = { s.io with
          sensors := u.io.sensors, inputs := { s.io.inputs with sensors := u.io.inputs.sensors },
          outputs := { s.io.outputs with
            green := u.io.outputs.green, amber := u.io.outputs.amber, red := u.io.outputs.red } } ∧
        u.cure = { s.cure with stopUp := if x = .flashEnd ∧ level = false then true else s.cure.stopUp }) ∧
    (s.occupied x = level → ∃ u, exec (.sensorChange x level) s = .next u ∧ Happened s u [] [])) ∧
  (∀ s : State,
    (s.io.estop = false → s.engine.valve = none → ∃ u, exec .estopAssertion s = .next u ∧ Happened s u [] [.clock] ∧
      u.io.estop = true ∧ u.io.estopHanded = true ∧ u.mode = s.mode ∧ u.io.timeouts = s.io.timeouts ∧
      u.io.seconds = s.io.seconds ∧ u.io.sensors = s.io.sensors) ∧
    (s.io.estop = true → ∃ u, exec .estopRelease s = .next u ∧ Happened s u [] [.clock] ∧ u.io.estop = false ∧
      u.io.estopHanded = s.io.estopHanded ∧ u.mode = s.mode ∧ u.io.timeouts = s.io.timeouts ∧
      u.io.seconds = s.io.seconds ∧ u.io.sensors = s.io.sensors))
end

