-- ==== Sys2Proof/Laws/State.lean ====
section
/-! SUPPORT. One lemma per field per update of one block: what each update of `State` leaves and what it writes. -/

namespace Sys2Proof.Machine

variable (s : State)

@[simp] theorem onTable_pending (f : TravelerTable → TravelerTable) : (s.onTable f).pending = s.pending := rfl
@[simp] theorem onTable_table (f : TravelerTable → TravelerTable) : (s.onTable f).table = f s.table := rfl
@[simp] theorem onTable_recipes (f : TravelerTable → TravelerTable) : (s.onTable f).recipes = s.recipes := rfl
@[simp] theorem onTable_lots (f : TravelerTable → TravelerTable) : (s.onTable f).lots = s.lots := rfl
@[simp] theorem onTable_mask (f : TravelerTable → TravelerTable) : (s.onTable f).mask = s.mask := rfl
@[simp] theorem onTable_engine (f : TravelerTable → TravelerTable) : (s.onTable f).engine = s.engine := rfl
@[simp] theorem onTable_cure (f : TravelerTable → TravelerTable) : (s.onTable f).cure = s.cure := rfl
@[simp] theorem onTable_holds (f : TravelerTable → TravelerTable) : (s.onTable f).holds = s.holds := rfl
@[simp] theorem onTable_links (f : TravelerTable → TravelerTable) : (s.onTable f).links = s.links := rfl
@[simp] theorem onTable_io (f : TravelerTable → TravelerTable) : (s.onTable f).io = s.io := rfl

@[simp] theorem onRecipes_pending (f : RecipeStore → RecipeStore) : (s.onRecipes f).pending = s.pending := rfl
@[simp] theorem onRecipes_table (f : RecipeStore → RecipeStore) : (s.onRecipes f).table = s.table := rfl
@[simp] theorem onRecipes_recipes (f : RecipeStore → RecipeStore) : (s.onRecipes f).recipes = f s.recipes := rfl
@[simp] theorem onRecipes_lots (f : RecipeStore → RecipeStore) : (s.onRecipes f).lots = s.lots := rfl
@[simp] theorem onRecipes_mask (f : RecipeStore → RecipeStore) : (s.onRecipes f).mask = s.mask := rfl
@[simp] theorem onRecipes_engine (f : RecipeStore → RecipeStore) : (s.onRecipes f).engine = s.engine := rfl
@[simp] theorem onRecipes_cure (f : RecipeStore → RecipeStore) : (s.onRecipes f).cure = s.cure := rfl
@[simp] theorem onRecipes_holds (f : RecipeStore → RecipeStore) : (s.onRecipes f).holds = s.holds := rfl
@[simp] theorem onRecipes_links (f : RecipeStore → RecipeStore) : (s.onRecipes f).links = s.links := rfl
@[simp] theorem onRecipes_io (f : RecipeStore → RecipeStore) : (s.onRecipes f).io = s.io := rfl

@[simp] theorem onLots_pending (f : LotTable → LotTable) : (s.onLots f).pending = s.pending := rfl
@[simp] theorem onLots_table (f : LotTable → LotTable) : (s.onLots f).table = s.table := rfl
@[simp] theorem onLots_recipes (f : LotTable → LotTable) : (s.onLots f).recipes = s.recipes := rfl
@[simp] theorem onLots_lots (f : LotTable → LotTable) : (s.onLots f).lots = f s.lots := rfl
@[simp] theorem onLots_mask (f : LotTable → LotTable) : (s.onLots f).mask = s.mask := rfl
@[simp] theorem onLots_engine (f : LotTable → LotTable) : (s.onLots f).engine = s.engine := rfl
@[simp] theorem onLots_cure (f : LotTable → LotTable) : (s.onLots f).cure = s.cure := rfl
@[simp] theorem onLots_holds (f : LotTable → LotTable) : (s.onLots f).holds = s.holds := rfl
@[simp] theorem onLots_links (f : LotTable → LotTable) : (s.onLots f).links = s.links := rfl
@[simp] theorem onLots_io (f : LotTable → LotTable) : (s.onLots f).io = s.io := rfl

@[simp] theorem onMask_pending (f : MaskUnit → MaskUnit) : (s.onMask f).pending = s.pending := rfl
@[simp] theorem onMask_table (f : MaskUnit → MaskUnit) : (s.onMask f).table = s.table := rfl
@[simp] theorem onMask_recipes (f : MaskUnit → MaskUnit) : (s.onMask f).recipes = s.recipes := rfl
@[simp] theorem onMask_lots (f : MaskUnit → MaskUnit) : (s.onMask f).lots = s.lots := rfl
@[simp] theorem onMask_mask (f : MaskUnit → MaskUnit) : (s.onMask f).mask = f s.mask := rfl
@[simp] theorem onMask_engine (f : MaskUnit → MaskUnit) : (s.onMask f).engine = s.engine := rfl
@[simp] theorem onMask_cure (f : MaskUnit → MaskUnit) : (s.onMask f).cure = s.cure := rfl
@[simp] theorem onMask_holds (f : MaskUnit → MaskUnit) : (s.onMask f).holds = s.holds := rfl
@[simp] theorem onMask_links (f : MaskUnit → MaskUnit) : (s.onMask f).links = s.links := rfl
@[simp] theorem onMask_io (f : MaskUnit → MaskUnit) : (s.onMask f).io = s.io := rfl

@[simp] theorem onEngine_pending (f : StrokeEngine → StrokeEngine) : (s.onEngine f).pending = s.pending := rfl
@[simp] theorem onEngine_table (f : StrokeEngine → StrokeEngine) : (s.onEngine f).table = s.table := rfl
@[simp] theorem onEngine_recipes (f : StrokeEngine → StrokeEngine) : (s.onEngine f).recipes = s.recipes := rfl
@[simp] theorem onEngine_lots (f : StrokeEngine → StrokeEngine) : (s.onEngine f).lots = s.lots := rfl
@[simp] theorem onEngine_mask (f : StrokeEngine → StrokeEngine) : (s.onEngine f).mask = s.mask := rfl
@[simp] theorem onEngine_engine (f : StrokeEngine → StrokeEngine) : (s.onEngine f).engine = f s.engine := rfl
@[simp] theorem onEngine_cure (f : StrokeEngine → StrokeEngine) : (s.onEngine f).cure = s.cure := rfl
@[simp] theorem onEngine_holds (f : StrokeEngine → StrokeEngine) : (s.onEngine f).holds = s.holds := rfl
@[simp] theorem onEngine_links (f : StrokeEngine → StrokeEngine) : (s.onEngine f).links = s.links := rfl
@[simp] theorem onEngine_io (f : StrokeEngine → StrokeEngine) : (s.onEngine f).io = s.io := rfl

@[simp] theorem onCure_pending (f : CureMonitor → CureMonitor) : (s.onCure f).pending = s.pending := rfl
@[simp] theorem onCure_table (f : CureMonitor → CureMonitor) : (s.onCure f).table = s.table := rfl
@[simp] theorem onCure_recipes (f : CureMonitor → CureMonitor) : (s.onCure f).recipes = s.recipes := rfl
@[simp] theorem onCure_lots (f : CureMonitor → CureMonitor) : (s.onCure f).lots = s.lots := rfl
@[simp] theorem onCure_mask (f : CureMonitor → CureMonitor) : (s.onCure f).mask = s.mask := rfl
@[simp] theorem onCure_engine (f : CureMonitor → CureMonitor) : (s.onCure f).engine = s.engine := rfl
@[simp] theorem onCure_cure (f : CureMonitor → CureMonitor) : (s.onCure f).cure = f s.cure := rfl
@[simp] theorem onCure_holds (f : CureMonitor → CureMonitor) : (s.onCure f).holds = s.holds := rfl
@[simp] theorem onCure_links (f : CureMonitor → CureMonitor) : (s.onCure f).links = s.links := rfl
@[simp] theorem onCure_io (f : CureMonitor → CureMonitor) : (s.onCure f).io = s.io := rfl

@[simp] theorem onHolds_pending (f : HoldManager → HoldManager) : (s.onHolds f).pending = s.pending := rfl
@[simp] theorem onHolds_table (f : HoldManager → HoldManager) : (s.onHolds f).table = s.table := rfl
@[simp] theorem onHolds_recipes (f : HoldManager → HoldManager) : (s.onHolds f).recipes = s.recipes := rfl
@[simp] theorem onHolds_lots (f : HoldManager → HoldManager) : (s.onHolds f).lots = s.lots := rfl
@[simp] theorem onHolds_mask (f : HoldManager → HoldManager) : (s.onHolds f).mask = s.mask := rfl
@[simp] theorem onHolds_engine (f : HoldManager → HoldManager) : (s.onHolds f).engine = s.engine := rfl
@[simp] theorem onHolds_cure (f : HoldManager → HoldManager) : (s.onHolds f).cure = s.cure := rfl
@[simp] theorem onHolds_holds (f : HoldManager → HoldManager) : (s.onHolds f).holds = f s.holds := rfl
@[simp] theorem onHolds_links (f : HoldManager → HoldManager) : (s.onHolds f).links = s.links := rfl
@[simp] theorem onHolds_io (f : HoldManager → HoldManager) : (s.onHolds f).io = s.io := rfl

@[simp] theorem onLinks_pending (f : LinkInterfaces → LinkInterfaces) : (s.onLinks f).pending = s.pending := rfl
@[simp] theorem onLinks_table (f : LinkInterfaces → LinkInterfaces) : (s.onLinks f).table = s.table := rfl
@[simp] theorem onLinks_recipes (f : LinkInterfaces → LinkInterfaces) : (s.onLinks f).recipes = s.recipes := rfl
@[simp] theorem onLinks_lots (f : LinkInterfaces → LinkInterfaces) : (s.onLinks f).lots = s.lots := rfl
@[simp] theorem onLinks_mask (f : LinkInterfaces → LinkInterfaces) : (s.onLinks f).mask = s.mask := rfl
@[simp] theorem onLinks_engine (f : LinkInterfaces → LinkInterfaces) : (s.onLinks f).engine = s.engine := rfl
@[simp] theorem onLinks_cure (f : LinkInterfaces → LinkInterfaces) : (s.onLinks f).cure = s.cure := rfl
@[simp] theorem onLinks_holds (f : LinkInterfaces → LinkInterfaces) : (s.onLinks f).holds = s.holds := rfl
@[simp] theorem onLinks_links (f : LinkInterfaces → LinkInterfaces) : (s.onLinks f).links = f s.links := rfl
@[simp] theorem onLinks_io (f : LinkInterfaces → LinkInterfaces) : (s.onLinks f).io = s.io := rfl

@[simp] theorem onIo_pending (f : LineIo → LineIo) : (s.onIo f).pending = s.pending := rfl
@[simp] theorem onIo_table (f : LineIo → LineIo) : (s.onIo f).table = s.table := rfl
@[simp] theorem onIo_recipes (f : LineIo → LineIo) : (s.onIo f).recipes = s.recipes := rfl
@[simp] theorem onIo_lots (f : LineIo → LineIo) : (s.onIo f).lots = s.lots := rfl
@[simp] theorem onIo_mask (f : LineIo → LineIo) : (s.onIo f).mask = s.mask := rfl
@[simp] theorem onIo_engine (f : LineIo → LineIo) : (s.onIo f).engine = s.engine := rfl
@[simp] theorem onIo_cure (f : LineIo → LineIo) : (s.onIo f).cure = s.cure := rfl
@[simp] theorem onIo_holds (f : LineIo → LineIo) : (s.onIo f).holds = s.holds := rfl
@[simp] theorem onIo_links (f : LineIo → LineIo) : (s.onIo f).links = s.links := rfl
@[simp] theorem onIo_io (f : LineIo → LineIo) : (s.onIo f).io = f s.io := rfl

@[simp] theorem onOutputs_pending (f : Outputs → Outputs) : (s.onOutputs f).pending = s.pending := rfl
@[simp] theorem onOutputs_table (f : Outputs → Outputs) : (s.onOutputs f).table = s.table := rfl
@[simp] theorem onOutputs_recipes (f : Outputs → Outputs) : (s.onOutputs f).recipes = s.recipes := rfl
@[simp] theorem onOutputs_lots (f : Outputs → Outputs) : (s.onOutputs f).lots = s.lots := rfl
@[simp] theorem onOutputs_mask (f : Outputs → Outputs) : (s.onOutputs f).mask = s.mask := rfl
@[simp] theorem onOutputs_engine (f : Outputs → Outputs) : (s.onOutputs f).engine = s.engine := rfl
@[simp] theorem onOutputs_cure (f : Outputs → Outputs) : (s.onOutputs f).cure = s.cure := rfl
@[simp] theorem onOutputs_holds (f : Outputs → Outputs) : (s.onOutputs f).holds = s.holds := rfl
@[simp] theorem onOutputs_links (f : Outputs → Outputs) : (s.onOutputs f).links = s.links := rfl
@[simp] theorem onOutputs_io (f : Outputs → Outputs) : (s.onOutputs f).io = { s.io with outputs := f s.io.outputs } := rfl

@[simp] theorem onLink_pending (l : Link) (f : LinkState → LinkState) : (s.onLink l f).pending = s.pending := rfl
@[simp] theorem onLink_table (l : Link) (f : LinkState → LinkState) : (s.onLink l f).table = s.table := rfl
@[simp] theorem onLink_recipes (l : Link) (f : LinkState → LinkState) : (s.onLink l f).recipes = s.recipes := rfl
@[simp] theorem onLink_lots (l : Link) (f : LinkState → LinkState) : (s.onLink l f).lots = s.lots := rfl
@[simp] theorem onLink_mask (l : Link) (f : LinkState → LinkState) : (s.onLink l f).mask = s.mask := rfl
@[simp] theorem onLink_engine (l : Link) (f : LinkState → LinkState) : (s.onLink l f).engine = s.engine := rfl
@[simp] theorem onLink_cure (l : Link) (f : LinkState → LinkState) : (s.onLink l f).cure = s.cure := rfl
@[simp] theorem onLink_holds (l : Link) (f : LinkState → LinkState) : (s.onLink l f).holds = s.holds := rfl
@[simp] theorem onLink_links (l : Link) (f : LinkState → LinkState) : (s.onLink l f).links = s.links.onLink l f := rfl
@[simp] theorem onLink_io (l : Link) (f : LinkState → LinkState) : (s.onLink l f).io = s.io := rfl

@[simp] theorem relight_pending : s.relight.pending = s.pending := rfl
@[simp] theorem relight_table : s.relight.table = s.table := rfl
@[simp] theorem relight_recipes : s.relight.recipes = s.recipes := rfl
@[simp] theorem relight_lots : s.relight.lots = s.lots := rfl
@[simp] theorem relight_mask : s.relight.mask = s.mask := rfl
@[simp] theorem relight_engine : s.relight.engine = s.engine := rfl
@[simp] theorem relight_cure : s.relight.cure = s.cure := rfl
@[simp] theorem relight_holds : s.relight.holds = s.holds := rfl
@[simp] theorem relight_links : s.relight.links = s.links := rfl
@[simp] theorem relight_io_ms : s.relight.io.ms = s.io.ms := rfl
@[simp] theorem relight_io_seconds : s.relight.io.seconds = s.io.seconds := rfl
@[simp] theorem relight_io_blinkOn : s.relight.io.blinkOn = s.io.blinkOn := rfl
@[simp] theorem relight_io_estop : s.relight.io.estop = s.io.estop := rfl
@[simp] theorem relight_io_estopHanded : s.relight.io.estopHanded = s.io.estopHanded := rfl
@[simp] theorem relight_io_estopRun : s.relight.io.estopRun = s.io.estopRun := rfl
@[simp] theorem relight_io_sensors : s.relight.io.sensors = s.io.sensors := rfl
@[simp] theorem relight_io_straps : s.relight.io.straps = s.io.straps := rfl
@[simp] theorem relight_io_timeouts : s.relight.io.timeouts = s.io.timeouts := rfl
@[simp] theorem relight_io_inputs : s.relight.io.inputs = s.io.inputs := rfl
@[simp] theorem relight_infeedGate : s.relight.io.outputs.infeedGate = s.io.outputs.infeedGate := rfl
@[simp] theorem relight_cellGate : s.relight.io.outputs.cellGate = s.io.outputs.cellGate := rfl
@[simp] theorem relight_accumulatorGate : s.relight.io.outputs.accumulatorGate = s.io.outputs.accumulatorGate := rfl
@[simp] theorem relight_preDiverter : s.relight.io.outputs.preDiverter = s.io.outputs.preDiverter := rfl
@[simp] theorem relight_exitDiverter : s.relight.io.outputs.exitDiverter = s.io.outputs.exitDiverter := rfl
@[simp] theorem relight_slotSelect : s.relight.io.outputs.slotSelect = s.io.outputs.slotSelect := rfl
@[simp] theorem relight_green : s.relight.io.outputs.green = s.greenLamp := rfl
@[simp] theorem relight_amber : s.relight.io.outputs.amber = s.amberLamp := rfl
@[simp] theorem relight_red : s.relight.io.outputs.red = s.redLamp := rfl

/-! ### One link -/

@[simp] theorem link_onLink_same (x : LinkInterfaces) (l : Link) (f : LinkState → LinkState) :
    (x.onLink l f).link l = f (x.link l) := by cases l <;> rfl

@[simp] theorem link_onLink_other (x : LinkInterfaces) (l k : Link) (f : LinkState → LinkState) (h : k ≠ l) :
    (x.onLink l f).link k = x.link k := by cases l <;> cases k <;> first | rfl | exact absurd rfl h

@[simp] theorem onLink_serial (x : LinkInterfaces) (l : Link) (f : LinkState → LinkState) :
    (x.onLink l f).serial = x.serial := by cases l <;> rfl

/-! ### Tables numbered from 1 -/

@[simp] theorem length_putNth {α : Type} (l : List α) (n : Nat) (a : α) : (putNth l n a).length = l.length := by
  unfold putNth; split <;> simp

theorem nth_putNth {α : Type} (l : List α) (n m : Nat) (a : α) :
    nth (putNth l n a) m = if m = n ∧ 1 ≤ n ∧ n ≤ l.length then some a else nth l m := by
  unfold nth putNth
  rcases n with _ | n
  · simp
  · rcases m with _ | m
    · simp
    · simp only [Nat.add_one_ne_zero, if_false, Nat.add_one_sub_one, List.getElem?_set]
      by_cases h : n = m
      · subst h
        by_cases h2 : n < l.length
        · simp [h2, Nat.succ_le_of_lt h2]
        · simp [h2]
      · have h3 : ¬ m = n := fun e => h e.symm
        simp [h, h3]

theorem nth_putNth_same {α : Type} (l : List α) (n : Nat) (a : α) (h1 : 1 ≤ n) (h2 : n ≤ l.length) :
    nth (putNth l n a) n = some a := by simp [nth_putNth, h1, h2]

theorem nth_putNth_other {α : Type} (l : List α) (n m : Nat) (a : α) (h : m ≠ n) :
    nth (putNth l n a) m = nth l m := by simp [nth_putNth, h]

theorem nth_some {α : Type} {l : List α} {n : Nat} {a : α} (h : nth l n = some a) : 1 ≤ n ∧ n ≤ l.length := by
  unfold nth at h
  split at h
  · cases h
  · have := (List.getElem?_eq_some_iff.mp h).1
    omega

theorem nth_isSome {α : Type} {l : List α} {n : Nat} (h1 : 1 ≤ n) (h2 : n ≤ l.length) : ∃ a, nth l n = some a := by
  unfold nth
  have h3 : n - 1 < l.length := by omega
  rw [if_neg (by omega)]
  exact ⟨l[n - 1], List.getElem?_eq_getElem h3⟩

end Sys2Proof.Machine
end

