-- ==== Sys2Proof/Laws/Ops.lean ====
section
/-! SUPPORT. What each shared operation of Machine/Ops.lean and Machine/Transfers.lean leaves, block by block, and what
it does to the block it writes. -/

namespace Sys2Proof.Machine

variable (s : State)

/-! ### Posting a notice: the links alone -/

@[simp] theorem post_pending (k : NoticeKind) : (s.post k).pending = s.pending := rfl
@[simp] theorem post_table (k : NoticeKind) : (s.post k).table = s.table := rfl
@[simp] theorem post_recipes (k : NoticeKind) : (s.post k).recipes = s.recipes := rfl
@[simp] theorem post_lots (k : NoticeKind) : (s.post k).lots = s.lots := rfl
@[simp] theorem post_mask (k : NoticeKind) : (s.post k).mask = s.mask := rfl
@[simp] theorem post_engine (k : NoticeKind) : (s.post k).engine = s.engine := rfl
@[simp] theorem post_cure (k : NoticeKind) : (s.post k).cure = s.cure := rfl
@[simp] theorem post_holds (k : NoticeKind) : (s.post k).holds = s.holds := rfl
@[simp] theorem post_io (k : NoticeKind) : (s.post k).io = s.io := rfl

/-- What an offered notice can change of a link: its queue, its overrun marker and its attention output. -/
theorem offer_spec (l : LinkState) (n : Notice) :
    (l.offer n).reception = l.reception ∧ (l.offer n).inService = l.inService ∧ (l.offer n).answers = l.answers ∧
    (l.offer n).subs = l.subs ∧ (l.offer n).trigger = l.trigger := by
  unfold LinkState.offer
  split
  · split <;> simp [LinkState.judge]
  · simp

@[simp] theorem offer_reception (l : LinkState) (n : Notice) : (l.offer n).reception = l.reception := (offer_spec l n).1
@[simp] theorem offer_inService (l : LinkState) (n : Notice) : (l.offer n).inService = l.inService := (offer_spec l n).2.1
@[simp] theorem offer_answers (l : LinkState) (n : Notice) : (l.offer n).answers = l.answers := (offer_spec l n).2.2.1
@[simp] theorem offer_subs (l : LinkState) (n : Notice) : (l.offer n).subs = l.subs := (offer_spec l n).2.2.2.1
@[simp] theorem offer_trigger (l : LinkState) (n : Notice) : (l.offer n).trigger = l.trigger := (offer_spec l n).2.2.2.2

@[simp] theorem post_link (k : NoticeKind) (l : Link) :
    (s.post k).link l = (s.link l).offer { serial := s.links.serial + 1, stamp := s.now, kind := k } := by
  cases l <;> rfl

@[simp] theorem post_links_serial (k : NoticeKind) : (s.post k).links.serial = s.links.serial + 1 := rfl

/-! ### Traveler records: the table alone -/

@[simp] theorem setTraveler_pending (t : Nat) (r : Traveler) : (s.setTraveler t r).pending = s.pending := rfl
@[simp] theorem setTraveler_recipes (t : Nat) (r : Traveler) : (s.setTraveler t r).recipes = s.recipes := rfl
@[simp] theorem setTraveler_lots (t : Nat) (r : Traveler) : (s.setTraveler t r).lots = s.lots := rfl
@[simp] theorem setTraveler_mask (t : Nat) (r : Traveler) : (s.setTraveler t r).mask = s.mask := rfl
@[simp] theorem setTraveler_engine (t : Nat) (r : Traveler) : (s.setTraveler t r).engine = s.engine := rfl
@[simp] theorem setTraveler_cure (t : Nat) (r : Traveler) : (s.setTraveler t r).cure = s.cure := rfl
@[simp] theorem setTraveler_holds (t : Nat) (r : Traveler) : (s.setTraveler t r).holds = s.holds := rfl
@[simp] theorem setTraveler_links (t : Nat) (r : Traveler) : (s.setTraveler t r).links = s.links := rfl
@[simp] theorem setTraveler_io (t : Nat) (r : Traveler) : (s.setTraveler t r).io = s.io := rfl

@[simp] theorem onTraveler_pending (t : Nat) (f : Traveler → Traveler) : (s.onTraveler t f).pending = s.pending := by unfold State.onTraveler; split <;> simp
@[simp] theorem onTraveler_recipes (t : Nat) (f : Traveler → Traveler) : (s.onTraveler t f).recipes = s.recipes := by unfold State.onTraveler; split <;> simp
@[simp] theorem onTraveler_lots (t : Nat) (f : Traveler → Traveler) : (s.onTraveler t f).lots = s.lots := by unfold State.onTraveler; split <;> simp
@[simp] theorem onTraveler_mask (t : Nat) (f : Traveler → Traveler) : (s.onTraveler t f).mask = s.mask := by unfold State.onTraveler; split <;> simp
@[simp] theorem onTraveler_engine (t : Nat) (f : Traveler → Traveler) : (s.onTraveler t f).engine = s.engine := by unfold State.onTraveler; split <;> simp
@[simp] theorem onTraveler_cure (t : Nat) (f : Traveler → Traveler) : (s.onTraveler t f).cure = s.cure := by unfold State.onTraveler; split <;> simp
@[simp] theorem onTraveler_holds (t : Nat) (f : Traveler → Traveler) : (s.onTraveler t f).holds = s.holds := by unfold State.onTraveler; split <;> simp
@[simp] theorem onTraveler_links (t : Nat) (f : Traveler → Traveler) : (s.onTraveler t f).links = s.links := by unfold State.onTraveler; split <;> simp
@[simp] theorem onTraveler_io (t : Nat) (f : Traveler → Traveler) : (s.onTraveler t f).io = s.io := by unfold State.onTraveler; split <;> simp

@[simp] theorem setTraveler_free (t : Nat) (r : Traveler) : (s.setTraveler t r).table.free = s.table.free := rfl
@[simp] theorem onTraveler_free (t : Nat) (f : Traveler → Traveler) : (s.onTraveler t f).table.free = s.table.free := by
  unfold State.onTraveler; split <;> simp
@[simp] theorem setTraveler_index (t : Nat) (r : Traveler) : (s.setTraveler t r).table.index = s.table.index := rfl
@[simp] theorem onTraveler_index (t : Nat) (f : Traveler → Traveler) : (s.onTraveler t f).table.index = s.table.index := by
  unfold State.onTraveler; split <;> simp
@[simp] theorem setTraveler_queue (t : Nat) (r : Traveler) : (s.setTraveler t r).table.queue = s.table.queue := rfl
@[simp] theorem onTraveler_queue (t : Nat) (f : Traveler → Traveler) : (s.onTraveler t f).table.queue = s.table.queue := by
  unfold State.onTraveler; split <;> simp
@[simp] theorem setTraveler_mode (t : Nat) (r : Traveler) : (s.setTraveler t r).table.mode = s.table.mode := rfl
@[simp] theorem onTraveler_mode (t : Nat) (f : Traveler → Traveler) : (s.onTraveler t f).table.mode = s.table.mode := by
  unfold State.onTraveler; split <;> simp
@[simp] theorem setTraveler_cause (t : Nat) (r : Traveler) : (s.setTraveler t r).table.cause = s.table.cause := rfl
@[simp] theorem onTraveler_cause (t : Nat) (f : Traveler → Traveler) : (s.onTraveler t f).table.cause = s.table.cause := by
  unfold State.onTraveler; split <;> simp
@[simp] theorem setTraveler_detail (t : Nat) (r : Traveler) : (s.setTraveler t r).table.detail = s.table.detail := rfl
@[simp] theorem onTraveler_detail (t : Nat) (f : Traveler → Traveler) : (s.onTraveler t f).table.detail = s.table.detail := by
  unfold State.onTraveler; split <;> simp
@[simp] theorem setTraveler_transfers (t : Nat) (r : Traveler) : (s.setTraveler t r).table.transfers = s.table.transfers := rfl
@[simp] theorem onTraveler_transfers (t : Nat) (f : Traveler → Traveler) : (s.onTraveler t f).table.transfers = s.table.transfers := by
  unfold State.onTraveler; split <;> simp

theorem traveler_setTraveler (t u : Nat) (r : Traveler) :
    (s.setTraveler t r).traveler u = if u = t ∧ 1 ≤ t ∧ t ≤ s.table.records.length then some r else s.traveler u := by
  simp only [State.setTraveler, State.traveler, onTable_table, nth_putNth]
  split <;> simp

theorem traveler_bounds {s : State} {t : Nat} {r : Traveler} (h : s.traveler t = some r) :
    1 ≤ t ∧ t ≤ s.table.records.length := by
  unfold State.traveler at h
  cases h2 : nth s.table.records t with
  | none => simp [h2] at h
  | some o => exact nth_some h2

theorem traveler_setTraveler_same {s : State} {t : Nat} {r : Traveler} (r' : Traveler) (h : s.traveler t = some r) :
    (s.setTraveler t r').traveler t = some r' := by
  have := traveler_bounds h
  simp [traveler_setTraveler, this.1, this.2]

theorem traveler_setTraveler_other (t u : Nat) (r : Traveler) (h : u ≠ t) :
    (s.setTraveler t r).traveler u = s.traveler u := by simp [traveler_setTraveler, h]

theorem onTraveler_live {s : State} {t : Nat} {r : Traveler} (f : Traveler → Traveler) (h : s.traveler t = some r) :
    s.onTraveler t f = s.setTraveler t (f r) := by simp [State.onTraveler, h]

theorem onTraveler_dead {s : State} {t : Nat} (f : Traveler → Traveler) (h : s.traveler t = none) :
    s.onTraveler t f = s := by simp [State.onTraveler, h]

@[simp] theorem moveStage_pending (t : Nat) (g : Stage) (p : PlaceState) : (s.moveStage t g p).pending = s.pending := by unfold State.moveStage; split <;> simp
@[simp] theorem moveStage_recipes (t : Nat) (g : Stage) (p : PlaceState) : (s.moveStage t g p).recipes = s.recipes := by unfold State.moveStage; split <;> simp
@[simp] theorem moveStage_lots (t : Nat) (g : Stage) (p : PlaceState) : (s.moveStage t g p).lots = s.lots := by unfold State.moveStage; split <;> simp
@[simp] theorem moveStage_mask (t : Nat) (g : Stage) (p : PlaceState) : (s.moveStage t g p).mask = s.mask := by unfold State.moveStage; split <;> simp
@[simp] theorem moveStage_engine (t : Nat) (g : Stage) (p : PlaceState) : (s.moveStage t g p).engine = s.engine := by unfold State.moveStage; split <;> simp
@[simp] theorem moveStage_cure (t : Nat) (g : Stage) (p : PlaceState) : (s.moveStage t g p).cure = s.cure := by unfold State.moveStage; split <;> simp
@[simp] theorem moveStage_holds (t : Nat) (g : Stage) (p : PlaceState) : (s.moveStage t g p).holds = s.holds := by unfold State.moveStage; split <;> simp
@[simp] theorem moveStage_io (t : Nat) (g : Stage) (p : PlaceState) : (s.moveStage t g p).io = s.io := by unfold State.moveStage; split <;> simp

@[simp] theorem raiseHold_pending (t : Nat) (k : HoldReason) (w : Raiser) (g : Stage) (d : Option HoldDetail) : (s.raiseHold t k w g d).pending = s.pending := by
  unfold State.raiseHold; split
  · rfl
  · split
    · rfl
    · simp only; split
      · simp
      · split <;> simp
@[simp] theorem raiseHold_recipes (t : Nat) (k : HoldReason) (w : Raiser) (g : Stage) (d : Option HoldDetail) : (s.raiseHold t k w g d).recipes = s.recipes := by
  unfold State.raiseHold; split
  · rfl
  · split
    · rfl
    · simp only; split
      · simp
      · split <;> simp
@[simp] theorem raiseHold_lots (t : Nat) (k : HoldReason) (w : Raiser) (g : Stage) (d : Option HoldDetail) : (s.raiseHold t k w g d).lots = s.lots := by
  unfold State.raiseHold; split
  · rfl
  · split
    · rfl
    · simp only; split
      · simp
      · split <;> simp
@[simp] theorem raiseHold_mask (t : Nat) (k : HoldReason) (w : Raiser) (g : Stage) (d : Option HoldDetail) : (s.raiseHold t k w g d).mask = s.mask := by
  unfold State.raiseHold; split
  · rfl
  · split
    · rfl
    · simp only; split
      · simp
      · split <;> simp
@[simp] theorem raiseHold_engine (t : Nat) (k : HoldReason) (w : Raiser) (g : Stage) (d : Option HoldDetail) : (s.raiseHold t k w g d).engine = s.engine := by
  unfold State.raiseHold; split
  · rfl
  · split
    · rfl
    · simp only; split
      · simp
      · split <;> simp
@[simp] theorem raiseHold_cure (t : Nat) (k : HoldReason) (w : Raiser) (g : Stage) (d : Option HoldDetail) : (s.raiseHold t k w g d).cure = s.cure := by
  unfold State.raiseHold; split
  · rfl
  · split
    · rfl
    · simp only; split
      · simp
      · split <;> simp
@[simp] theorem raiseHold_holds (t : Nat) (k : HoldReason) (w : Raiser) (g : Stage) (d : Option HoldDetail) : (s.raiseHold t k w g d).holds = s.holds := by
  unfold State.raiseHold; split
  · rfl
  · split
    · rfl
    · simp only; split
      · simp
      · split <;> simp
@[simp] theorem raiseHold_io (t : Nat) (k : HoldReason) (w : Raiser) (g : Stage) (d : Option HoldDetail) : (s.raiseHold t k w g d).io = s.io := by
  unfold State.raiseHold; split
  · rfl
  · split
    · rfl
    · simp only; split
      · simp
      · split <;> simp

@[simp] theorem releaseRecord_pending (t : Nat) (h : Hold) (l : Link) (n : Nat) : (s.releaseRecord t h l n).pending = s.pending := by unfold State.releaseRecord; split <;> simp
@[simp] theorem releaseRecord_recipes (t : Nat) (h : Hold) (l : Link) (n : Nat) : (s.releaseRecord t h l n).recipes = s.recipes := by unfold State.releaseRecord; split <;> simp
@[simp] theorem releaseRecord_lots (t : Nat) (h : Hold) (l : Link) (n : Nat) : (s.releaseRecord t h l n).lots = s.lots := by unfold State.releaseRecord; split <;> simp
@[simp] theorem releaseRecord_mask (t : Nat) (h : Hold) (l : Link) (n : Nat) : (s.releaseRecord t h l n).mask = s.mask := by unfold State.releaseRecord; split <;> simp
@[simp] theorem releaseRecord_engine (t : Nat) (h : Hold) (l : Link) (n : Nat) : (s.releaseRecord t h l n).engine = s.engine := by unfold State.releaseRecord; split <;> simp
@[simp] theorem releaseRecord_cure (t : Nat) (h : Hold) (l : Link) (n : Nat) : (s.releaseRecord t h l n).cure = s.cure := by unfold State.releaseRecord; split <;> simp
@[simp] theorem releaseRecord_holds (t : Nat) (h : Hold) (l : Link) (n : Nat) : (s.releaseRecord t h l n).holds = s.holds := by unfold State.releaseRecord; split <;> simp
@[simp] theorem releaseRecord_io (t : Nat) (h : Hold) (l : Link) (n : Nat) : (s.releaseRecord t h l n).io = s.io := by unfold State.releaseRecord; split <;> simp

/-! ### Two requests of the service -/

/-- What a request that its link accepts comes to: its owner's effect between the entry into service and the answer. -/
theorem serve_accepted (q : Req) (code need : Nat) (owner : Nat → State → State × Reply)
    (h : s.accepts q need = true) :
    s.serve q code need owner =
      (let out := owner (s.effective q)
        (s.onLink q.link fun l => { l with reception := .searching, inService := true })
       out.1.onLink q.link (·.finish
        { code := code, level := s.effective q, corr := q.corr, status := out.2.status, fields := out.2.fields })) := by
  have hl : ∀ f : LinkState → LinkState, (s.onLink q.link f).link q.link = f (s.link q.link) := fun f => by
    simp [State.link]
  have ha : (LinkState.frameEnded (s.link q.link)).answersFull = (s.link q.link).answersFull := rfl
  have hi : (LinkState.frameEnded (s.link q.link)).inService = (s.link q.link).inService := rfl
  have he : ∀ f : LinkState → LinkState, (s.onLink q.link f).effective q = s.effective q := fun f => by
    simp [State.effective, State.strapped]
  have hc : ∀ f g : LinkState → LinkState, (s.onLink q.link f).onLink q.link g = s.onLink q.link fun x => g (f x) :=
    fun f g => by cases q with | mk l a b c => cases l <;> rfl
  simp only [State.accepts, Bool.and_eq_true, Bool.not_eq_true', decide_eq_true_eq] at h
  obtain ⟨⟨⟨⟨h1, h2⟩, h3⟩, h4⟩, h5⟩ := h
  unfold State.serve
  simp only [hl, ha, hi, he, hc, h1, h2, h3, Bool.false_eq_true, Bool.or_self, if_false]
  rw [if_neg (by omega), if_neg (by omega)]
  rfl

end Sys2Proof.Machine
end

