-- ==== Sys2Proof/Laws/Claims.lean ====
section
/-! SUPPORT. How a claim's vocabulary composes: what each update of one block comes to as `Happened`, how two stretches of a
step join, and what a taken request or an event makes of its owner's effect. -/

namespace Sys2Proof.Machine

/-! ### Notices in a row -/

theorem noticesAfter_append (serial stamp : Seconds) (a b : List NoticeKind) :
    noticesAfter serial stamp (a ++ b) =
      noticesAfter serial stamp a ++ noticesAfter (serial + BitVec.ofNat 32 a.length) stamp b := by
  induction a generalizing serial with
  | nil => simp [noticesAfter]
  | cons k a ih =>
    simp only [List.cons_append, noticesAfter, ih, List.length_cons]
    congr 3
    rw [BitVec.add_assoc, BitVec.ofNat_add, BitVec.add_comm (BitVec.ofNat 32 a.length)]
    rfl

theorem queueAfter_append (subs : List NoticeClass) (q a b : List Notice) :
    queueAfter subs q (a ++ b) = queueAfter subs (queueAfter subs q a) b := by
  induction a generalizing q with
  | nil => rfl
  | cons n a ih => simp only [List.cons_append, queueAfter]; split <;> exact ih _

/-- The queue of an offer as the claims say it (R169, R170). -/
theorem offer_queue (l : LinkState) (n : Notice) : (l.offer n).queue = queueAfter l.subs l.queue [n] := by
  simp only [LinkState.offer, queueAfter, List.contains_iff_mem, Config.noticeCapacity]
  by_cases h1 : n.kind.cls ∈ l.subs
  · by_cases h2 : l.queue.length < 32 <;> simp [h1, h2, LinkState.judge]
  · simp [h1]

/-! ### Parts -/

theorem KeptBut.refl (s : State) (c : List Part) : KeptBut s s c := by
  intro p _; cases p <;> rfl

theorem KeptPart.trans {s t u : State} {p : Part} (h1 : KeptPart s t p) (h2 : KeptPart t u p) : KeptPart s u p := by
  cases p <;> simp only [KeptPart] at * <;> first | exact h2.trans h1 | (rw [h2, h1])

theorem KeptBut.trans {s t u : State} {c d : List Part} (h1 : KeptBut s t c) (h2 : KeptBut t u d) :
    KeptBut s u (c ++ d) := fun p hp =>
  (h1 p fun h => hp (List.mem_append_left _ h)).trans (h2 p fun h => hp (List.mem_append_right _ h))

theorem KeptBut.mono {s t : State} {c d : List Part} (h : KeptBut s t c) (hcd : ∀ p ∈ c, p ∈ d) : KeptBut s t d :=
  fun p hp => h p fun hc => hp (hcd p hc)

/-! ### Stretches of a step -/

theorem SettingsKept.trans {s t u : State} (h1 : SettingsKept s t) (h2 : SettingsKept t u) : SettingsKept s u :=
  fun l => ⟨(h2 l).1.trans (h1 l).1, (h2 l).2.trans (h1 l).2⟩

theorem FramesKept.trans {s t u : State} (h1 : FramesKept s t) (h2 : FramesKept t u) : FramesKept s u :=
  fun l => ⟨(h2 l).1.trans (h1 l).1, (h2 l).2.1.trans (h1 l).2.1, (h2 l).2.2.trans (h1 l).2.2⟩

theorem PostedAt.trans {d : Seconds} {s t u : State} {a b : List NoticeKind} (h0 : SettingsKept s t)
    (h1 : PostedAt d s t a) (h2 : PostedAt d t u b) : PostedAt d s u (a ++ b) := by
  refine ⟨?_, fun l => ?_⟩
  · rw [h2.1, h1.1, List.length_append, BitVec.ofNat_add, BitVec.add_assoc]
  · rw [h2.2 l, h1.2 l, (h0 l).1, h1.1, noticesAfter_append, queueAfter_append]

/-- Two stretches of one line second join. -/
theorem Happened.trans {s t u : State} {a b : List NoticeKind} {c d : List Part} (h1 : Happened s t a c)
    (hn : t.now = s.now) (h2 : Happened t u b d) : Happened s u (a ++ b) (c ++ d) :=
  ⟨PostedAt.trans h1.2.1 h1.1 (hn ▸ h2.1), h1.2.1.trans h2.2.1, h1.2.2.1.trans h2.2.2.1, h1.2.2.2.trans h2.2.2.2⟩

theorem Happened.mono {s t : State} {a : List NoticeKind} {c d : List Part} (h : Happened s t a c)
    (hcd : ∀ p ∈ c, p ∈ d) : Happened s t a d := ⟨h.1, h.2.1, h.2.2.1, h.2.2.2.mono hcd⟩

/-- Where the links are as they were and only some parts changed, nothing was posted. -/
theorem Happened.ofLinks {s t : State} {c : List Part} (hl : t.links = s.links) (hk : KeptBut s t c) :
    Happened s t [] c := by
  have hlk : ∀ l, t.link l = s.link l := fun l => by simp [State.link, hl]
  refine ⟨⟨?_, fun l => ?_⟩, fun l => ?_, fun l => ?_, hk⟩ <;> simp [hl, hlk, noticesAfter, queueAfter]

theorem Happened.refl (s : State) : Happened s s [] [] := Happened.ofLinks rfl (KeptBut.refl s [])

theorem happened_onTable (s : State) (f : TravelerTable → TravelerTable) : Happened s (s.onTable f) [] [.table] :=
  .ofLinks rfl (by intro p hp; cases p <;> first | rfl | simp at hp)

theorem happened_onRecipes (s : State) (f : RecipeStore → RecipeStore) : Happened s (s.onRecipes f) [] [.recipes] :=
  .ofLinks rfl (by intro p hp; cases p <;> first | rfl | simp at hp)

theorem happened_onLots (s : State) (f : LotTable → LotTable) : Happened s (s.onLots f) [] [.lots] :=
  .ofLinks rfl (by intro p hp; cases p <;> first | rfl | simp at hp)

theorem happened_onMask (s : State) (f : MaskUnit → MaskUnit) : Happened s (s.onMask f) [] [.mask] :=
  .ofLinks rfl (by intro p hp; cases p <;> first | rfl | simp at hp)

theorem happened_onEngine (s : State) (f : StrokeEngine → StrokeEngine) : Happened s (s.onEngine f) [] [.engine] :=
  .ofLinks rfl (by intro p hp; cases p <;> first | rfl | simp at hp)

theorem happened_onCure (s : State) (f : CureMonitor → CureMonitor) : Happened s (s.onCure f) [] [.cure] :=
  .ofLinks rfl (by intro p hp; cases p <;> first | rfl | simp at hp)

theorem happened_onHolds (s : State) (f : HoldManager → HoldManager) : Happened s (s.onHolds f) [] [.holds] :=
  .ofLinks rfl (by intro p hp; cases p <;> first | rfl | simp at hp)

theorem happened_onIo (s : State) (f : LineIo → LineIo) : Happened s (s.onIo f) [] [.clock] :=
  .ofLinks rfl (by intro p hp; cases p <;> first | rfl | simp at hp)

theorem happened_onOutputs (s : State) (f : Outputs → Outputs) : Happened s (s.onOutputs f) [] [.clock] :=
  happened_onIo s _

theorem happened_setTraveler (s : State) (t : Nat) (r : Traveler) : Happened s (s.setTraveler t r) [] [.table] :=
  happened_onTable s _

theorem happened_onTraveler (s : State) (t : Nat) (f : Traveler → Traveler) :
    Happened s (s.onTraveler t f) [] [.table] := by
  unfold State.onTraveler
  split
  · exact (Happened.refl s).mono (by simp)
  · exact happened_setTraveler s t _

theorem happened_post (s : State) (k : NoticeKind) : Happened s (s.post k) [k] [] := by
  refine ⟨⟨rfl, fun l => ?_⟩, fun l => ?_, fun l => ?_, ?_⟩
  · simp [offer_queue, noticesAfter]
  · simp
  · simp
  · intro p _; cases p <;> rfl

theorem happened_relight (s : State) : Happened s s.relight [] [] :=
  .ofLinks rfl (by intro p _; cases p <;> rfl)

@[simp] theorem now_onTable (s : State) (f : TravelerTable → TravelerTable) : (s.onTable f).now = s.now := rfl
@[simp] theorem now_onRecipes (s : State) (f : RecipeStore → RecipeStore) : (s.onRecipes f).now = s.now := rfl
@[simp] theorem now_onLots (s : State) (f : LotTable → LotTable) : (s.onLots f).now = s.now := rfl
@[simp] theorem now_onMask (s : State) (f : MaskUnit → MaskUnit) : (s.onMask f).now = s.now := rfl
@[simp] theorem now_onEngine (s : State) (f : StrokeEngine → StrokeEngine) : (s.onEngine f).now = s.now := rfl
@[simp] theorem now_onCure (s : State) (f : CureMonitor → CureMonitor) : (s.onCure f).now = s.now := rfl
@[simp] theorem now_onHolds (s : State) (f : HoldManager → HoldManager) : (s.onHolds f).now = s.now := rfl
@[simp] theorem now_onLinks (s : State) (f : LinkInterfaces → LinkInterfaces) : (s.onLinks f).now = s.now := rfl
@[simp] theorem now_onLink (s : State) (l : Link) (f : LinkState → LinkState) : (s.onLink l f).now = s.now := rfl
@[simp] theorem now_onOutputs (s : State) (f : Outputs → Outputs) : (s.onOutputs f).now = s.now := rfl
@[simp] theorem now_post (s : State) (k : NoticeKind) : (s.post k).now = s.now := rfl
@[simp] theorem now_setTraveler (s : State) (t : Nat) (r : Traveler) : (s.setTraveler t r).now = s.now := rfl
@[simp] theorem now_onTraveler (s : State) (t : Nat) (f : Traveler → Traveler) : (s.onTraveler t f).now = s.now := by
  simp [State.now]

/-! ### The step of an event or of a taken request -/

/-- An event whose effect happened: the step answers that effect with the stack light set again. -/
theorem event_happened {s t : State} {ks : List NoticeKind} {c : List Part} (h : Happened s t ks c) :
    Happened s t.relight ks c := by
  have := happened_relight t
  refine ⟨h.1, h.2.1, h.2.2.1, ?_⟩
  simpa using h.2.2.2.trans this.2.2.2

/-- A request whose link takes it: what its owner answers from the state of its service. -/
def State.inServiceOf (s : State) (q : Req) : State :=
  s.onLink q.link fun l => { l with reception := .searching, inService := true }

/-- The state once the answer is placed and the stack light set again. -/
def State.answered (s : State) (q : Req) (code level : Nat) (r : Reply) : State :=
  (s.onLink q.link (·.finish
    { code := code, level := level, corr := q.corr, status := r.status, fields := r.fields })).relight

theorem takes_accepts {s : State} {q : Req} {need : Nat} (h : s.Takes q need) : s.accepts q need = true := by
  obtain ⟨h1, h2, h3, h4, h5⟩ := h
  simp only [State.accepts, LinkState.answersFull, LinkState.placesTaken, State.effective, h2, h3]
  simp only [Config.answerCapacity] at *
  simp [h4, h5]
  omega

/-- A taken request's step in one equation. -/
theorem request_taken {s : State} {q : Req} {need : Nat} (code : Nat) (owner : Nat → State → State × Reply)
    (h : s.Takes q need) :
    request q code need owner s =
      .next ((owner (max (s.strapped q.link) q.level) (s.inServiceOf q)).1.answered q code
        (max (s.strapped q.link) q.level) (owner (max (s.strapped q.link) q.level) (s.inServiceOf q)).2) := by
  unfold request
  rw [serve_accepted s q code need owner (takes_accepts h)]
  rfl

@[simp] theorem inServiceOf_table (s : State) (q : Req) : (s.inServiceOf q).table = s.table := rfl
@[simp] theorem inServiceOf_recipes (s : State) (q : Req) : (s.inServiceOf q).recipes = s.recipes := rfl
@[simp] theorem inServiceOf_lots (s : State) (q : Req) : (s.inServiceOf q).lots = s.lots := rfl
@[simp] theorem inServiceOf_mask (s : State) (q : Req) : (s.inServiceOf q).mask = s.mask := rfl
@[simp] theorem inServiceOf_engine (s : State) (q : Req) : (s.inServiceOf q).engine = s.engine := rfl
@[simp] theorem inServiceOf_cure (s : State) (q : Req) : (s.inServiceOf q).cure = s.cure := rfl
@[simp] theorem inServiceOf_holds (s : State) (q : Req) : (s.inServiceOf q).holds = s.holds := rfl
@[simp] theorem inServiceOf_io (s : State) (q : Req) : (s.inServiceOf q).io = s.io := rfl
@[simp] theorem inServiceOf_pending (s : State) (q : Req) : (s.inServiceOf q).pending = s.pending := rfl

@[simp] theorem answered_table (s : State) (q : Req) (c l : Nat) (r : Reply) : (s.answered q c l r).table = s.table := rfl
@[simp] theorem answered_recipes (s : State) (q : Req) (c l : Nat) (r : Reply) : (s.answered q c l r).recipes = s.recipes := rfl
@[simp] theorem answered_lots (s : State) (q : Req) (c l : Nat) (r : Reply) : (s.answered q c l r).lots = s.lots := rfl
@[simp] theorem answered_mask (s : State) (q : Req) (c l : Nat) (r : Reply) : (s.answered q c l r).mask = s.mask := rfl
@[simp] theorem answered_engine (s : State) (q : Req) (c l : Nat) (r : Reply) : (s.answered q c l r).engine = s.engine := rfl
@[simp] theorem answered_cure (s : State) (q : Req) (c l : Nat) (r : Reply) : (s.answered q c l r).cure = s.cure := rfl
@[simp] theorem answered_holds (s : State) (q : Req) (c l : Nat) (r : Reply) : (s.answered q c l r).holds = s.holds := rfl
@[simp] theorem answered_pending (s : State) (q : Req) (c l : Nat) (r : Reply) : (s.answered q c l r).pending = s.pending := rfl

theorem link_inServiceOf (s : State) (q : Req) (l : Link) :
    (s.inServiceOf q).link l =
      if l = q.link then { s.link l with reception := .searching, inService := true } else s.link l := by
  unfold State.inServiceOf State.link
  rw [onLink_links]
  by_cases h : l = q.link
  · subst h; simp
  · simp [h]

theorem link_answered (s : State) (q : Req) (c n : Nat) (r : Reply) (l : Link) :
    (s.answered q c n r).link l =
      if l = q.link then (s.link l).finish
        { code := c, level := n, corr := q.corr, status := r.status, fields := r.fields } else s.link l := by
  have : (s.answered q c n r).link l = (s.links.onLink q.link (·.finish
        { code := c, level := n, corr := q.corr, status := r.status, fields := r.fields })).link l := rfl
  rw [this]
  by_cases h : l = q.link
  · subst h; simp [State.link]
  · simp [h, State.link]

/-- A taken request whose owner's effect happened is done. -/
theorem request_done {s t : State} {q : Req} {need : Nat} (code : Nat) {owner : Nat → State → State × Reply}
    {w : Status} {fields : List Field} {ks : List NoticeKind} {c : List Part} (h : s.Takes q need)
    (ho : owner (max (s.strapped q.link) q.level) (s.inServiceOf q) = (t, { status := w, fields := fields }))
    (hh : Happened (s.inServiceOf q) t ks c) :
    request q code need owner s =
        .next (t.answered q code (max (s.strapped q.link) q.level) { status := w, fields := fields }) ∧
      Done s (t.answered q code (max (s.strapped q.link) q.level) { status := w, fields := fields }) q code w fields
        ks c := by
  refine ⟨by rw [request_taken code owner h, ho], ⟨?_, ?_, ?_⟩, ⟨?_, fun l => ?_⟩, fun l => ?_, fun l hl => ?_, ?_⟩
  · rw [link_answered, if_pos rfl]
    simp only [LinkState.finish]
    rw [(hh.2.2.1 q.link).2.2, link_inServiceOf, if_pos rfl]
  · rw [link_answered, if_pos rfl]; rfl
  · rw [link_answered, if_pos rfl]
    simp only [LinkState.finish]
    rw [(hh.2.2.1 q.link).1, link_inServiceOf, if_pos rfl]
  · have h1 : (t.answered q code (max (s.strapped q.link) q.level) { status := w, fields := fields }).links.serial =
        t.links.serial := by
      simp [State.answered]
    have h2 : (s.inServiceOf q).links.serial = s.links.serial := by simp [State.inServiceOf]
    rw [h1, hh.1.1, h2]
  · have h3 : ((t.answered q code (max (s.strapped q.link) q.level) { status := w, fields := fields }).link l).queue =
        (t.link l).queue := by rw [link_answered]; split <;> rfl
    have h2 : (s.inServiceOf q).links.serial = s.links.serial := by simp [State.inServiceOf]
    have h4 : ((s.inServiceOf q).link l).subs = (s.link l).subs := by rw [link_inServiceOf]; split <;> rfl
    have h5 : ((s.inServiceOf q).link l).queue = (s.link l).queue := by rw [link_inServiceOf]; split <;> rfl
    rw [h3, hh.1.2 l, h2, h4, h5]
    rfl
  · have h3 : ((t.answered q code (max (s.strapped q.link) q.level) { status := w, fields := fields }).link l).subs =
        (t.link l).subs := by rw [link_answered]; split <;> rfl
    have h6 : ((t.answered q code (max (s.strapped q.link) q.level) { status := w, fields := fields }).link l).trigger =
        (t.link l).trigger := by rw [link_answered]; split <;> rfl
    have h4 : ((s.inServiceOf q).link l).subs = (s.link l).subs := by rw [link_inServiceOf]; split <;> rfl
    have h5 : ((s.inServiceOf q).link l).trigger = (s.link l).trigger := by rw [link_inServiceOf]; split <;> rfl
    rw [h3, h6, (hh.2.1 l).1, (hh.2.1 l).2, h4, h5]
    exact ⟨rfl, rfl⟩
  · rw [link_answered, if_neg hl]
    have := hh.2.2.1 l
    rw [link_inServiceOf, if_neg hl] at this
    exact this
  · have h1 : KeptBut s (s.inServiceOf q) [] := by intro p _; cases p <;> rfl
    have h2 : KeptBut t (t.answered q code (max (s.strapped q.link) q.level) { status := w, fields := fields }) [] := by
      intro p _; cases p <;> rfl
    simpa using (h1.trans hh.2.2.2).trans h2

end Sys2Proof.Machine
end

