-- ==== Sys2Proof/Laws/Moves.lean ====
section
/-! SUPPORT. What the shared operations come to as claims say it: a refusal, a raise that opens its record or meets a hold
set in reason order, a change of stage, and what a request in service leaves readable. -/

namespace Sys2Proof.Machine

/-! ### Stretches -/

theorem Happened.then {s t u : State} {a b : List NoticeKind} {c d e : List Part} (h1 : Happened s t a c)
    (hn : t.now = s.now) (h2 : Happened t u b d) (he : ∀ p ∈ c ++ d, p ∈ e) : Happened s u (a ++ b) e :=
  (h1.trans hn h2).mono he

/-- An event whose effect happened, as an outcome. -/
theorem event_done {s t : State} {ks : List NoticeKind} {c : List Part} (h : Happened s t ks c) :
    ∃ u, event t = .next u ∧ Happened s u ks c := ⟨_, rfl, event_happened h⟩

/-- An owner that refuses leaves the answer alone as the request's effect (R167). -/
theorem refused {s : State} {q : Req} {need : Nat} (code : Nat) {owner : Nat → State → State × Reply}
    {w : Status} {fields : List Field} (h : s.Takes q need)
    (ho : owner (max (s.strapped q.link) q.level) (s.inServiceOf q) =
      (s.inServiceOf q, { status := w, fields := fields })) :
    ∃ u, request q code need owner s = .next u ∧ Done s u q code w fields [] [] :=
  ⟨_, request_done code h ho (Happened.refl _)⟩

/-! ### What a request in service leaves readable -/

@[simp] theorem inServiceOf_tagged (s : State) (q : Req) (x : Text) : (s.inServiceOf q).tagged x = s.tagged x := rfl
@[simp] theorem inServiceOf_traveler (s : State) (q : Req) (t : Nat) :
    (s.inServiceOf q).traveler t = s.traveler t := rfl
@[simp] theorem inServiceOf_occupancy (s : State) (q : Req) : (s.inServiceOf q).occupancy = s.occupancy := rfl
@[simp] theorem inServiceOf_mode (s : State) (q : Req) : (s.inServiceOf q).mode = s.mode := rfl
@[simp] theorem inServiceOf_now (s : State) (q : Req) : (s.inServiceOf q).now = s.now := rfl
@[simp] theorem inServiceOf_leaving (s : State) (q : Req) (t : Nat) : (s.inServiceOf q).leaving t = s.leaving t := rfl
@[simp] theorem inServiceOf_stationOf (s : State) (q : Req) (t : Nat) :
    (s.inServiceOf q).stationOf t = s.stationOf t := rfl
@[simp] theorem inServiceOf_record (s : State) (q : Req) (x : Station) : (s.inServiceOf q).record x = s.record x := rfl
@[simp] theorem inServiceOf_recipeOf (s : State) (q : Req) (r : Traveler) :
    (s.inServiceOf q).recipeOf r = s.recipeOf r := rfl
@[simp] theorem inServiceOf_anyTraveler (s : State) (q : Req) (p : Traveler → Bool) :
    (s.inServiceOf q).anyTraveler p = s.anyTraveler p := rfl
@[simp] theorem inServiceOf_lineEmpty (s : State) (q : Req) : (s.inServiceOf q).lineEmpty = s.lineEmpty := rfl
@[simp] theorem inServiceOf_profileInUse (s : State) (q : Req) (n : Nat) :
    (s.inServiceOf q).profileInUse n = s.profileInUse n := rfl
@[simp] theorem inServiceOf_running (s : State) (q : Req) : (s.inServiceOf q).running = s.running := rfl
@[simp] theorem inServiceOf_serial (s : State) (q : Req) : (s.inServiceOf q).links.serial = s.links.serial := by
  simp [State.inServiceOf]

@[simp] theorem answered_traveler (s : State) (q : Req) (c l : Nat) (r : Reply) (t : Nat) :
    (s.answered q c l r).traveler t = s.traveler t := rfl
@[simp] theorem answered_mode (s : State) (q : Req) (c l : Nat) (r : Reply) : (s.answered q c l r).mode = s.mode := rfl
@[simp] theorem answered_serial (s : State) (q : Req) (c l : Nat) (r : Reply) :
    (s.answered q c l r).links.serial = s.links.serial := by simp [State.answered]
@[simp] theorem relight_traveler (s : State) (t : Nat) : s.relight.traveler t = s.traveler t := rfl
@[simp] theorem relight_mode (s : State) : s.relight.mode = s.mode := rfl
@[simp] theorem relight_link (s : State) (l : Link) : s.relight.link l = s.link l := rfl

/-- The live traveler a well-formed tag names. -/
theorem withTag_live {s : State} {tag : Text} {t : Nat} {r : Traveler} (hf : tagForm tag = true)
    (h : s.tagged tag = some (t, r)) (k : Nat → Traveler → State → State × Reply) : withTag tag k s = k t r s := by
  simp [withTag, hf, h]

/-- A tag names the traveler that its number finds. -/
theorem tagged_live {s : State} {tag : Text} {t : Nat} {r : Traveler} (h : s.tagged tag = some (t, r)) :
    s.traveler t = some r := by
  unfold State.tagged at h
  split at h
  · cases h
  · rename_i e _
    cases hr : s.traveler e.2 with
    | none => simp [hr] at h
    | some r' => simp [hr] at h; obtain ⟨rfl, rfl⟩ := h; exact hr

/-! ### Records of live travelers -/

theorem traveler_nth {s : State} {t : Nat} {r : Traveler} : s.traveler t = some r ↔ nth s.table.records t = some (some r) := by
  unfold State.traveler
  cases nth s.table.records t with
  | none => simp
  | some o => cases o <;> simp

/-- A live traveler's record is among the table's. -/
theorem mem_of_traveler {s : State} {t : Nat} {r : Traveler} (h : s.traveler t = some r) :
    some r ∈ s.table.records := by
  rw [traveler_nth] at h
  unfold nth at h
  split at h
  · cases h
  · exact List.mem_of_getElem? h

/-- A record of the table is a live traveler's. -/
theorem traveler_of_mem {s : State} {r : Traveler} (h : some r ∈ s.table.records) : ∃ t, s.traveler t = some r := by
  obtain ⟨n, hn, he⟩ := List.mem_iff_getElem.1 h
  refine ⟨n + 1, traveler_nth.2 ?_⟩
  simp [nth, List.getElem?_eq_getElem hn, he]

theorem anyTraveler_iff {s : State} {p : Traveler → Bool} :
    s.anyTraveler p = true ↔ ∃ t r, s.traveler t = some r ∧ p r = true := by
  unfold State.anyTraveler
  rw [List.any_eq_true]
  constructor
  · rintro ⟨o, ho, hp⟩
    cases o with
    | none => simp at hp
    | some r =>
      obtain ⟨t, ht⟩ := traveler_of_mem ho
      exact ⟨t, r, ht, by simpa using hp⟩
  · rintro ⟨t, r, h, hp⟩
    exact ⟨some r, mem_of_traveler h, by simpa using hp⟩

/-! ### Stage changes -/

/-- A change of stage of a live traveler (R3). -/
theorem moveStage_live {s : State} {t : Nat} {r : Traveler} (g : Stage) (p : PlaceState) (h : s.traveler t = some r) :
    s.moveStage t g p =
      (s.setTraveler t { r with stage := g, place := p }).post (.boardStage r.tag t r.stage g p) := by
  simp [State.moveStage, h]

theorem happened_moveStage {s : State} {t : Nat} {r : Traveler} (g : Stage) (p : PlaceState)
    (h : s.traveler t = some r) : Happened s (s.moveStage t g p) [.boardStage r.tag t r.stage g p] [.table] := by
  rw [moveStage_live g p h]
  exact (happened_setTraveler s t _).then rfl (happened_post _ _) (by simp)

@[simp] theorem now_moveStage (s : State) (t : Nat) (g : Stage) (p : PlaceState) : (s.moveStage t g p).now = s.now := by
  simp [State.now]

@[simp] theorem post_traveler (s : State) (k : NoticeKind) (t : Nat) : (s.post k).traveler t = s.traveler t := rfl

theorem traveler_moveStage {s : State} {t : Nat} {r : Traveler} (g : Stage) (p : PlaceState) (n : Nat)
    (h : s.traveler t = some r) :
    (s.moveStage t g p).traveler n = if n = t then some { r with stage := g, place := p } else s.traveler n := by
  rw [moveStage_live g p h, post_traveler]
  split
  · subst n; exact traveler_setTraveler_same _ h
  · exact traveler_setTraveler_other _ _ _ _ ‹_›

theorem moveStage_table {s : State} {t : Nat} (g : Stage) (p : PlaceState) :
    (s.moveStage t g p).table = { s.table with records := (s.moveStage t g p).table.records } := by
  unfold State.moveStage
  split <;> rfl

/-! ### Raises (R149) -/

/-- The record a raise opens. -/
def State.freshHold (s : State) (reason : HoldReason) (who : Raiser) (g : Stage) (detail : Option HoldDetail) : Hold :=
  { reason := reason, state := .isOpen, raisedBy := who, stage := g, stamp := s.now, level := s.holds.levelOf reason,
    detail := detail, count := 1, releasedBy := none, releasedStamp := none }

theorem findHold_none {k : HoldReason} {l : List Hold} (h : ∀ x ∈ l, x.reason ≠ k) : findHold k l = none := by
  simp only [findHold, List.find?_eq_none]
  intro x hx; simpa using h x hx

theorem mem_putHold {h : Hold} {l : List Hold} (hn : ∀ x ∈ l, x.reason ≠ h.reason) (k : Hold) :
    k ∈ putHold h l ↔ k ∈ l ∨ k = h := by
  induction l with
  | nil => simp [putHold]
  | cons g rest ih =>
    have hg : g.reason ≠ h.reason := hn g (by simp)
    have ih := ih fun x hx => hn x (by simp [hx])
    simp only [putHold, hg, if_false]
    split
    · simp only [List.mem_cons]; tauto
    · simp only [List.mem_cons, ih]; tauto

/-- A raise of a reason the traveler has no record of opens one and posts HOLD_RAISED (R149). -/
theorem raiseHold_opens {s : State} {t : Nat} {r : Traveler} {k : HoldReason} (who : Raiser) (g : Stage)
    (d : Option HoldDetail) (h : s.traveler t = some r) (hl : s.leaving t = false) (hn : ∀ x ∈ r.holds, x.reason ≠ k) :
    s.raiseHold t k who g d =
      (s.setTraveler t { r with holds := putHold (s.freshHold k who g d) r.holds }).post
        (.holdRaised r.tag t k who g (s.holds.levelOf k) d) := by
  simp [State.raiseHold, h, hl, findHold_none hn, State.freshHold]

theorem happened_raiseHold_opens {s : State} {t : Nat} {r : Traveler} {k : HoldReason} (who : Raiser) (g : Stage)
    (d : Option HoldDetail) (h : s.traveler t = some r) (hl : s.leaving t = false) (hn : ∀ x ∈ r.holds, x.reason ≠ k) :
    Happened s (s.raiseHold t k who g d) [.holdRaised r.tag t k who g (s.holds.levelOf k) d] [.table] := by
  rw [raiseHold_opens who g d h hl hn]
  exact (happened_setTraveler s t _).then rfl (happened_post _ _) (by simp)

theorem traveler_raiseHold_opens {s : State} {t : Nat} {r : Traveler} {k : HoldReason} (who : Raiser) (g : Stage)
    (d : Option HoldDetail) (n : Nat) (h : s.traveler t = some r) (hl : s.leaving t = false)
    (hn : ∀ x ∈ r.holds, x.reason ≠ k) :
    (s.raiseHold t k who g d).traveler n =
      if n = t then some { r with holds := putHold (s.freshHold k who g d) r.holds } else s.traveler n := by
  rw [raiseHold_opens who g d h hl hn, post_traveler]
  split
  · subst n; exact traveler_setTraveler_same _ h
  · exact traveler_setTraveler_other _ _ _ _ ‹_›

@[simp] theorem now_raiseHold (s : State) (t : Nat) (k : HoldReason) (w : Raiser) (g : Stage) (d : Option HoldDetail) :
    (s.raiseHold t k w g d).now = s.now := by simp [State.now]

/-- A raise touches no record but the traveler's, and of that only the hold set (R149). -/
theorem raiseHold_table (s : State) (t : Nat) (k : HoldReason) (w : Raiser) (g : Stage) (d : Option HoldDetail) :
    (s.raiseHold t k w g d).table = { s.table with records := (s.raiseHold t k w g d).table.records } := by
  unfold State.raiseHold
  split
  · rfl
  · split
    · rfl
    · split
      · rfl
      · split <;> rfl

/-! ### Raises on a hold set in reason order (R148, R149) -/

theorem code_injective {a b : HoldReason} (h : a.code = b.code) : a = b := by
  cases a <;> cases b <;> first | rfl | exact absurd h (by decide)

/-- A record put in its place stands between those of earlier and those of later reasons. -/
theorem putHold_ordered (h : Hold) {l : List Hold} (ho : HoldsInOrder l) :
    putHold h l = (l.filter fun k => decide (k.reason.code < h.reason.code)) ++
      h :: l.filter fun k => decide (h.reason.code < k.reason.code) := by
  induction l with
  | nil => rfl
  | cons g rest ih =>
    obtain ⟨hg, hr⟩ := List.pairwise_cons.1 ho
    have later (hle : h.reason.code ≤ g.reason.code) :
        rest.filter (fun k => decide (k.reason.code < h.reason.code)) = [] ∧
          rest.filter (fun k => decide (h.reason.code < k.reason.code)) = rest := by
      refine ⟨List.filter_eq_nil_iff.2 fun k hk => ?_, List.filter_eq_self.2 fun k hk => ?_⟩ <;>
        · have := hg k hk; simp only [decide_eq_true_eq]; omega
    by_cases e : g.reason = h.reason
    · obtain ⟨h1, h2⟩ := later (by rw [e])
      simp [putHold, e, h1, h2]
    · have ne : g.reason.code ≠ h.reason.code := fun x => e (code_injective x)
      by_cases lt : h.reason.code < g.reason.code
      · obtain ⟨h1, h2⟩ := later lt.le
        simp [putHold, e, lt, h1, h2, Nat.not_lt_of_lt lt]
      · have gt : g.reason.code < h.reason.code := by omega
        simp [putHold, e, lt, gt, ih hr]

theorem putHold_inOrder (h : Hold) {l : List Hold} (ho : HoldsInOrder l) : HoldsInOrder (putHold h l) := by
  rw [putHold_ordered h ho, HoldsInOrder, List.pairwise_append]
  refine ⟨ho.filter _, List.pairwise_cons.2 ⟨fun k hk => ?_, ho.filter _⟩, fun a ha b hb => ?_⟩
  · simpa using (List.mem_filter.1 hk).2
  · have la : a.reason.code < h.reason.code := by simpa using (List.mem_filter.1 ha).2
    rcases List.mem_cons.1 hb with rfl | hb
    · exact la
    · have := (List.mem_filter.1 hb).2
      simp only [decide_eq_true_eq] at this
      omega

/-- In reason order the OPEN record of a reason is its record, where that is OPEN. -/
theorem openHold_ordered (k : HoldReason) {l : List Hold} (ho : HoldsInOrder l) :
    openHold k l = (findHold k l).filter fun h => h.state == .isOpen := by
  induction l with
  | nil => rfl
  | cons g rest ih =>
    obtain ⟨hg, hr⟩ := List.pairwise_cons.1 ho
    have ih := ih hr
    simp only [openHold, findHold] at ih ⊢
    by_cases e : g.reason = k
    · subst e
      have none : rest.find? (fun h => h.reason == g.reason && h.state == .isOpen) = none :=
        List.find?_eq_none.2 fun h hh => by
          have : h.reason ≠ g.reason := fun x => by have := hg h hh; rw [x] at this; omega
          simp [this]
      by_cases o : g.state = .isOpen <;> simp [o, none, Option.filter]
    · simp [e, ih]

/-- A record that counts once more up to the limit (R149). -/
theorem holdsAfterRaise_counts {l : List Hold} {h k : Hold} (ho : HoldsInOrder l)
    (hk : openHold h.reason l = some k) :
    holdsAfterRaise l h = putHold { k with count := min (k.count + 1) 65535 } l := by
  have e : k.reason = h.reason := by
    have := List.find?_some hk
    simp only [Bool.and_eq_true, beq_iff_eq] at this
    exact this.1
  simp [holdsAfterRaise, hk, putHold_ordered _ ho, e]

theorem holdsAfterRaise_opens {l : List Hold} {h : Hold} (ho : HoldsInOrder l) (hk : openHold h.reason l = none) :
    holdsAfterRaise l h = putHold h l := by
  simp [holdsAfterRaise, hk, putHold_ordered _ ho]

theorem holdsAfterRaise_inOrder {l : List Hold} (h : Hold) (ho : HoldsInOrder l) :
    HoldsInOrder (holdsAfterRaise l h) := by
  cases hk : openHold h.reason l with
  | none => rw [holdsAfterRaise_opens ho hk]; exact putHold_inOrder _ ho
  | some k => rw [holdsAfterRaise_counts ho hk]; exact putHold_inOrder _ ho

/-- A raise on a traveler within reach, its hold set in reason order (R149, R150): the record opens, opens again or
counts, and HOLD_RAISED is posted where it opens. -/
theorem raiseHold_spec {s : State} {t : Nat} {r : Traveler} (k : HoldReason) (who : Raiser) (g : Stage)
    (d : HoldDetail) (h : s.traveler t = some r) (hl : s.leaving t = false) (ho : HoldsInOrder r.holds) :
    let hold := newHold s s.now k who g d
    let u := s.raiseHold t k who g (some d)
    Happened s u (raiseNotices r.tag t r.holds [hold]) [.table] ∧
      ∀ n, u.traveler n = if n = t then some { r with holds := holdsAfterRaise r.holds hold } else s.traveler n := by
  intro hold u
  have at1 (r' : Traveler) (n : Nat) : (s.setTraveler t r').traveler n = if n = t then some r' else s.traveler n := by
    split
    · subst n; exact traveler_setTraveler_same _ h
    · exact traveler_setTraveler_other _ _ _ _ ‹_›
  have opened (hn : openHold k r.holds = none)
      (hu : u = (s.setTraveler t { r with holds := putHold hold r.holds }).post
        (.holdRaised r.tag t k who g (s.holds.levelOf k) (some d))) :
      Happened s u (raiseNotices r.tag t r.holds [hold]) [.table] ∧
        ∀ n, u.traveler n = if n = t then some { r with holds := holdsAfterRaise r.holds hold } else s.traveler n := by
    rw [hu, holdsAfterRaise_opens ho hn]
    refine ⟨?_, fun n => by rw [post_traveler, at1]⟩
    simp only [raiseNotices, show openHold hold.reason r.holds = none from hn]
    exact (happened_setTraveler s t _).then rfl (happened_post _ _) (by simp)
  cases hf : findHold k r.holds with
  | none =>
    exact opened (by rw [openHold_ordered k ho, hf]; rfl) (by simp only [u, State.raiseHold, h, hl, hf]; rfl)
  | some y =>
    by_cases o : y.state = .isOpen
    · have hk : openHold hold.reason r.holds = some y := by
        rw [show hold.reason = k from rfl, openHold_ordered k ho, hf]; simp [o]
      have hu : u = s.setTraveler t
          { r with holds := putHold { y with count := min (y.count + 1) Config.occurrenceMax } r.holds } := by
        simp only [u, State.raiseHold, h, hl, hf, o, if_true]; rfl
      rw [hu, holdsAfterRaise_counts ho hk]
      refine ⟨?_, fun n => at1 _ n⟩
      simp only [raiseNotices, hk]
      exact happened_setTraveler s t _
    · exact opened (by rw [openHold_ordered k ho, hf]; simp [o])
        (by simp only [u, State.raiseHold, h, hl, hf, o, if_false]; rfl)

end Sys2Proof.Machine
end

