-- ==== Sys2Proof/Laws/Calm.lean ====
section
/-! SUPPORT. Calm stretches: what every shared operation that changes neither the line mode nor the belt keeps of the
block's invariants. Each operation has one lemma, so that a proof over all commands cites it in place of unfolding. -/

namespace Sys2Proof.Machine

/-- A stretch of a step that keeps mode, belt, inputs and clock, raises no occupancy, and keeps the links, the volumes,
the doses and the table sizes sound. -/
structure Calm (s u : State) : Prop where
  frames   : FramesKept s u
  settings : SettingsKept s u
  links    : s.LinksOk → u.LinksOk
  mode     : u.table.mode = s.table.mode
  cause    : u.table.cause = s.table.cause
  detail   : u.table.detail = s.table.detail
  volumes  : s.VolumesOk → u.VolumesOk
  doses    : s.DosesOk → u.DosesOk
  shaped   : s.Shaped → u.Shaped
  setpoint : u.cure.setpoint = s.cure.setpoint
  output   : u.cure.output = s.cure.output
  stalled  : u.cure.stalled = s.cure.stalled
  room     : u.occupancy ≤ s.occupancy
  io       : u.io = { s.io with outputs := u.io.outputs }

namespace Calm

theorem refl (s : State) : Calm s s where
  frames := fun _ => ⟨rfl, rfl, rfl⟩
  settings := fun _ => ⟨rfl, rfl⟩
  links := id
  mode := rfl
  cause := rfl
  detail := rfl
  volumes := id
  doses := id
  shaped := id
  setpoint := rfl
  output := rfl
  stalled := rfl
  room := Nat.le_refl _
  io := rfl

theorem trans {s t u : State} (h : Calm s t) (k : Calm t u) : Calm s u where
  frames := h.frames.trans k.frames
  settings := h.settings.trans k.settings
  links := k.links ∘ h.links
  mode := k.mode.trans h.mode
  cause := k.cause.trans h.cause
  detail := k.detail.trans h.detail
  volumes := k.volumes ∘ h.volumes
  doses := k.doses ∘ h.doses
  shaped := k.shaped ∘ h.shaped
  setpoint := k.setpoint.trans h.setpoint
  output := k.output.trans h.output
  stalled := k.stalled.trans h.stalled
  room := Nat.le_trans k.room h.room
  io := by rw [k.io, h.io]

theorem now {s u : State} (h : Calm s u) : u.now = s.now := by simp only [State.now]; rw [h.io]

theorem occupied {s u : State} (h : Calm s u) (x : Sensor) : u.occupied x = s.occupied x := by
  simp only [State.occupied]; rw [h.io]

end Calm

/-! ### One block at a time -/

theorem linksOk_of_links {s u : State} (h : u.links = s.links) (hs : s.LinksOk) : u.LinksOk := by
  intro l; have := hs l; simpa [State.link, h] using this

theorem calm_onRecipes (s : State) (f : RecipeStore → RecipeStore)
    (h1 : (f s.recipes).slots.length = s.recipes.slots.length)
    (h2 : (f s.recipes).profiles.length = s.recipes.profiles.length) : Calm s (s.onRecipes f) :=
  { Calm.refl s with shaped := fun h => ⟨h.1, h1.trans h.2.1, h2.trans h.2.2.1, h.2.2.2⟩ }

theorem calm_setSlot (s : State) (n : Nat) (x : RecipeSlot) : Calm s (s.setSlot n x) :=
  calm_onRecipes s _ (length_putNth _ _ _) rfl

theorem calm_setProfile (s : State) (n : Nat) (p : Option Profile) : Calm s (s.setProfile n p) :=
  calm_onRecipes s _ rfl (length_putNth _ _ _)

theorem calm_onMask (s : State) (f : MaskUnit → MaskUnit) : Calm s (s.onMask f) := { Calm.refl s with }

theorem calm_onEngine (s : State) (f : StrokeEngine → StrokeEngine) : Calm s (s.onEngine f) := { Calm.refl s with }

theorem calm_onOutputs (s : State) (f : Outputs → Outputs) : Calm s (s.onOutputs f) := { Calm.refl s with io := rfl }

theorem calm_onCure (s : State) (f : CureMonitor → CureMonitor) (h1 : (f s.cure).setpoint = s.cure.setpoint)
    (h2 : (f s.cure).output = s.cure.output) (h3 : (f s.cure).stalled = s.cure.stalled)
    (h4 : (f s.cure).zones.length = s.cure.zones.length) : Calm s (s.onCure f) :=
  { Calm.refl s with
    setpoint := h1, output := h2, stalled := h3
    shaped := fun h =>
      ⟨h.1, h.2.1, h.2.2.1, h.2.2.2.1, h.2.2.2.2.1, h.2.2.2.2.2.1, h4.trans h.2.2.2.2.2.2.1, h.2.2.2.2.2.2.2⟩ }

theorem calm_onHolds (s : State) (f : HoldManager → HoldManager) (h1 : (f s.holds).levels.length = s.holds.levels.length)
    (h2 : (f s.holds).shelf.length = s.holds.shelf.length) : Calm s (s.onHolds f) :=
  { Calm.refl s with
    shaped := fun h =>
      ⟨h.1, h.2.1, h.2.2.1, h.2.2.2.1, h.2.2.2.2.1, h.2.2.2.2.2.1, h.2.2.2.2.2.2.1, h1.trans h.2.2.2.2.2.2.2.1,
        h2.trans h.2.2.2.2.2.2.2.2.1, h.2.2.2.2.2.2.2.2.2⟩ }

theorem calm_onLots (s : State) (f : LotTable → LotTable) (hv : s.VolumesOk → (s.onLots f).VolumesOk)
    (h1 : (f s.lots).heads.length = s.lots.heads.length) (h2 : (f s.lots).map.length = s.lots.map.length)
    (h3 : (f s.lots).records.length = s.lots.records.length) : Calm s (s.onLots f) :=
  { Calm.refl s with
    volumes := hv
    shaped := fun h =>
      ⟨h.1, h.2.1, h.2.2.1, h3.trans h.2.2.2.1, h1.trans h.2.2.2.2.1, h2.trans h.2.2.2.2.2.1, h.2.2.2.2.2.2⟩ }

theorem calm_onTable (s : State) (f : TravelerTable → TravelerTable) (h1 : (f s.table).mode = s.table.mode)
    (h2 : (f s.table).cause = s.table.cause) (h3 : (f s.table).detail = s.table.detail)
    (h4 : (f s.table).records.length = s.table.records.length) (h5 : s.DosesOk → (s.onTable f).DosesOk)
    (h6 : (s.onTable f).occupancy ≤ s.occupancy) : Calm s (s.onTable f) :=
  { Calm.refl s with
    mode := h1, cause := h2, detail := h3, doses := h5, room := h6
    shaped := fun h => ⟨h4.trans h.1, h.2⟩ }

theorem mem_putNth {α : Type} {l : List α} {n : Nat} {a x : α} (h : x ∈ putNth l n a) : x = a ∨ x ∈ l := by
  unfold putNth at h
  split at h
  · exact .inr h
  · exact (List.mem_or_eq_of_mem_set h).symm

theorem calm_setTraveler (s : State) (t : Nat) (r : Traveler)
    (h : s.DosesOk → r.passDose ≤ r.lifeDose ∧ r.lifeDose ≤ Config.doseMax) : Calm s (s.setTraveler t r) :=
  calm_onTable s _ rfl rfl rfl (by simp)
    (fun hs x hx => by
      rcases mem_putNth hx with hx | hx
      · cases hx; exact h hs
      · exact hs x hx) (Nat.le_refl _)

theorem dosesOk_traveler {s : State} {t : Nat} {r : Traveler} (h : s.traveler t = some r) (hs : s.DosesOk) :
    r.passDose ≤ r.lifeDose ∧ r.lifeDose ≤ Config.doseMax := hs r (mem_of_traveler h)

/-- A live traveler's record written with both doses as they were. -/
theorem calm_setTraveler_of {s : State} {t : Nat} {r r' : Traveler} (hr : s.traveler t = some r)
    (hp : r'.passDose = r.passDose) (hl : r'.lifeDose = r.lifeDose) : Calm s (s.setTraveler t r') :=
  calm_setTraveler s t r' fun hs => by rw [hp, hl]; exact dosesOk_traveler hr hs

theorem calm_onTraveler (s : State) (t : Nat) (f : Traveler → Traveler)
    (hp : ∀ r, (f r).passDose = 0 ∨ (f r).passDose = r.passDose) (hl : ∀ r, (f r).lifeDose = r.lifeDose) :
    Calm s (s.onTraveler t f) := by
  unfold State.onTraveler
  split
  · exact Calm.refl s
  · rename_i r hr
    refine calm_setTraveler s t _ fun hs => ?_
    have := dosesOk_traveler hr hs
    rw [hl r]
    rcases hp r with h | h <;> rw [h] <;> omega

theorem offer_ok {l : LinkState} (n : Notice) (h : l.Ok) : (l.offer n).Ok := by
  unfold LinkState.offer
  split
  · split
    · rename_i hq
      refine ⟨?_, h.2.1, rfl⟩
      simp only [LinkState.judge, List.length_append, List.length_cons, List.length_nil]
      omega
    · exact ⟨h.1, h.2.1, h.2.2⟩
  · exact h

theorem calm_post (s : State) (k : NoticeKind) : Calm s (s.post k) :=
  { Calm.refl s with
    frames := (happened_post s k).2.2.1
    settings := (happened_post s k).2.1
    links := fun h l => by
      rw [post_link]; exact offer_ok _ (h l) }

/-! ### Records and holds -/

theorem calm_moveStage (s : State) (t : Nat) (g : Stage) (p : PlaceState) : Calm s (s.moveStage t g p) := by
  unfold State.moveStage
  split
  · exact Calm.refl s
  · rename_i r hr
    exact (calm_setTraveler_of (r' := { r with stage := g, place := p }) hr rfl rfl).trans (calm_post _ _)

theorem calm_raiseHold (s : State) (t : Nat) (k : HoldReason) (w : Raiser) (g : Stage) (d : Option HoldDetail) :
    Calm s (s.raiseHold t k w g d) := by
  unfold State.raiseHold
  split
  · exact Calm.refl s
  · rename_i r hr
    have hd : ∀ l, Calm s (s.setTraveler t { r with holds := l }) := fun _ => calm_setTraveler_of hr rfl rfl
    split
    · exact Calm.refl s
    · dsimp only
      split
      · exact (hd _).trans (calm_post _ _)
      · split
        · exact hd _
        · exact (hd _).trans (calm_post _ _)

theorem calm_releaseRecord (s : State) (t : Nat) (h : Hold) (l : Link) (n : Nat) : Calm s (s.releaseRecord t h l n) := by
  unfold State.releaseRecord
  split
  · exact Calm.refl s
  · rename_i r hr
    have hd : ∀ l, Calm s (s.setTraveler t { r with holds := l }) := fun _ => calm_setTraveler_of hr rfl rfl
    exact (hd _).trans (calm_post _ _)

/-! ### Transfers -/

theorem calm_reselect (s : State) : Calm s s.reselect := calm_onOutputs s _

@[simp] theorem length_freeSlotsOf (t : Nat) (l : List ShelfSlot) : (freeSlotsOf t l).length = l.length := by
  simp [freeSlotsOf]

theorem calm_freeSlot (s : State) (t : Nat) : Calm s (s.freeSlot t) :=
  (calm_onHolds s _ rfl (by simp)).trans (calm_onTraveler _ t _ (fun _ => .inr rfl) fun _ => rfl)

theorem calm_assignSlot (s : State) (n t : Nat) : Calm s (s.assignSlot n t) :=
  (calm_onHolds s _ rfl (by simp)).trans (calm_onTraveler _ t _ (fun _ => .inr rfl) fun _ => rfl)

theorem calm_restSlot (s : State) (n t : Nat) : Calm s (s.restSlot n t) := calm_onHolds s _ rfl (by simp)

theorem calm_setRecord (s : State) (x : Station) (i : Option Inspection) : Calm s (s.setRecord x i) := calm_onMask s _

theorem calm_openInspection (s : State) (x : Station) (t : Nat) : Calm s (s.openInspection x t) := by
  unfold State.openInspection
  split
  · exact Calm.refl s
  · split
    · exact calm_setRecord s x _
    · exact (calm_setRecord s x _).trans (calm_post _ _)

theorem calm_examineOverdue (s : State) (t : Nat) : Calm s (s.examineOverdue t) := by
  unfold State.examineOverdue
  split
  · exact (calm_onCure s _ rfl rfl rfl rfl).trans (calm_raiseHold _ _ _ _ _ _)
  · exact Calm.refl s

theorem calm_examineFlash (s : State) : Calm s s.examineFlash := by
  have h : ∀ (l : List Nat) (u : State), Calm u (l.foldl (fun s k => s.examineOverdue (k + 1)) u) := by
    intro l
    induction l with
    | nil => exact fun u => Calm.refl u
    | cons k l ih => exact fun u => (calm_examineOverdue u (k + 1)).trans (ih _)
  exact h _ s

theorem dropOven_belt (c : CureMonitor) (t : Nat) :
    (c.dropOven t).setpoint = c.setpoint ∧ (c.dropOven t).output = c.output ∧ (c.dropOven t).stalled = c.stalled ∧
      (c.dropOven t).zones = c.zones := by
  unfold CureMonitor.dropOven
  split <;> exact ⟨rfl, rfl, rfl, rfl⟩

theorem countP_filter_le {α : Type} (p q : α → Bool) (l : List α) : (l.filter q).countP p ≤ l.countP p :=
  List.Sublist.countP_le List.filter_sublist

theorem calm_retire (s : State) (t : Nat) (o : RetireOutcome) : Calm s (s.retire t o) := by
  unfold State.retire
  split
  · exact Calm.refl s
  · rename_i r hr
    dsimp only
    refine Calm.trans ?_ (calm_post _ _)
    refine Calm.trans ?_ (calm_reselect _)
    refine Calm.trans ?_ (calm_onHolds _ _ rfl (length_freeSlotsOf _ _))
    refine Calm.trans ?_ (calm_onCure _ _ (dropOven_belt _ t).1 (dropOven_belt _ t).2.1 (dropOven_belt _ t).2.2.1
      (congrArg List.length (dropOven_belt _ t).2.2.2))
    refine Calm.trans ?_ (calm_onEngine _ _)
    refine Calm.trans ?_ (calm_onMask _ _)
    refine Calm.trans ?_ (calm_onRecipes _ _ ?_ ?_)
    · refine calm_onTable s _ rfl rfl rfl (length_putNth _ _ _) (fun hs x hx => ?_) ?_
      · rcases mem_putNth hx with hx | hx
        · cases hx
        · exact hs x hx
      · exact Nat.add_le_add (List.length_filter_le _ _) (countP_filter_le _ _ _)
    · split
      · rfl
      · exact length_putNth _ _ _
    · split <;> rfl

theorem calm_expect (s : State) (t : Nat) (d : Place) : Calm s (s.expect t d) := by
  match d with
  | .queue | .preStation | .accumulator | .postStation | .outfeed => exact Calm.refl s
  | .cell => unfold State.expect; exact calm_onEngine s _
  | .shelf n => exact calm_assignSlot s n t
  | .flashBelt => unfold State.expect; refine calm_onCure s _ ?_ ?_ ?_ ?_ <;> rfl

/-- The entry created and the board out of its list (R16): from the infeed queue it had to stand there. -/
theorem calm_entry (s : State) (e : Transfer) (h : e.source = .queue → e.traveler ∈ s.table.queue) :
    Calm s ((s.onTable fun b => { b with transfers := b.transfers ++ [e] }).leaveSource e.traveler e.source) := by
  by_cases ha : e.source = .queue
  · have : (s.onTable fun b => { b with transfers := b.transfers ++ [e] }).leaveSource e.traveler e.source =
        s.onTable fun b =>
          { b with transfers := b.transfers ++ [e], queue := b.queue.filter (· != e.traveler) } := by rw [ha]; rfl
    rw [this]
    refine calm_onTable s _ rfl rfl rfl rfl id ?_
    have hlt : (s.table.queue.filter (· != e.traveler)).length < s.table.queue.length :=
      List.length_filter_lt_length_iff_exists.2 ⟨e.traveler, h ha, by simp⟩
    simp only [State.occupancy, State.onTable, List.countP_append, List.countP_cons, List.countP_nil, ha, beq_self_eq_true,
      if_true]
    omega
  · have h2 : Calm s (s.onTable fun b => { b with transfers := b.transfers ++ [e] }) := by
      refine calm_onTable s _ rfl rfl rfl rfl id ?_
      simp only [State.occupancy, State.onTable, List.countP_append, List.countP_cons, List.countP_nil, beq_iff_eq, ha,
        if_false]
      omega
    refine h2.trans ?_
    unfold State.leaveSource
    split
    · exact absurd ‹_› ha
    · refine calm_onCure _ _ ?_ ?_ ?_ ?_ <;> rfl
    · exact Calm.refl _

/-- The start of a transfer: a board that leaves the infeed queue stood in it (R16). -/
theorem calm_beginTransfer (s : State) (t : Nat) (a d : Place) (h : a = .queue → t ∈ s.table.queue) :
    Calm s (s.beginTransfer t a d) := by
  have h1 := (calm_onOutputs s (openWay a d)).trans (calm_entry (s.onOutputs (openWay a d))
    { traveler := t, source := a, dest := d,
      deadline := some (deadlineIn (s.onOutputs (openWay a d)).now (s.onOutputs (openWay a d)).io.timeouts.transfer) } h)
  unfold State.beginTransfer
  dsimp only
  have h3 := ((h1.trans (calm_expect _ t d)).trans (calm_reselect _)).trans (calm_moveStage _ t d.stage .arriving)
  split
  · exact h3.trans (calm_examineFlash _)
  · exact h3

theorem calm_removeTransfer (s : State) (t : Nat) : Calm s (s.removeTransfer t) :=
  (calm_onTable s _ rfl rfl rfl rfl id (Nat.add_le_add (Nat.le_refl _) (countP_filter_le _ _ _))).trans (calm_reselect _)

theorem calm_leaveStation (s : State) (a : Place) : Calm s (s.leaveStation a) := by
  cases a <;> first | exact Calm.refl s | exact calm_setRecord s _ _

theorem calm_receive (s : State) (t : Nat) (d : Place) : Calm s (s.receive t d) := by
  match d with
  | .queue | .preStation | .accumulator | .postStation | .outfeed => exact Calm.refl s
  | .cell => unfold State.receive; exact calm_onEngine s _
  | .shelf n => exact calm_restSlot s n t
  | .flashBelt =>
    refine Calm.trans (t := s.onCure fun c => { c with flash := c.flash ++ [t] }) ?_ (calm_onEngine _ _)
    refine calm_onCure s _ ?_ ?_ ?_ ?_ <;> rfl

theorem calm_settle (s : State) (e : Transfer) : Calm s (s.settle e) := by
  unfold State.settle
  split
  · exact calm_retire s _ _
  · exact ((calm_moveStage s _ _ _).trans (calm_leaveStation _ _)).trans (calm_receive _ _ _)

theorem calm_inspectAt (s : State) (t : Nat) (d : Place) : Calm s (s.inspectAt t d) := by
  cases d <;> first | exact Calm.refl s | exact calm_openInspection s _ t

theorem calm_finishTransfer (s : State) (e : Transfer) : Calm s (s.finishTransfer e) :=
  (((calm_onOutputs s _).trans (calm_removeTransfer _ _)).trans (calm_settle _ e)).trans (calm_inspectAt _ _ _)

theorem calm_startTransfer (s : State) (t : Nat) (a d : Place) (h : a = .queue → t ∈ s.table.queue) :
    Calm s (s.startTransfer t a d) := by
  unfold State.startTransfer
  dsimp only
  split
  · exact calm_beginTransfer s t a d h
  · exact (calm_beginTransfer s t a d h).trans (calm_finishTransfer _ _)

theorem calm_decidePre (s : State) : Calm s s.decidePre := by
  unfold State.decidePre
  split
  · exact Calm.refl s
  · exact calm_startTransfer s _ _ _ (by intro h; cases h)

theorem calm_decideExit (s : State) : Calm s s.decideExit := by
  unfold State.decideExit
  split
  · exact Calm.refl s
  · exact calm_startTransfer s _ _ _ (by intro h; cases h)

theorem calm_decideFor (s : State) (t : Nat) : Calm s (s.decideFor t) := by
  unfold State.decideFor
  split
  · exact calm_decidePre s
  · exact calm_decideExit s
  · exact Calm.refl s

theorem calm_decideBoth (s : State) : Calm s s.decideBoth := (calm_decideExit s).trans (calm_decidePre _)

theorem calm_handArrival (s : State) (d : Place) : Calm s (s.handArrival d) := by
  cases d <;> first | exact Calm.refl s | exact calm_decidePre s

end Sys2Proof.Machine
end

