-- ==== Sys2Proof/Laws/CalmCell.lean ====
section
/-! SUPPORT. The calm stretches of the lot table, the stroke engine, the inspections and the cure monitor. -/

namespace Sys2Proof.Machine

/-! ### Lots and the spray valve -/

theorem lot_mem {b : LotTable} {n : Nat} {m : Lot} (h : (nth b.records n).join = some m) : some m ∈ b.records := by
  cases hx : nth b.records n with
  | none => simp [hx] at h
  | some o =>
    simp [hx] at h
    subst h
    unfold nth at hx
    split at hx
    · cases hx
    · exact List.mem_of_getElem? hx

/-- A lot record written whose volumes add up (R51). -/
theorem calm_setLot (s : State) (n : Nat) (m : Lot)
    (h : s.VolumesOk → m.charged = m.remaining + m.dispensed) : Calm s (s.setLot n m) :=
  calm_onLots s _
    (fun hs x hx => by
      rcases mem_putNth hx with hx | hx
      · cases hx; exact h hs
      · exact hs x hx) rfl rfl (length_putNth _ _ _)

theorem calm_warnLow (s : State) (n : Nat) : Calm s (s.warnLow n) := by
  unfold State.warnLow
  split
  · exact Calm.refl s
  · rename_i m hm
    split
    · exact (calm_setLot s n { m with lowWarned := true } fun hs => hs m (lot_mem hm)).trans (calm_post _ _)
    · exact Calm.refl s

theorem mountedOn_record {b : LotTable} {head n : Nat} {m : Lot} (h : b.mountedOn head = some (n, m)) :
    (nth b.map head).join = some n ∧ (nth b.records n).join = some m := by
  unfold LotTable.mountedOn at h
  split at h
  · cases h
  · rename_i k hk
    cases hr : (nth b.records k).join with
    | none => simp [hr] at h
    | some x => simp [hr] at h; obtain ⟨rfl, rfl⟩ := h; exact ⟨hk, hr⟩

theorem calm_draw (s : State) (head amount : Nat) : Calm s (s.draw head amount) := by
  unfold State.draw
  split
  · exact Calm.refl s
  · rename_i n m hm
    refine Calm.trans (t := s.setLot n { m with remaining := m.remaining - amount, dispensed := m.dispensed + amount })
      (calm_setLot s n _ fun hs => ?_) (calm_warnLow _ _)
    have := hs m (lot_mem (mountedOn_record hm).2)
    dsimp only; omega

theorem calm_closeValve (s : State) : Calm s s.closeValve := by
  unfold State.closeValve
  split
  · exact Calm.refl s
  · exact (calm_onEngine s _).trans (calm_draw _ _ _)

theorem calm_openValve (s : State) (head : Nat) (d : Dispense) : Calm s (s.openValve head d) := by
  unfold State.openValve
  split
  · exact Calm.refl s
  · exact calm_onEngine s _

/-! ### The gantry port -/

theorem calm_send (s : State) (m : GantryMessage) (p : Option Point) (n : Nat) : Calm s (s.send m p n) := by
  unfold State.send
  exact calm_onEngine s _

theorem calm_sendMove (s : State) (head : Nat) (p : Point) (v : Nat) : Calm s (s.sendMove head p v) := calm_send s _ _ _

theorem calm_sendStop (s : State) : Calm s s.sendStop := (calm_send s _ _ _).trans (calm_onEngine _ _)

theorem calm_sendPark (s : State) : Calm s s.sendPark := by
  unfold State.sendPark
  split
  · exact Calm.refl s
  · exact calm_sendMove s _ _ _

theorem calm_quiet (s : State) (p : Option Point) : Calm s (s.quiet p) := calm_onEngine s _

/-! ### Programs -/

theorem calm_countSkipped (s : State) (t : Nat) : Calm s (s.countSkipped t) :=
  calm_onTraveler s t _ (fun _ => .inr rfl) fun _ => rfl

theorem calm_recordFault (s : State) (t k p : Nat) (c : StrokeFaultCause) : Calm s (s.recordFault t k p c) := by
  unfold State.recordFault
  split
  · exact Calm.refl s
  · rename_i r hr
    have hd : ∀ x : CoatSummary, Calm s (s.setTraveler t { r with coat := x }) := fun _ => calm_setTraveler_of hr rfl rfl
    dsimp only
    split
    · exact (hd _).trans (calm_raiseHold _ _ _ _ _ _)
    · exact hd _

theorem calm_startPass (s : State) (w : StrokeWork) (k : Nat) : Calm s (s.startPass w k) := by
  unfold State.startPass
  split
  · exact Calm.refl s
  · exact (calm_onEngine s _).trans (calm_sendMove _ _ _ _)

theorem calm_travelStep (s : State) (t k : Nat) (r : Traveler) (x : Stroke) (c : HeadConfig) (d : Option Dispense) :
    Calm s (s.travelStep t k r x c d).1 := by
  unfold State.travelStep
  split
  · exact Calm.refl s
  · dsimp only
    split
    · exact (calm_countSkipped s t).trans (calm_recordFault _ _ _ _ _)
    · exact calm_startPass s _ _

theorem calm_materialStep (s : State) (t k kind : Nat) (r : Traveler) (x : Stroke) (w : Window) (c : HeadConfig) :
    Calm s (s.materialStep t k kind r x w c).1 := by
  unfold State.materialStep
  split
  · exact (calm_countSkipped s t).trans (calm_raiseHold _ _ _ _ _ _)
  · dsimp only
    refine Calm.trans ?_ (calm_travelStep _ t k r x c _)
    have h := fun f : Traveler → List (Option Text) => calm_onTraveler s t (fun r => { r with lotsUsed := f r }) (fun _ => .inr rfl) fun _ => rfl
    split
    · exact h _
    · exact (h _).trans (calm_raiseHold _ _ _ _ _ _)

theorem calm_headStep (s : State) (t k : Nat) (x : Stroke) (next : HeadConfig → State × TakeUp)
    (h : ∀ c, Calm s (next c).1) : Calm s (s.headStep t k x next).1 := by
  unfold State.headStep
  split
  · exact (calm_countSkipped s t).trans (calm_recordFault _ _ _ _ _)
  · exact h _

theorem calm_takeStroke (s : State) (t k : Nat) : Calm s (s.takeStroke t k).1 := by
  have h0 : Calm s (s.onTraveler t fun r => { r with strokeCursor := k, passCursor := 0 }) :=
    calm_onTraveler s t _ (fun _ => .inr rfl) fun _ => rfl
  unfold State.takeStroke
  dsimp only
  split
  · exact h0
  · split
    · exact h0
    · split
      · split
        · split
          · exact (h0.trans (calm_countSkipped _ t)).trans (calm_raiseHold _ _ _ _ _ _)
          · exact h0.trans (calm_headStep _ _ _ _ _ fun c => calm_materialStep _ _ _ _ _ _ _ c)
        · exact h0
      · exact h0.trans (calm_headStep _ _ _ _ _ fun c => calm_travelStep _ _ _ _ _ c _)

theorem calm_endProgram (s : State) (t : Nat) : Calm s (s.endProgram t) :=
  ((calm_onTraveler s t (fun r => { r with program := .done }) (fun _ => .inr rfl) fun _ => rfl).trans
    (calm_onEngine _ _)).trans (calm_sendPark _)

theorem calm_takeUp (t n k : Nat) (s : State) : Calm s (State.takeUp t n k s) := by
  induction n generalizing k s with
  | zero => exact calm_endProgram s t
  | succ n ih =>
    unfold State.takeUp
    have h := calm_takeStroke s t k
    split <;> rename_i heq <;> rw [heq] at h
    · exact h.trans (ih _ _)
    · exact h.trans (calm_endProgram _ t)
    · exact h

theorem calm_endPass (s : State) (t : Nat) (w : StrokeWork) : Calm s (s.endPass t w) := by
  unfold State.endPass
  split
  · exact Calm.refl s
  · rename_i r hr
    have hd : Calm s (s.setTraveler t { r with passCursor := r.passCursor + 1 }) := calm_setTraveler_of hr rfl rfl
    dsimp only
    split
    · exact hd.trans (calm_startPass _ _ _)
    · refine Calm.trans ?_ (calm_takeUp _ _ _ _)
      refine Calm.trans ?_ (calm_onEngine _ _)
      exact hd.trans (calm_onTraveler _ t _ (fun _ => .inr rfl) fun _ => rfl)

theorem calm_parked (s : State) : Calm s s.parked := by
  unfold State.parked
  split
  · refine Calm.trans ?_ (calm_onTraveler _ _ _ (fun r => ?_) fun r => ?_)
    · exact calm_onEngine s _
    · split <;> exact .inr rfl
    · split <;> rfl
  · exact Calm.refl s

theorem calm_startProgram (s : State) (t : Nat) : Calm s (s.startProgram t) := by
  unfold State.startProgram
  split
  · exact Calm.refl s
  · rename_i r hr
    split
    · refine Calm.trans ?_ (calm_onEngine _ _)
      exact calm_setTraveler_of hr rfl rfl
    · dsimp only
      refine Calm.trans ?_ (calm_takeUp _ _ _ _)
      refine Calm.trans ?_ (calm_onEngine _ _)
      exact calm_setTraveler_of hr rfl rfl

theorem calm_alongPass (s : State) (w : StrokeWork) (p : Point × Point) : Calm s (s.alongPass w p) := by
  unfold State.alongPass
  dsimp only
  split
  · exact (calm_onEngine s _).trans (calm_sendMove _ _ _ _)
  · exact ((calm_onEngine s _).trans (calm_send _ _ _ _)).trans (calm_openValve _ _ _)

theorem calm_arrivedInProgram (s : State) : Calm s s.arrivedInProgram := by
  unfold State.arrivedInProgram
  split
  · split
    · exact calm_endPass s _ _
    · split
      · exact Calm.refl s
      · exact calm_alongPass s _ _
  · exact Calm.refl s

theorem calm_faultInProgram (s : State) (code : Nat) : Calm s (s.faultInProgram code) := by
  unfold State.faultInProgram
  split
  · dsimp only
    split
    · exact calm_closeValve s
    · exact ((calm_closeValve s).trans (calm_recordFault _ _ _ _ _)).trans (calm_endProgram _ _)
  · exact Calm.refl s

theorem calm_faultAtPark (s : State) (code : Nat) : Calm s (s.faultAtPark code) := by
  unfold State.faultAtPark
  split
  · exact (calm_parked s).trans (calm_recordFault _ _ _ _ _)
  · exact Calm.refl s

/-! ### HALT and the way out of it -/

theorem calm_stopMotion (s : State) : Calm s s.stopMotion := by
  unfold State.stopMotion
  split
  · split
    · exact Calm.refl s
    · exact calm_sendStop s
  · exact Calm.refl s
  · exact Calm.refl s

theorem calm_raiseInterrupted (s : State) (t : Nat) : Calm s (s.raiseInterrupted t) := by
  unfold State.raiseInterrupted
  split
  · exact Calm.refl s
  · exact calm_raiseHold s _ _ _ _ _

theorem calm_haltEngine (s : State) : Calm s s.haltEngine := by
  unfold State.haltEngine
  split
  · dsimp only
    refine Calm.trans ?_ (calm_onEngine _ _)
    refine Calm.trans ?_ (calm_raiseInterrupted _ _)
    refine Calm.trans ?_ (calm_onTraveler _ _ _ (fun _ => .inr rfl) fun _ => rfl)
    exact (calm_closeValve s).trans (calm_stopMotion _)
  · exact calm_stopMotion s
  · exact Calm.refl s

theorem calm_parkAgain (s : State) : Calm s s.parkAgain := by
  unfold State.parkAgain
  split
  · exact (calm_onEngine s _).trans (calm_sendPark _)
  · exact Calm.refl s

theorem calm_leaveHaltEngine (s : State) : Calm s s.leaveHaltEngine := by
  unfold State.leaveHaltEngine
  split
  · exact calm_sendStop s
  · exact calm_parkAgain s

theorem calm_haltTransfers (s : State) : Calm s s.haltTransfers := by
  unfold State.haltTransfers
  refine Calm.trans ?_ (calm_onTable _ _ rfl rfl rfl rfl id ?_)
  · exact calm_onOutputs s _
  · simp only [State.occupancy, State.onTable, List.countP_map]
    exact Nat.le_refl _

/-! ### Inspections -/

theorem calm_endInspection (s : State) (x : Station) (i : Inspection) (c : EndCause) : Calm s (s.endInspection x i c) :=
  (calm_setRecord s x _).trans (calm_onTraveler _ _ _ (fun _ => .inr rfl) fun _ => rfl)

theorem calm_evaluate (s : State) (x : Station) (t : Nat) : Calm s (s.evaluate x t).1 := by
  cases x
  · simp only [State.evaluate, State.evaluatePre]
    split
    · exact Calm.refl s
    · split <;> split <;> first
        | exact Calm.refl s
        | exact calm_raiseHold s _ _ _ _ _
        | exact (calm_raiseHold s _ _ _ _ _).trans (calm_raiseHold _ _ _ _ _ _)
  · simp only [State.evaluate, State.evaluatePost]
    split
    · exact Calm.refl s
    · split
      · exact Calm.refl s
      · exact calm_raiseHold s _ _ _ _ _

theorem calm_decideAt (s : State) (x : Station) : Calm s (s.decideAt x) := by
  cases x
  · exact calm_decidePre s
  · exact calm_decideExit s

theorem calm_expireInspection (s : State) (x : Station) (i : Inspection) : Calm s (s.expireInspection x i) := by
  unfold State.expireInspection
  dsimp only
  split
  · exact calm_endInspection s _ _ _
  · refine Calm.trans ?_ (calm_decideAt _ _)
    refine Calm.trans ?_ (calm_post _ _)
    refine Calm.trans ?_ (calm_evaluate _ _ _)
    exact (calm_endInspection s _ _ _).trans (calm_raiseHold _ _ _ _ _ _)

/-! ### The cure monitor -/

theorem calm_raiseForced (s : State) (t : Nat) (f : ForcedForm) : Calm s (s.raiseForced t f) := by
  cases f <;> first | exact Calm.refl s | exact calm_raiseHold s _ _ _ _ _

theorem calm_exitVerdict (s : State) (e : OvenEntry) : Calm s (s.exitVerdict e) := by
  unfold State.exitVerdict
  split
  · exact Calm.refl s
  · split
    · exact Calm.refl s
    · split
      · exact calm_raiseHold s _ _ _ _ _
      · exact Calm.refl s

theorem calm_sampleZone (s : State) (k : Nat) (x : Option Int) : Calm s (s.sampleZone k x) := by
  unfold State.sampleZone
  split
  · exact Calm.refl s
  · dsimp only
    have h : ∀ z, Calm s (s.onCure fun c => { c with zones := putNth c.zones k z }) := fun z =>
      calm_onCure s _ rfl rfl rfl (length_putNth _ _ _)
    split
    · exact (h _).trans (calm_post _ _)
    · split
      · exact (h _).trans (calm_post _ _)
      · exact h _

theorem calm_sampleFrom (k n : Nat) (l : List ChannelSignals) (s : State) : Calm s (State.sampleFrom k n l s) := by
  induction n generalizing k l s with
  | zero => cases l <;> exact Calm.refl s
  | succ n ih => cases l <;> exact (calm_sampleZone s k _).trans (ih _ _ _)

theorem calm_testOverCure (s : State) (e : OvenEntry) : Calm s (s.testOverCure e) := by
  unfold State.testOverCure
  split
  · exact Calm.refl s
  · split
    · exact Calm.refl s
    · split
      · dsimp only
        refine Calm.trans ?_ (calm_post _ _)
        refine Calm.trans ?_ (calm_raiseHold _ _ _ _ _ _)
        refine calm_onCure s _ ?_ ?_ ?_ ?_ <;> rfl
      · exact Calm.refl s

theorem calm_accrue (s : State) (e : OvenEntry) : Calm s (s.accrue e) := by
  unfold State.accrue
  split
  · exact Calm.refl s
  · rename_i r hr
    dsimp only
    refine Calm.trans ?_ (calm_testOverCure _ e)
    split
    · exact Calm.refl s
    · refine calm_setTraveler s _ _ fun hs => ?_
      have := dosesOk_traveler hr hs
      simp only [addDose, Config.doseMax] at *
      omega
    · exact calm_raiseHold s _ _ _ _ _

theorem calm_accrueAll (l : List OvenEntry) (s : State) : Calm s (l.foldl State.accrue s) := by
  induction l generalizing s with
  | nil => exact Calm.refl s
  | cons e l ih => exact (calm_accrue s e).trans (ih _)

end Sys2Proof.Machine
end

