-- ==== Sys2Proof/Laws/Entries.lean ====
section
/-! SUPPORT. Tables numbered from 1: what a write leaves, which numbers have an entry, and the first that meets a test. -/

namespace Sys2Proof.Machine

/-- An entry that the table has, written. -/
theorem nth_putNth_live {α : Type} {l : List α} {n : Nat} {x : α} (a : α) (h : nth l n = some x) : nth (putNth l n a) n = some a := by
  unfold nth at *
  split at h
  · cases h
  · rename_i hn
    have : n - 1 < l.length := by
      rcases Nat.lt_or_ge (n-1) l.length with h' | h'
      · exact h'
      · rw [List.getElem?_eq_none h'] at h; cases h
    simp [putNth, hn, this]
/-- Every number of the table has an entry. -/
theorem nth_exists {α : Type} {l : List α} {n : Nat} (h1 : 1 ≤ n) (h2 : n ≤ l.length) : ∃ o, nth l n = some o := by
  refine ⟨l[n-1]'(by omega), ?_⟩
  simp [nth, show n ≠ 0 by omega, show n - 1 < l.length by omega]
/-- An entry is a member of the table. -/
theorem mem_of_nth {α : Type} {l : List α} {n : Nat} {a : α} (h : nth l n = some a) : a ∈ l := by
  unfold nth at h; split at h
  · cases h
  · exact List.mem_of_getElem? h
/-- A member of the table has a number. -/
theorem nth_of_mem {α : Type} {l : List α} {a : α} (h : a ∈ l) : ∃ n, nth l n = some a := by
  obtain ⟨n, hn, he⟩ := List.mem_iff_getElem.1 h
  exact ⟨n + 1, by simp [nth, List.getElem?_eq_getElem hn, he]⟩
/-- The first number that satisfies a test. -/
theorem firstNth_some {α : Type} {p : α → Bool} {l : List α} {n : Nat} {a : α} (h : nth l n = some a) (hp : p a = true) (hmin : ∀ k b, nth l k = some b → p b = true → n ≤ k) : firstNth p l = some n := by
  cases hf : l.findIdx? p with
  | none =>
    rw [List.findIdx?_eq_none_iff] at hf
    have := hf a (mem_of_nth h); simp [hp] at this
  | some i =>
    have hf0 : l.findIdx? p = some i := hf
    rw [List.findIdx?_eq_some_iff_getElem] at hf
    obtain ⟨hi, hpi, hb⟩ := hf
    have h1 : nth l (i+1) = some l[i] := by simp [nth, hi]
    have h2 := hmin (i+1) _ h1 hpi
    have h3 : i + 1 ≤ n := by
      by_contra hc
      have hn := nth_some h
      have := hb (n-1) (by omega)
      have h4 : l[n-1] = a := by
        unfold nth at h; rw [if_neg (by omega)] at h
        rw [List.getElem?_eq_getElem (by omega)] at h; simpa using h
      simp [h4, hp] at this
    simp only [firstNth, hf0, Option.map_some]; congr 1; have := nth_some h; omega

/-- No number satisfies a test that no entry meets. -/
theorem firstNth_none {α : Type} {p : α → Bool} {l : List α} (h : ∀ a ∈ l, p a = false) : firstNth p l = none := by
  simp only [firstNth, Option.map_eq_none_iff, List.findIdx?_eq_none_iff]; exact h
end Sys2Proof.Machine
end

