-- ==== Sys2Proof/Laws/Marks.lean ====
section
/-! SUPPORT. What the examination for the flash maximum leaves (R111): the travelers that are due are marked, with a raise
on each. -/

namespace Sys2Proof.Machine

/-- The FLASH_OVERDUE record that a mark on the traveler of record `y` asks for in `s`. -/
def State.overdueHold (s : State) (y : Traveler) : Hold :=
  newHold s s.now .flashOverdue .cureMonitor .flash (.flashTime ((s.flashTime y).getD 0))

/-- The notices of a mark on traveler `t`. -/
def State.overdueNotices (s : State) (t : Nat) : List NoticeKind :=
  match s.traveler t with
  | none => []
  | some y => raiseNotices y.tag t y.holds [s.overdueHold y]

/-- What marks on the travelers `marks` leave, in that order (R111): the marks set, FLASH_OVERDUE raised on each. -/
def MarkedOverdue (s u : State) (marks : List Nat) : Prop :=
  Happened s u (marks.flatMap s.overdueNotices) [.table, .cure] ∧
    u.cure = { s.cure with overdue := s.cure.overdue ++ marks } ∧
    u.table = { s.table with records := u.table.records } ∧
    ∀ n, u.traveler n = (s.traveler n).map fun y =>
      if n ∈ marks then { y with holds := holdsAfterRaise y.holds (s.overdueHold y) } else y

/-- One traveler examined: marked where it is due (R111). -/
theorem examineOverdue_spec {s : State} {t : Nat}
    (h : s.overdueDue t = true → s.leaving t = false ∧ ∀ y, s.traveler t = some y → HoldsInOrder y.holds) :
    MarkedOverdue s (s.examineOverdue t) (if s.overdueDue t then [t] else []) := by
  cases hd : s.overdueDue t with
  | false =>
    have : s.examineOverdue t = s := by simp [State.examineOverdue, hd]
    rw [this]
    exact ⟨(Happened.refl s).mono (by simp), by simp, rfl, fun n => by simp⟩
  | true =>
    obtain ⟨hl, ho⟩ := h hd
    obtain ⟨y, hy⟩ : ∃ y, s.traveler t = some y := by
      cases e : s.traveler t with
      | none => simp [State.overdueDue, e] at hd
      | some y => exact ⟨y, rfl⟩
    obtain ⟨n, hn⟩ : ∃ n, s.flashTime y = some n := by
      cases e : s.flashTime y with
      | none => simp [State.overdueDue, hy, e] at hd
      | some n => exact ⟨n, rfl⟩
    let v := s.onCure fun c => { c with overdue := c.overdue ++ [t] }
    have hu : s.examineOverdue t = v.raiseHold t .flashOverdue .cureMonitor .flash (some (.flashTime n)) := by
      have : (v.traveler t).bind v.flashTime = some n := by
        rw [show v.traveler t = some y from hy]; exact hn
      simp only [State.examineOverdue, hd, if_true]
      exact congrArg _ (congrArg (Option.map HoldDetail.flashTime) this)
    have hh : s.overdueHold y = newHold v v.now .flashOverdue .cureMonitor .flash (.flashTime n) := by
      simp [State.overdueHold, hn]; rfl
    obtain ⟨h1, h2⟩ := raiseHold_spec (s := v) .flashOverdue .cureMonitor .flash (.flashTime n) hy hl (ho y hy)
    rw [← hu] at h1 h2
    refine ⟨?_, (h1.2.2.2 .cure (by simp)).trans rfl, ?_, fun k => ?_⟩
    · have := (happened_onCure s fun c => { c with overdue := c.overdue ++ [t] }).then rfl h1
        (e := [.table, .cure]) (by simp)
      simpa [State.overdueNotices, hy, hh] using this
    · rw [hu]; exact raiseHold_table _ _ _ _ _ _
    · rw [h2 k, ← hh]
      by_cases e : k = t
      · subst e; simp [hy]
      · simp [e]; rfl

/-- Of a state, what the examination of a traveler reads besides its record. -/
theorem MarkedOverdue.reads {s u : State} {marks : List Nat} (h : MarkedOverdue s u marks) :
    u.now = s.now ∧ u.recipes = s.recipes ∧ u.holds = s.holds ∧ (∀ t, u.leaving t = s.leaving t) := by
  refine ⟨?_, h.1.2.2.2 .recipes (by simp), h.1.2.2.2 .holds (by simp), fun t => ?_⟩
  · have := h.1.2.2.2 .clock (by simp)
    exact (congrArg LineIo.seconds this).trans rfl
  · simp only [State.leaving]; rw [h.2.2.1]

/-- A mark changes neither a flash time nor what a raise asks for. -/
theorem MarkedOverdue.hold {s u : State} {marks : List Nat} (h : MarkedOverdue s u marks) (y : Traveler) :
    u.flashTime y = s.flashTime y ∧ u.overdueHold y = s.overdueHold y := by
  obtain ⟨hn, _, hh, _⟩ := h.reads
  have hf : u.flashTime y = s.flashTime y := by simp only [State.flashTime, hn]
  exact ⟨hf, by simp only [State.overdueHold, newHold, hn, hh, hf]⟩

/-- A traveler that was not marked is as it was, and its own examination finds what it would have found. -/
theorem MarkedOverdue.other {s u : State} {marks : List Nat} (h : MarkedOverdue s u marks) {t : Nat} (ht : t ∉ marks) :
    u.traveler t = s.traveler t ∧ u.overdueDue t = s.overdueDue t ∧ u.overdueNotices t = s.overdueNotices t := by
  have hr : u.traveler t = s.traveler t := by rw [h.2.2.2 t]; simp [ht]
  refine ⟨hr, ?_, ?_⟩
  · have hc : u.cure.overdue.contains t = s.cure.overdue.contains t := by rw [h.2.1]; simp [ht]
    have hm (y : Traveler) : u.flashMaximum y = s.flashMaximum y := by
      simp only [State.flashMaximum, State.recipeOf, h.reads.2.1]
    simp only [State.overdueDue, hr, hc, (h.hold _).1, hm]
  · simp only [State.overdueNotices, hr, (h.hold _).2]

/-- Marks one after another, no traveler twice. -/
theorem MarkedOverdue.trans {s v u : State} {a b : List Nat} (h1 : MarkedOverdue s v a) (h2 : MarkedOverdue v u b)
    (hd : ∀ t ∈ b, t ∉ a) : MarkedOverdue s u (a ++ b) := by
  refine ⟨?_, ?_, ?_, fun n => ?_⟩
  · have : b.flatMap v.overdueNotices = b.flatMap s.overdueNotices := by
      simp only [List.flatMap_def]
      exact congrArg _ (List.map_congr_left fun t ht => (h1.other (hd t ht)).2.2)
    rw [List.flatMap_append, ← this]
    exact h1.1.then h1.reads.1 h2.1 (by simp)
  · rw [h2.2.1, h1.2.1]; simp
  · rw [h2.2.2.1, h1.2.2.1]
  · rw [h2.2.2.2 n, h1.2.2.2 n]
    cases s.traveler n with
    | none => rfl
    | some y =>
      by_cases hb : n ∈ b
      · simp [hb, hd n hb, (h1.hold y).2]
      · by_cases ha : n ∈ a <;> simp [ha, hb]

/-- Several travelers examined one after another: those that are due are marked (R111). -/
theorem examineAll_spec {ks : List Nat} {s : State} (hk : ks.Nodup)
    (h : ∀ t ∈ ks, s.overdueDue t = true → s.leaving t = false ∧ ∀ y, s.traveler t = some y → HoldsInOrder y.holds) :
    MarkedOverdue s (ks.foldl State.examineOverdue s) (ks.filter s.overdueDue) := by
  induction ks generalizing s with
  | nil => exact ⟨(Happened.refl s).mono (by simp), by simp, rfl, fun n => by simp⟩
  | cons k rest ih =>
    obtain ⟨hn, hr⟩ := List.nodup_cons.1 hk
    have one := examineOverdue_spec (h k (by simp))
    have out (t : Nat) (ht : t ∈ rest) : t ∉ (if s.overdueDue k then [k] else []) := by
      rintro e
      have : t = k := by
        cases hd : s.overdueDue k <;> simp [hd] at e; exact e
      exact hn (this ▸ ht)
    have same (t : Nat) (ht : t ∈ rest) := one.other (out t ht)
    have all := ih hr (s := s.examineOverdue k) fun t ht hd => by
      rw [(same t ht).2.1] at hd
      rw [one.reads.2.2.2, (same t ht).1]
      exact h t (by simp [ht]) hd
    rw [List.filter_congr fun t ht => (same t ht).2.1] at all
    have := one.trans all fun t ht => out t (List.mem_filter.1 ht).1
    rw [List.filter_cons]
    cases hd : s.overdueDue k <;> simpa [hd] using this

/-- Every traveler of the table examined, in the order of their numbers (R111, log 25). -/
theorem examineFlash_spec {s : State}
    (h : ∀ t, s.overdueDue t = true → s.leaving t = false ∧ ∀ y, s.traveler t = some y → HoldsInOrder y.holds) :
    MarkedOverdue s s.examineFlash ((List.range' 1 48).filter s.overdueDue) := by
  have : s.examineFlash = (List.range' 1 48).foldl State.examineOverdue s := by
    simp only [State.examineFlash, List.range'_eq_map_range, List.foldl_map, Nat.add_comm 1]; rfl
  rw [this]
  exact examineAll_spec (List.nodup_range' ..) fun t _ => h t

end Sys2Proof.Machine
end

