-- ==== Sys2Proof/Laws/Modes.lean ====
section
/-! SUPPORT. What a change of line mode, an entry into HALT, a Recover and a retirement leave: one lemma per operation. -/

namespace Sys2Proof.Machine

/-- A mode change posts MODE_CHANGED and touches the traveler table only (R7). -/
theorem happened_setMode (s : State) (m : LineMode) (c : Option HaltCause) (d : Option HaltDetail) :
    Happened s (s.setMode m c d) [.modeChanged s.mode m] [.table] :=
  (happened_onTable s _).then rfl (happened_post _ _) (by simp)

/-- With no record at the pre-inspection station the pre diverter decides nothing. -/
theorem decidePre_none {s : State} (h : s.mask.pre = none) : s.decidePre = s := by
  have : s.awaiting .pre = none := by simp [State.awaiting, State.record, MaskUnit.record, h]
  unfold State.decidePre State.preDecision
  simp only [this]
  split <;> simp_all

/-- With no record at the post-inspection station the exit diverter decides nothing. -/
theorem decideExit_none {s : State} (h : s.mask.post = none) : s.decideExit = s := by
  have : s.awaiting .post = none := by simp [State.awaiting, State.record, MaskUnit.record, h]
  unfold State.decideExit State.exitDecision
  simp only [this]
  split <;> simp_all

@[simp] theorem setMode_mask (s : State) (m : LineMode) (c : Option HaltCause) (d : Option HaltDetail) :
  (s.setMode m c d).mask = s.mask := rfl

/-- A mode change leaves every link's frames. -/
theorem frames_setMode (s : State) (m c d) : FramesKept s (s.setMode m c d) := (happened_setMode s m c d).2.2.1

/-- Of the traveler table nothing but the records changes. -/
def RecordsOnly (s u : State) : Prop := u.table = { s.table with records := u.table.records }

theorem RecordsOnly.refl (s : State) : RecordsOnly s s := rfl

theorem RecordsOnly.of {s u : State} (h : u.table = s.table) : RecordsOnly s u := by unfold RecordsOnly; rw [h]

theorem RecordsOnly.trans {s t u : State} (h : RecordsOnly s t) (k : RecordsOnly t u) : RecordsOnly s u := by
  unfold RecordsOnly at *; rw [k, h]

theorem RecordsOnly.onEngine {s t : State} (f) (h : RecordsOnly s t) : RecordsOnly s (t.onEngine f) := h

theorem recordsOnly_onTraveler (s : State) (t f) : RecordsOnly s (s.onTraveler t f) := by
  unfold State.onTraveler; split <;> rfl

theorem recordsOnly_raiseHold (s : State) (t k w g d) : RecordsOnly s (s.raiseHold t k w g d) := raiseHold_table s
    t k w g d

theorem recordsOnly_moveStage (s : State) (t g p) : RecordsOnly s (s.moveStage t g p) := moveStage_table g p

/-- The low warning leaves the table and the engine. -/
theorem warnLow_frame (s : State) (n) : (s.warnLow n).table = s.table ∧ (s.warnLow n).engine = s.engine := by
  unfold State.warnLow; split
  · exact ⟨rfl, rfl⟩
  · split <;> exact ⟨rfl, rfl⟩

/-- A draw leaves the table and the engine. -/
theorem draw_frame (s : State) (h a) : (s.draw h a).table = s.table ∧ (s.draw h a).engine = s.engine := by
  unfold State.draw; split
  · exact ⟨rfl, rfl⟩
  · exact warnLow_frame _ _

theorem closeValve_table (s : State) : s.closeValve.table = s.table := by
  unfold State.closeValve; split
  · rfl
  · exact (draw_frame _ _ _).1

theorem sendStop_table (s : State) : s.sendStop.table = s.table := rfl

theorem stopMotion_table (s : State) : s.stopMotion.table = s.table := by
  unfold State.stopMotion; split
  · split <;> rfl
  · rfl
  · rfl

theorem recordsOnly_haltEngine (s : State) : RecordsOnly s s.haltEngine := by
  unfold State.haltEngine
  split
  · dsimp only
    have h1 : ∀ (y : State) t, RecordsOnly y (y.raiseInterrupted t) := by
      intro y t
      unfold State.raiseInterrupted; split
      · exact RecordsOnly.refl _
      · exact recordsOnly_raiseHold _ _ _ _ _ _
    refine RecordsOnly.onEngine _ (RecordsOnly.trans ?_ (h1 _ _))
    exact (RecordsOnly.of (by rw [stopMotion_table, closeValve_table])).trans (recordsOnly_onTraveler _ _ _)
  · exact RecordsOnly.of (stopMotion_table s)
  · exact RecordsOnly.refl s

theorem stopMotion_valve (s : State) : s.stopMotion.engine.valve = s.engine.valve := by
  unfold State.stopMotion; split
  · split <;> rfl
  · rfl
  · rfl

/-- With no message outstanding the motion is not stopped. -/
theorem stopMotion_port (s : State) (h : ∀ o, s.engine.port ≠ .waiting o) : s.stopMotion = s := by
  unfold State.stopMotion; split
  · rename_i h'; exact absurd h' (h _)
  · rfl
  · rfl

/-- What closing the valve makes of the engine (R88). -/
theorem closeValve_engine (s : State) :
    s.closeValve.engine =
      { s.engine with
        valve := none
        lastClose := if s.engine.valve.isSome then some s.now else s.engine.lastClose } := by
  unfold State.closeValve
  split
  · rename_i h
    cases hs : s.engine; simp_all
  · rename_i h; rw [(draw_frame _ _ _).2]; simp [h, State.onEngine]

/-- The entry into HALT from another mode: mode, cause, detail, transfers, output and the lists kept (R10, R11). -/
theorem enterHalt_spec (s : State) (c : HaltCause) (d : Option HaltDetail) (h : s.mode ≠ .halt) :
   (s.enterHalt c d).mode = .halt ∧ (s.enterHalt c d).table.cause = some c ∧ (s.enterHalt c d).table.detail = d ∧
   (s.enterHalt c d).table.transfers = s.table.transfers.map (fun e => { e with deadline := none }) ∧ (s.enterHalt
       c d).cure.output = 0 ∧
   (s.enterHalt c d).table.free = s.table.free ∧ (s.enterHalt c d).table.index = s.table.index ∧ (s.enterHalt c
       d).table.queue = s.table.queue ∧
   (s.enterHalt c d).engine = (((s.setMode .halt (some c) d).post (.halted c d)).haltEngine).engine := by
  unfold State.enterHalt
  rw [if_neg h]
  have R := recordsOnly_haltEngine ((s.setMode .halt (some c) d).post (.halted c d))
  have C := calm_haltEngine ((s.setMode .halt (some c) d).post (.halted c d))
  set y := ((s.setMode .halt (some c) d).post (.halted c d)).haltEngine with hy
  have e1 : y.driveOutput.haltTransfers.table = { y.table with transfers := y.table.transfers.map fun e => { e with deadline := none } } := rfl
  unfold State.mode
  rw [e1, R]
  refine ⟨rfl, rfl, rfl, rfl, ?_, rfl, rfl, rfl, rfl⟩
  have : y.driveOutput.haltTransfers.cure.output = if y.table.mode = .halt ∨ y.cure.stalled then 0 else y.cure.setpoint := rfl
  rw [this, if_pos]
  left; rw [C.mode]; rfl

/-- In HALT an entry changes nothing (R10). -/
theorem enterHalt_same (s : State) (c d) (h : s.mode = .halt) : s.enterHalt c d = s := by unfold State.enterHalt; rw [if_pos h]

/-- A lost port stays lost at a HALT (R91). -/
theorem haltEngine_lost (s : State) (h : s.engine.port = .lost) (hr : s.engine.reference = none) (hv :
    s.engine.valve = none) : 
   s.haltEngine.engine.port = .lost ∧ s.haltEngine.engine.reference = none ∧ s.haltEngine.engine.valve = none := by
  unfold State.haltEngine
  split
  · dsimp only
    have e : s.closeValve = s := by unfold State.closeValve; rw [hv]
    rw [e, stopMotion_port s (by intro o; rw [h]; simp)]
    have : ∀ y : State, ∀ t, (y.raiseInterrupted t).engine = y.engine := by
      intro y t; unfold State.raiseInterrupted; split <;> simp
    simp only [onEngine_engine, this, onTraveler_engine]
    exact ⟨h, hr, hv⟩
  · rw [stopMotion_port s (by intro o; rw [h]; simp)]; exact ⟨h, hr, hv⟩
  · exact ⟨h, hr, hv⟩

theorem enterHalt_estopHanded (s : State) (c d) : (s.enterHalt c d).io.estopHanded = s.io.estopHanded := by
  unfold State.enterHalt
  split
  · rfl
  · have C := calm_haltEngine ((s.setMode .halt (some c) d).post (.halted c d))
    have e1 : (((s.setMode .halt (some c) d).post (.halted c d)).haltEngine).driveOutput.haltTransfers.io.estopHanded = (((s.setMode .halt (some c) d).post (.halted c d)).haltEngine).io.estopHanded := rfl
    rw [e1, C.io]; rfl

theorem frames_enterHalt (s : State) (c d) : FramesKept s (s.enterHalt c d) := by
  unfold State.enterHalt
  split
  · exact (Calm.refl s).frames
  · exact ((frames_setMode s _ _ _).trans (calm_post _ _).frames).trans ((calm_haltEngine _).frames.trans ((FramesKept.trans (t := (((s.setMode .halt (some c) d).post (.halted c d)).haltEngine).driveOutput) (fun l => ⟨rfl, rfl, rfl⟩) (calm_haltTransfers _).frames)))

theorem examineStall_table (s : State) : s.examineStall.table = s.table ∧ s.examineStall.mask = s.mask ∧
    s.examineStall.engine = s.engine ∧ s.examineStall.cure.exit = s.cure.exit := by
  unfold State.examineStall
  split
  · exact ⟨rfl, rfl, rfl, rfl⟩
  · split <;> exact ⟨rfl, rfl, rfl, rfl⟩

theorem leaveHaltEngine_table (s : State) : s.leaveHaltEngine.table = s.table ∧ s.leaveHaltEngine.mask = s.mask ∧
    s.leaveHaltEngine.cure = s.cure := by
  unfold State.leaveHaltEngine State.parkAgain State.sendPark State.sendStop State.sendMove State.send
  split
  · exact ⟨rfl, rfl, rfl⟩
  · split
    · split <;> exact ⟨rfl, rfl, rfl⟩
    · exact ⟨rfl, rfl, rfl⟩

theorem openInspection_table (s : State) (x t) : (s.openInspection x t).table = s.table ∧ (s.openInspection x
    t).cure = s.cure := by
  unfold State.openInspection
  split
  · exact ⟨rfl, rfl⟩
  · split <;> exact ⟨rfl, rfl⟩

theorem inspectAt_table (s : State) (t d) : (s.inspectAt t d).table = s.table ∧ (s.inspectAt t d).cure = s.cure :=
    by
  unfold State.inspectAt
  split
  · exact openInspection_table _ _ _
  · exact openInspection_table _ _ _
  · exact ⟨rfl, rfl⟩

theorem inspectFound_table (s : State) (e) : (s.inspectFound e).table = s.table ∧ (s.inspectFound e).cure = s.cure
    := by
  unfold State.inspectFound
  split
  · exact inspectAt_table _ _ _
  · exact ⟨rfl, rfl⟩

theorem openInspection_pre_post (s : State) (t) : (s.openInspection .pre t).mask.post = s.mask.post := by
  unfold State.openInspection
  split
  · rfl
  · split <;> rfl

theorem openInspection_post_phase (s : State) (t) : (s.openInspection .post t).mask.post = s.mask.post ∨ ∃ i,
    (s.openInspection .post t).mask.post = some i ∧ i.phase = .isOpen := by
  unfold State.openInspection
  split
  · exact .inl rfl
  · split
    · rename_i h; simp at h
    · right; exact ⟨_, rfl, rfl⟩

/-- With no record, or an OPEN one, the exit diverter decides nothing. -/
theorem decideExit_open {s : State} (h : s.mask.post = none ∨ ∃ i, s.mask.post = some i ∧ i.phase = .isOpen) :
    s.decideExit = s := by
  rcases h with h | ⟨i, h, hp⟩
  · exact decideExit_none h
  · have : s.awaiting .post = none := by
      simp only [State.awaiting, State.record, MaskUnit.record, h]
      split
      · rfl
      · simp [hp]
    unfold State.decideExit State.exitDecision
    simp only [this]
    split <;> simp_all

theorem inspectFound_post (s : State) (e) (h : s.mask.post = none) : (s.inspectFound e).mask.post = none ∨ ∃ i,
    (s.inspectFound e).mask.post = some i ∧ i.phase = .isOpen := by
  unfold State.inspectFound
  split
  · unfold State.inspectAt
    split
    · left; rw [openInspection_pre_post]; exact h
    · have := openInspection_post_phase s e.traveler; rwa [h] at this
    · exact .inl h
  · exact .inl h

/-- Recover with one transfer in flight: the table is that of its resolution, in IDLE (R12, R13). -/
theorem recover_one (s : State) (e : Transfer) (h : s.table.transfers = [e]) (hp : (s.resolve e).mask.post = none) :
    s.recoverLine.table = { (s.resolve e).table with mode := .idle, cause := none, detail := none } ∧
        s.recoverLine.cure.exit = (s.resolve e).cure.exit := by
  unfold State.recoverLine
  rw [h]
  simp only [List.foldl]
  set y := s.resolve e
  set z := (y.setMode .idle none none).inspectFound e with hz
  have h1 := inspectFound_table (y.setMode .idle none none) e
  have h2 := inspectFound_post (y.setMode .idle none none) e hp
  have h3 := examineStall_table z.driveOutput
  have h4 := leaveHaltEngine_table z.driveOutput.examineStall
  have h5 : z.driveOutput.examineStall.leaveHaltEngine.mask = z.mask := by rw [h4.2.1, h3.2.1]; rfl
  rw [decideExit_open (by rw [h5]; exact h2)]
  refine ⟨?_, ?_⟩
  · rw [h4.1, h3.1]
    show z.table = _
    rw [hz, h1.1]; rfl
  · rw [h4.2.2, h3.2.2.2]
    show z.cure.exit = _
    rw [hz, h1.2]; rfl

theorem settle_post (s : State) (e) (h : s.mask.post = none) : (s.settle e).mask.post = none := by
  unfold State.settle
  split
  · unfold State.retire; split
    · exact h
    · show (s.mask.post.filter _) = none
      rw [h]; rfl
  · have h1 : ∀ y : State, ∀ d, (y.receive e.traveler d).mask = y.mask := fun y d => by cases d <;> rfl
    have h2 : ∀ y : State, y.mask.post = none → ∀ d, (y.leaveStation d).mask.post = none := fun y hy d => by cases d <;> first | exact hy | rfl
    rw [h1]; exact h2 _ (by rw [moveStage_mask]; exact h) _

theorem returnBoard_mask (s : State) (e) : (s.returnBoard e).mask = s.mask := by
  unfold State.returnBoard
  dsimp only
  rw [moveStage_mask]
  cases e.source <;> cases e.dest <;> simp [State.freeSlot]

theorem retire_post (s : State) (t o) (h : s.mask.post = none) : (s.retire t o).mask.post = none := by
  unfold State.retire; split
  · exact h
  · show (s.mask.post.filter _) = none
    rw [h]; rfl

theorem resolve_post (s : State) (e) (h : s.mask.post = none) : (s.resolve e).mask.post = none := by
  unfold State.resolve
  dsimp only
  split
  · exact settle_post _ _ h
  · split
    · rw [returnBoard_mask]; exact h
    · exact retire_post _ _ _ h

/-- What retiring a live traveler leaves in the table (R19). -/
theorem retire_live {s : State} {t : Nat} {r : Traveler} (o) (h : s.traveler t = some r) :
    (s.retire t o).traveler t = none ∧ (s.retire t o).table.free = s.table.free ++ [t] ∧ (s.retire t
        o).table.transfers = s.table.transfers.filter (fun e => e.traveler != t) ∧
    (s.retire t o).table.index = s.table.index.filter (fun e => e.2 != t) ∧ ∀ n, n ≠ t → (s.retire t o).traveler n
        = s.traveler n := by
  have hb := traveler_bounds h
  have ht : (s.retire t o).table = { s.table with records := putNth s.table.records t none, free := s.table.free ++ [t], index := s.table.index.filter (fun e => e.2 != t), queue := s.table.queue.filter (· != t), transfers := s.table.transfers.filter (fun e => e.traveler != t) } := by
    unfold State.retire
    simp only [h]
    rfl
  refine ⟨?_, ?_, ?_, ?_, fun n hn => ?_⟩
  · unfold State.traveler; rw [ht]; simp [nth_putNth, hb]
  · rw [ht]
  · rw [ht]
  · rw [ht]
  · unfold State.traveler; rw [ht]; simp [nth_putNth, hn]

/-- A board settled at a destination other than the outfeed (R17). -/
theorem settle_live {s : State} {e : Transfer} {r : Traveler} (h : s.traveler e.traveler = some r) (hd : e.dest ≠
    .outfeed) :
    (s.settle e).traveler e.traveler = some { r with stage := e.dest.stage, place := .present } ∧ (∀ n, n ≠
        e.traveler → (s.settle e).traveler n = s.traveler n) ∧
    (s.settle e).table = { s.table with records := (s.settle e).table.records } := by
  unfold State.settle
  rw [if_neg hd]
  have h1 : ∀ y : State, ∀ d, (y.receive e.traveler d).table = y.table := fun y d => by cases d <;> rfl
  have h2 : ∀ y : State, ∀ d, (y.leaveStation d).table = y.table := fun y d => by cases d <;> rfl
  have h3 : (((s.moveStage e.traveler e.dest.stage .present).leaveStation e.source).receive e.traveler e.dest).table = (s.moveStage e.traveler e.dest.stage .present).table := by rw [h1, h2]
  refine ⟨?_, fun n hn => ?_, ?_⟩
  · have := traveler_moveStage e.dest.stage .present e.traveler h
    unfold State.traveler at *; rw [h3, this, if_pos rfl]
  · have := traveler_moveStage e.dest.stage .present n h
    unfold State.traveler at *; rw [h3, this, if_neg hn]
  · rw [h3]; exact moveStage_table _ _

theorem traveler_freeSlot {s : State} {t : Nat} {r : Traveler} (h : s.traveler t = some r) : (s.freeSlot
    t).traveler t = some { r with shelfSlot := none } := by
  unfold State.freeSlot
  have h' : (s.onHolds fun m => { m with shelf := freeSlotsOf t m.shelf }).traveler t = some r := h
  rw [onTraveler_live _ h']
  exact traveler_setTraveler_same _ h'

/-- A board returned to the source of its transfer (R13). -/
theorem returnBoard_live {s : State} {e : Transfer} {r : Traveler} (h : s.traveler e.traveler = some r) :
   (∃ r', (s.returnBoard e).traveler e.traveler = some r' ∧ r'.stage = e.source.stage ∧ r'.place = .present ∧
       r'.tag = r.tag) ∧
        (s.returnBoard e).table.transfers = s.table.transfers ∧
        (e.source = .queue → (s.returnBoard e).table.queue = e.traveler :: s.table.queue) ∧
        (e.source = .accumulator → (s.returnBoard e).cure.exit = e.traveler :: s.cure.exit) := by
  unfold State.returnBoard
  dsimp only
  rw [moveStage_table]
  have key : ∀ y : State, ∀ r1, y.traveler e.traveler = some r1 → r1.tag = r.tag → ∃ r', (y.moveStage e.traveler e.source.stage .present).traveler e.traveler = some r' ∧ r'.stage = e.source.stage ∧ r'.place = .present ∧ r'.tag = r.tag := by
    intro y r1 h1 ht
    have := traveler_moveStage e.source.stage .present e.traveler h1
    rw [if_pos rfl] at this
    exact ⟨_, this, rfl, rfl, ht⟩
  refine ⟨?_, ?_, ?_, ?_⟩
  · cases hs : e.source <;> cases hd : e.dest <;> first
      | (rw [hs] at key; exact key _ _ (traveler_freeSlot h) rfl) | (rw [hs] at key; exact key _ r h rfl)
  · cases hs : e.source <;> cases hd : e.dest <;> simp [State.freeSlot]
  · intro hs; rw [hs]; cases hd : e.dest <;> simp [State.freeSlot]
  · intro hs; rw [hs]; cases hd : e.dest <;> simp [State.freeSlot]

theorem ownRecover_accept {s : State} (hm : s.mode = .halt) (he : s.io.estop = false) : ownRecover s =
    (s.recoverLine, { status := .ok, fields := [] }) := by
  simp [ownRecover, hm, he, accept]

end Sys2Proof.Machine
end

