-- ==== Sys2Proof/Laws/Readers.lean ====
section
/-! SUPPORT. Reading back the fields and records of a request body (R162, R164): one lemma per field type and record. -/

namespace Sys2Proof.Machine

/-- An unsigned integer reads back from its bytes (R162). -/
theorem readNat_leBytes (w n : Nat) (h : n < 256 ^ w) (rest : List Byte) : readNat w (leBytes w n ++ rest) = some
    (n, rest) := by
  induction w generalizing n with
  | zero => simp at h; subst h; rfl
  | succ w ih =>
    have h' : n / 256 < 256 ^ w := by rw [Nat.div_lt_iff_lt_mul (by norm_num)]; rwa [pow_succ] at h
    have hc : ((n : Int) / 256) = ((n / 256 : Nat) : Int) := by norm_cast
    show (match readNat w (leBytes w ((n:Int) / 256) ++ rest) with | none => none | some (m, r) => some ((BitVec.ofInt 8 n).toNat + 256 * m, r)) = _
    rw [hc, ih _ h']
    have : (BitVec.ofInt 8 (n : Int)).toNat = n % 256 := by simp
    rw [this]; dsimp only; congr 2; omega

/-- A signed integer reads back from its bytes (R162). -/
theorem readInt_leBytes (w : Nat) (hw : 1 ≤ w) (v : Int) (h1 : -2 ^ (8 * w - 1) ≤ v) (h2 : v < 2 ^ (8 * w - 1))
    (rest : List Byte) :
   readInt w (leBytes w v ++ rest) = some (v, rest) := by
  have hp : (256 : Int) ^ w = 2 ^ (8 * w - 1) * 2 := by
    rw [← pow_succ, show (256:Int) = 2 ^ 8 by norm_num, ← pow_mul]; congr 1; omega
  have hl : ∀ (w : Nat) (v : Int), leBytes w v = leBytes w ((v % 256 ^ w).toNat) := by
    intro w
    induction w with
    | zero => intro v; rfl
    | succ w ih =>
      intro v
      have hpos : (0:Int) < 256 ^ (w+1) := by positivity
      have hnn : 0 ≤ v % 256 ^ (w+1) := Int.emod_nonneg _ (by positivity)
      rw [Int.toNat_of_nonneg hnn]
      show BitVec.ofInt 8 v :: leBytes w (v / 256) = BitVec.ofInt 8 (v % 256^(w+1)) :: leBytes w (v % 256^(w+1) / 256)
      have e1 : BitVec.ofInt 8 (v % 256^(w+1)) = BitVec.ofInt 8 v := by
        apply BitVec.eq_of_toInt_eq
        rw [BitVec.toInt_ofInt, BitVec.toInt_ofInt]
        have : (v % 256^(w+1)) % (256 : Int) = v % 256 := by
          rw [pow_succ, Int.emod_emod_of_dvd _ (Dvd.intro_left _ rfl)]
        simp only [Int.bmod_def]
        norm_num [this]
      have e2 : v % 256^(w+1) / 256 = (v / 256) % 256^w := by
        rw [pow_succ, mul_comm]
        rw [Int.emod_def, Int.emod_def, show v / 256 / 256 ^ w = v / (256 * 256 ^ w) from by rw [Int.ediv_ediv, if_neg (by norm_num)]; simp]
        have : v - 256 * 256^w * (v / (256 * 256^w)) = v + 256 * (-(256^w * (v / (256 * 256^w)))) := by ring
        rw [this, Int.add_mul_ediv_left _ _ (by norm_num)]; ring
      rw [e1, e2, ih (v/256), ih ((v/256) % 256^w), Int.emod_emod_of_dvd _ (dvd_refl _)]
  have hpos : (0:Int) < 2 ^ (8 * w - 1) := by positivity
  have hnn : 0 ≤ v % 256 ^ w := Int.emod_nonneg _ (by positivity)
  have hlt : v % 256 ^ w < 256 ^ w := Int.emod_lt_of_pos _ (by positivity)
  unfold readInt Reader.bind
  rw [hl w v, readNat_leBytes w _ (by zify; rw [Int.toNat_of_nonneg hnn]; exact_mod_cast hlt)]
  dsimp only [Reader.pure]
  congr 2
  have e256 : (2:Int) ^ (8 * w) = 256 ^ w := by rw [pow_mul]; norm_num
  by_cases hv : 0 ≤ v
  · have : v % 256 ^ w = v := Int.emod_eq_of_lt hv (by rw [hp]; omega)
    rw [this, if_pos (by zify; rw [Int.toNat_of_nonneg hv]; exact h2), Int.toNat_of_nonneg hv]
  · have : v % 256 ^ w = v + 256 ^ w := by
      rw [← Int.add_emod_right, Int.emod_eq_of_lt (by rw [hp]; omega) (by omega)]
    rw [this, if_neg (by zify; rw [Int.toNat_of_nonneg (by rw [hp]; omega), hp]; omega), Int.toNat_of_nonneg (by rw [hp]; omega)]
    rw [e256]; ring

variable {α : Type}

/-- A one-byte field reads back. -/
theorem read_u1 (n : Nat) (h : n < 2 ^ 8) (r : List Field) (f : Nat → Reader α) : Reader.bind (readNat 1) f
    (bodyBytes (u1 n :: r)) = f n (bodyBytes r) := by
  show (match readNat 1 (leBytes 1 n ++ bodyBytes r) with | none => none | some (a, l) => f a l) = _
  rw [readNat_leBytes _ _ (by simpa using h)]

/-- A two-byte field reads back. -/
theorem read_u2 (n : Nat) (h : n < 2 ^ 16) (r : List Field) (f : Nat → Reader α) : Reader.bind (readNat 2) f
    (bodyBytes (u2 n :: r)) = f n (bodyBytes r) := by
  show (match readNat 2 (leBytes 2 n ++ bodyBytes r) with | none => none | some (a, l) => f a l) = _
  rw [readNat_leBytes _ _ (by simpa using h)]

/-- A four-byte field reads back. -/
theorem read_u4 (n : Nat) (h : n < 2 ^ 32) (r : List Field) (f : Nat → Reader α) : Reader.bind (readNat 4) f
    (bodyBytes (u4 n :: r)) = f n (bodyBytes r) := by
  show (match readNat 4 (leBytes 4 n ++ bodyBytes r) with | none => none | some (a, l) => f a l) = _
  rw [readNat_leBytes _ _ (by simpa using h)]

/-- A signed two-byte field reads back. -/
theorem read_i2 (n : Int) (h1 : -2 ^ 15 ≤ n) (h2 : n < 2 ^ 15) (r : List Field) (f : Int → Reader α) : Reader.bind
    (readInt 2) f (bodyBytes (i2 n :: r)) = f n (bodyBytes r) := by
  show (match readInt 2 (leBytes 2 n ++ bodyBytes r) with | none => none | some (a, l) => f a l) = _
  rw [readInt_leBytes _ (by norm_num) _ (by norm_num; exact h1) (by norm_num; exact h2)]

/-- A signed four-byte field reads back. -/
theorem read_i4 (n : Int) (h1 : -2 ^ 31 ≤ n) (h2 : n < 2 ^ 31) (r : List Field) (f : Int → Reader α) : Reader.bind
    (readInt 4) f (bodyBytes (i4 n :: r)) = f n (bodyBytes r) := by
  show (match readInt 4 (leBytes 4 n ++ bodyBytes r) with | none => none | some (a, l) => f a l) = _
  rw [readInt_leBytes _ (by norm_num) _ (by norm_num; exact h1) (by norm_num; exact h2)]

/-- A word's byte reads back. -/
theorem readNat_word (n : Nat) (h : n < 2 ^ 8) (l : List Byte) : readNat 1 (BitVec.ofNat 8 n :: l) = some (n, l) :=
    by
  have := readNat_leBytes 1 n (by simpa using h) l
  have e : leBytes 1 n = [BitVec.ofNat 8 n] := by
    simp only [leBytes]; congr 1
  rw [e] at this; exact this

/-- A word field reads back. -/
theorem read_word (n : Nat) (h : n < 2 ^ 8) (r : List Field) (f : Nat → Reader α) : Reader.bind (readNat 1) f
    (bodyBytes (.word n :: r)) = f n (bodyBytes r) := by
  show (match readNat 1 (BitVec.ofNat 8 n :: bodyBytes r) with | none => none | some (a, l) => f a l) = _
  rw [readNat_word n h]

/-- A text's characters read back. -/
theorem readBytes_append (t : Text) (l : List Byte) : readBytes t.length (t ++ l) = some (t, l) := by
  induction t with
  | nil => rfl
  | cons b t ih => show (match readBytes t.length (t ++ l) with | none => none | some (t, r) => some (b :: t, r)) = _; rw [ih]

/-- A text field reads back. -/
theorem read_text (t : Text) (h : t.length < 2 ^ 8) (r : List Field) (f : Text → Reader α) : Reader.bind readText f
    (bodyBytes (.text t :: r)) = f t (bodyBytes r) := by
  have : readText (BitVec.ofNat 8 t.length :: (t ++ bodyBytes r)) = some (t, bodyBytes r) := by
    unfold readText Reader.bind
    rw [readNat_word _ h]; exact readBytes_append _ _
  have e : bodyBytes (.text t :: r) = BitVec.ofNat 8 t.length :: (t ++ bodyBytes r) := by simp [bodyBytes, Field.bytes]
  rw [e]; unfold Reader.bind; rw [this]

/-- A reader that succeeds hands on what it read. -/
theorem bind_reads {β : Type} (x : Reader β) (b : β) (f : β → Reader α) (l m : List Byte) (h : x l = some (b, m)) :
    Reader.bind x f l = f b m := by
  unfold Reader.bind; rw [h]

/-- The bytes of two lists of fields, one after the other. -/
theorem bodyBytes_append (a b : List Field) : bodyBytes (a ++ b) = bodyBytes a ++ bodyBytes b := by simp [bodyBytes]

/-- A list's items read back where each does. -/
theorem readItems_reads {β : Type} (item : Reader β) (g : β → List Field) (l : List β) (h : ∀ b ∈ l, ∀ r, item
    (bodyBytes (g b ++ r)) = some (b, bodyBytes r)) (r : List Field) :
   readItems item l.length (bodyBytes (l.flatMap g ++ r)) = some (l, bodyBytes r) := by
  induction l with
  | nil => rfl
  | cons b l ih =>
    show Reader.bind item _ _ = _
    rw [List.flatMap_cons, List.append_assoc]
    rw [bind_reads _ _ _ _ _ (h b (by simp) _)]
    rw [bind_reads _ _ _ _ _ (ih (fun b hb => h b (by simp [hb])))]
    rfl

/-- A list reads back where each item does. -/
theorem read_list {β : Type} (item : Reader β) (g : β → List Field) (l : List β) (hl : l.length < 2 ^ 8) (h : ∀ b ∈
    l, ∀ r, item (bodyBytes (g b ++ r)) = some (b, bodyBytes r)) (r : List Field) (f : List β → Reader α) :
   Reader.bind (readList item) f (bodyBytes (listOf g l ++ r)) = f l (bodyBytes r) := by
  apply bind_reads
  unfold readList
  have : readNat 1 (bodyBytes (listOf g l ++ r)) = some (l.length, bodyBytes (l.flatMap g ++ r)) := readNat_word _ hl _
  rw [bind_reads _ _ _ _ _ this]
  exact readItems_reads item g l h r


/-- The fields of this record read back from the body of a request that carries it. -/
theorem read_header (h : Header) (hw : h.fits = true) (r : List Field) : readHeader (bodyBytes (headerFields h ++
    r)) = some (h, bodyBytes r) := by
  simp only [Header.fits, textFits, byteFits, halfFits, Bool.and_eq_true, decide_eq_true_eq] at hw
  obtain ⟨⟨⟨⟨⟨⟨⟨⟨⟨a, b⟩, c⟩, d⟩, e⟩, f⟩, g⟩, i⟩, j⟩, k⟩ := hw
  unfold readHeader headerFields
  simp only [List.cons_append, List.nil_append]
  rw [read_text _ a, read_u2 _ b, read_u2 _ c, read_u2 _ d, read_u1 _ e, read_u2 _ f, read_u2 _ g, read_u2 _ i, read_u2 _ j, read_u1 _ k]; rfl

/-- The fields of this record read back from the body of a request that carries it. -/
theorem read_window (h : Window) (hw : h.fits = true) (r : List Field) : readWindow (bodyBytes (windowFields h ++
    r)) = some (h, bodyBytes r) := by
  simp only [Window.fits, byteFits, halfFits, int16Fits, Bool.and_eq_true, decide_eq_true_eq] at hw
  obtain ⟨⟨⟨⟨⟨⟨⟨a, a'⟩, b, b'⟩, c, c'⟩, d, d'⟩, e⟩, f⟩, g⟩ := hw
  unfold readWindow windowFields rectangleFields
  simp only [List.cons_append, List.nil_append]
  rw [read_i2 _ a a', read_i2 _ b b', read_i2 _ c c', read_i2 _ d d', read_u2 _ e, read_u1 _ f, read_u1 _ g]; rfl

/-- The fields of this record read back from the body of a request that carries it. -/
theorem read_site (h : SiteFields) (hw : h.fits = true) (r : List Field) : readSite (bodyBytes (siteRequestFields h
    ++ r)) = some (h, bodyBytes r) := by
  simp only [SiteFields.fits, byteFits, int16Fits, Bool.and_eq_true, decide_eq_true_eq] at hw
  obtain ⟨⟨⟨a, b⟩, c, c'⟩, d, d'⟩ := hw
  unfold readSite siteRequestFields
  simp only [List.cons_append, List.nil_append]
  rw [read_word _ a, read_word _ b, read_i2 _ c c', read_i2 _ d d']; rfl

/-- The fields of this record read back from the body of a request that carries it. -/
theorem read_stroke (h : StrokeFields) (hw : h.fits = true) (r : List Field) : readStroke (bodyBytes
    (strokeRequestFields h ++ r)) = some (h, bodyBytes r) := by
  simp only [StrokeFields.fits, byteFits, halfFits, int16Fits, Bool.and_eq_true, decide_eq_true_eq] at hw
  obtain ⟨⟨⟨⟨⟨⟨⟨⟨⟨⟨⟨a, b⟩, c, c'⟩, d, d'⟩, e, e'⟩, f, f'⟩, g⟩, i⟩, j, j'⟩, k, k'⟩, l⟩, m⟩ := hw
  unfold readStroke strokeRequestFields
  simp only [List.cons_append, List.nil_append]
  rw [read_u1 _ a, read_u1 _ b, read_i2 _ c c', read_i2 _ d d', read_i2 _ e e', read_i2 _ f f', read_u2 _ g, read_u1 _ i, read_i2 _ j j', read_i2 _ k k', read_word _ l, read_word _ m]; rfl

/-- The fields of this record read back from the body of a request that carries it. -/
theorem read_profile (h : Profile) (hw : h.fits = true) (r : List Field) : readProfile (bodyBytes (profileFields h
    ++ r)) = some (h, bodyBytes r) := by
  simp only [Profile.fits, byteFits, wordFits, Bool.and_eq_true, decide_eq_true_eq, List.all_eq_true] at hw
  obtain ⟨⟨⟨⟨⟨a, b⟩, c⟩, d⟩, e⟩, f⟩ := hw
  unfold readProfile profileFields
  simp only [List.cons_append, List.nil_append, List.append_assoc]
  rw [read_u1 _ a]
  have : readItems (readNat 1) 16 (bodyBytes (h.weights.map u1 ++ u4 h.required :: u4 h.passMax :: u4 h.lifeMax :: r)) = some (h.weights, bodyBytes (u4 h.required :: u4 h.passMax :: u4 h.lifeMax :: r)) := by
    have := readItems_reads (readNat 1) (fun n => [u1 n]) h.weights (fun b hb r => by
      show readNat 1 (leBytes 1 b ++ bodyBytes r) = _
      exact readNat_leBytes _ _ (by simpa using c b hb) _) (u4 h.required :: u4 h.passMax :: u4 h.lifeMax :: r)
    rw [b] at this
    rw [← this]; congr 2; simp [List.map_eq_flatMap]
  rw [bind_reads _ _ _ _ _ this, read_u4 _ d, read_u4 _ e, read_u4 _ f]; rfl

/-- The fields of this record read back from the body of a request that carries it. -/
theorem read_head (h : HeadConfig) (hw : h.fits = true) (r : List Field) : readHeadConfig (bodyBytes (headFields h
    ++ r)) = some (h, bodyBytes r) := by
  simp only [HeadConfig.fits, halfFits, Bool.and_eq_true, decide_eq_true_eq] at hw
  obtain ⟨⟨⟨⟨⟨⟨⟨⟨⟨a, b⟩, c⟩, d⟩, e⟩, f⟩, g⟩, i⟩, j⟩, k⟩ := hw
  unfold readHeadConfig headFields
  simp only [List.cons_append, List.nil_append]
  rw [read_u2 _ a, read_u2 _ b, read_u2 _ c, read_u2 _ d, read_u2 _ e, read_u2 _ f, read_u2 _ g, read_u2 _ i, read_u2 _ j, read_u2 _ k]; rfl

/-- The fields of this record read back from the body of a request that carries it. -/
theorem read_lot (h : LotFields) (hw : h.fits = true) (r : List Field) : readLot (bodyBytes (lotRequestFields h ++
    r)) = some (h, bodyBytes r) := by
  simp only [LotFields.fits, textFits, byteFits, halfFits, wordFits, Bool.and_eq_true, decide_eq_true_eq] at hw
  obtain ⟨⟨⟨⟨⟨⟨a, b⟩, c⟩, d⟩, e⟩, f⟩, g⟩ := hw
  unfold readLot lotRequestFields
  simp only [List.cons_append, List.nil_append]
  rw [read_text _ a, read_u1 _ b, read_u4 _ c, read_u2 _ d, read_u2 _ e, read_u1 _ f, read_u4 _ g]; rfl

/-- The fields of this record read back from the body of a request that carries it. -/
theorem read_point (h : Point) (hw : h.fits = true) (r : List Field) : readPoint (bodyBytes (pointFields h ++ r)) =
    some (h, bodyBytes r) := by
  simp only [Point.fits, int32Fits, Bool.and_eq_true, decide_eq_true_eq] at hw
  obtain ⟨⟨⟨a, a'⟩, b, b'⟩, c, c'⟩ := hw
  unfold readPoint pointFields
  simp only [List.cons_append, List.nil_append]
  rw [read_i4 _ a a', read_i4 _ b b', read_i4 _ c c']; rfl

/-- The fields of this record read back from the body of a request that carries it. -/
theorem read_limits (h : GantryLimits) (hw : h.fits = true) (r : List Field) : readLimits (bodyBytes (gantryFields
    h ++ r)) = some (h, bodyBytes r) := by
  simp only [GantryLimits.fits, int32Fits, halfFits, Bool.and_eq_true, decide_eq_true_eq] at hw
  obtain ⟨⟨⟨⟨⟨⟨⟨⟨⟨a, a'⟩, b, b'⟩, c, c'⟩, d, d'⟩, e, e'⟩, f, f'⟩, g⟩, i⟩, j⟩ := hw
  unfold readLimits gantryFields
  simp only [List.cons_append, List.nil_append, List.append_assoc]
  rw [read_i4 _ a a', read_i4 _ b b', read_i4 _ c c', read_i4 _ d d', read_i4 _ e e', read_i4 _ f f', bind_reads _ _ _ _ _ (read_point _ g _), bind_reads _ _ _ _ _ (read_point _ i _), read_u2 _ j]; rfl

/-- The fields of this record read back from the body of a request that carries it. -/
theorem read_timeouts (h : Timeouts) (hw : h.fits = true) (r : List Field) : readTimeouts (bodyBytes (timeoutFields
    h ++ r)) = some (h, bodyBytes r) := by
  simp only [Timeouts.fits, byteFits, halfFits, Bool.and_eq_true, decide_eq_true_eq] at hw
  obtain ⟨⟨⟨⟨⟨a, b⟩, c⟩, d⟩, e⟩, f⟩ := hw
  unfold readTimeouts timeoutFields
  simp only [List.cons_append, List.nil_append]
  rw [read_u1 _ a, read_u1 _ b, read_u1 _ c, read_u2 _ d, read_u1 _ e, read_u2 _ f]; rfl

/-- The fields of this record read back from the body of a request that carries it. -/
theorem read_disposition (h : DispositionField) (hw : h.fits = true) (r : List Field) : readDisposition (bodyBytes
    (dispositionFields h ++ r)) = some (h, bodyBytes r) := by
  unfold readDisposition
  cases h <;> simp only [dispositionFields, List.cons_append, List.nil_append, DispositionField.fits, byteFits, Bool.and_eq_true, decide_eq_true_eq] at *
  case touchUp =>
    rw [read_word _ (by norm_num)]
    show Reader.bind (readNat 1) _ (bodyBytes _) = _
    rw [read_u1 _ hw.1, read_u1 _ hw.2]; rfl
  case other c => 
    rw [read_word _ hw.1]
    obtain ⟨h1, h2⟩ := hw
    obtain ⟨m, rfl⟩ : ∃ m, c = m + 5 := ⟨c - 5, by omega⟩
    rfl
  all_goals rw [read_word _ (by norm_num)]; rfl

end Sys2Proof.Machine
end

