-- ==== Sys2Proof/Laws/Starts.lean ====
section
/-! SUPPORT. What the start of a transfer leaves (R16), and the boards and slots the diverters find. -/

namespace Sys2Proof.Machine

/-- The lists that a change of records keeps. -/
theorem recordsOnly_fields {s u : State} (h : RecordsOnly s u) : u.table.transfers = s.table.transfers ∧
    u.table.queue = s.table.queue ∧ u.table.free = s.table.free ∧ u.table.index = s.table.index ∧ u.table.mode =
        s.table.mode := by
  unfold RecordsOnly at h
  exact ⟨(congrArg (·.transfers) h).trans rfl, (congrArg (·.queue) h).trans rfl, (congrArg (·.free) h).trans rfl, (congrArg (·.index) h).trans rfl, (congrArg (·.mode) h).trans rfl⟩

theorem recordsOnly_examineOverdue (s : State) (t : Nat) : RecordsOnly s (s.examineOverdue t) := by
  unfold State.examineOverdue; split
  · exact recordsOnly_raiseHold (s.onCure _) t _ _ _ _
  · exact RecordsOnly.refl s

theorem recordsOnly_examineFlash (s : State) : RecordsOnly s s.examineFlash := by
  have h : ∀ (l : List Nat) (u : State), RecordsOnly u (l.foldl (fun s k => s.examineOverdue (k + 1)) u) := by
    intro l
    induction l with
    | nil => exact fun u => RecordsOnly.refl u
    | cons k l ih => exact fun u => (recordsOnly_examineOverdue u (k + 1)).trans (ih _)
  exact h _ s

/-- Where no traveler's flash time has come to its flash maximum, the examination changes nothing (R111). -/
theorem examineFlash_none {s : State} (h : ∀ t, s.overdueDue t = false) : s.examineFlash = s := by
  have one : ∀ t, s.examineOverdue t = s := fun t => by unfold State.examineOverdue; simp [h t]
  unfold State.examineFlash
  induction List.range Config.travelerCount with
  | nil => rfl
  | cons k l ih => rw [List.foldl_cons, one, ih]

theorem recordsOnly_expect (s : State) (t d) : RecordsOnly s (s.expect t d) := by
  unfold State.expect; split
  · rfl
  · exact RecordsOnly.trans (t := s.onHolds _) rfl (recordsOnly_onTraveler _ _ _)
  · rfl
  · rfl

theorem leaveSource_transfers (s : State) (t a) : (s.leaveSource t a).table.transfers = s.table.transfers := by
  unfold State.leaveSource; split <;> rfl

/-- A transfer begun, up to the change of stage (R16). -/
def State.preMove (s : State) (t : Nat) (a d : Place) : State :=
  ((((s.onOutputs (openWay a d)).onTable fun b =>
    { b with transfers := b.transfers ++ [entryFor s t a d] }).leaveSource t a).expect t d).reselect

/-- A transfer to anywhere but the flash belt: what precedes the stage change, then the stage change. -/
theorem begin_eq (s : State) (t : Nat) (a d : Place) (hd : d ≠ .flashBelt) :
    s.beginTransfer t a d = (s.preMove t a d).moveStage t d.stage .arriving := by
  unfold State.beginTransfer
  simp only [hd, if_false]; rfl

/-- A transfer to the flash belt ends with the overdue examination (R111). -/
theorem begin_flash (s : State) (t : Nat) (a : Place) :
    s.beginTransfer t a .flashBelt = ((s.preMove t a .flashBelt).moveStage t .flash .arriving).examineFlash :=
  rfl

/-- The entry stands in the list before the stage changes. -/
theorem preMove_transfers (s : State) (t : Nat) (a d : Place) : (s.preMove t a d).table.transfers =
    s.table.transfers ++ [entryFor s t a d] := by
  have h : RecordsOnly (((s.onOutputs (openWay a d)).onTable fun b =>
    { b with transfers := b.transfers ++ [entryFor s t a d] }).leaveSource t a) (s.preMove t a d) :=
        RecordsOnly.trans (recordsOnly_expect _ t d) rfl
  rw [(recordsOnly_fields h).1, leaveSource_transfers]; rfl

/-- A started transfer stands at the tail of the transfer list (R16). -/
theorem begin_transfers (s : State) (t : Nat) (a d : Place) : (s.beginTransfer t a d).table.transfers =
    s.table.transfers ++ [entryFor s t a d] := by
  by_cases hd : d = .flashBelt
  · subst hd; rw [begin_flash, (recordsOnly_fields (recordsOnly_examineFlash _)).1, (recordsOnly_fields (recordsOnly_moveStage _ _ _ _)).1, preMove_transfers]
  · rw [begin_eq s t a d hd, (recordsOnly_fields (recordsOnly_moveStage _ _ _ _)).1, preMove_transfers]

/-- The entry at the tail is that of its traveler where no other entry names it. -/
theorem transferOf_new {u : State} {l : List Transfer} {e : Transfer} (h : u.table.transfers = l ++ [e]) (hn : ∀ x
    ∈ l, x.traveler ≠ e.traveler) : u.transferOf e.traveler = some e := by
  unfold State.transferOf
  rw [h, List.find?_append, List.find?_eq_none.2 (by intro x hx; simpa using hn x hx)]
  simp

/-- A transfer whose destination sensor reads vacant is only begun (R16). -/
theorem start_waits (s : State) (t : Nat) (a d : Place) (hq : a = .queue → t ∈ s.table.queue) (hn : ∀ x ∈
    s.table.transfers, x.traveler ≠ t) (ho : s.occupied d.sensor = false) :
    s.startTransfer t a d = s.beginTransfer t a d := by
  have h1 := transferOf_new (u := s.beginTransfer t a d) (e := entryFor s t a d) (begin_transfers s t a d) hn
  unfold State.startTransfer
  have h2 : (s.beginTransfer t a d).transferEnds t = none := by
    unfold State.transferEnds
    rw [show (s.beginTransfer t a d).transferOf t = some (entryFor s t a d) from h1]
    simp only [(calm_beginTransfer s t a d hq).occupied]
    simp [entryFor, ho]
  simp only [h2]

theorem reselect_slot (s : State) : s.reselect.io.outputs.slotSelect = slotSelectOf s.table.transfers := rfl

/-- The slot select follows the transfer started last (R180). -/
theorem slotSelectOf_snoc (l : List Transfer) (e : Transfer) (n : Nat) (h : e.dest = .shelf n) : slotSelectOf (l ++
    [e]) = n := by
  simp [slotSelectOf, List.foldl_append, h]

/-- The board that waits for the pre diverter (R72). -/
theorem awaiting_pre {s : State} {i : Inspection} {t : Nat} {r : Traveler} (h1 : s.mask.pre = some i) (h2 :
    i.traveler = t) (h3 : i.phase ≠ .isOpen) (h4 : s.traveler t = some r) (h5 : r.stage = .preInspect) (h6 :
        r.place = .present)
   (h7 : ∀ e ∈ s.table.transfers, e.source ≠ .preStation ∧ e.dest ≠ .preStation ∧ e.traveler ≠ t) : s.awaiting .pre
       = some (t, r) := by
  have hn : s.named .preStation = false := by
    unfold State.named; rw [List.any_eq_false]; intro e he; have := h7 e he; simp [this]
  subst h2
  simp [State.awaiting, State.record, MaskUnit.record, h1, h4, h3, h5, h6, hn, Place.stage]

/-- The board that waits for the exit diverter (R140). -/
theorem awaiting_post {s : State} {i : Inspection} {t : Nat} {r : Traveler} (h1 : s.mask.post = some i) (h2 :
    i.traveler = t) (h3 : i.phase ≠ .isOpen) (h4 : s.traveler t = some r) (h5 : r.stage = .postInspect) (h6 :
        r.place = .present)
   (h7 : ∀ e ∈ s.table.transfers, e.source ≠ .postStation ∧ e.dest ≠ .postStation ∧ e.traveler ≠ t) : s.awaiting
       .post = some (t, r) := by
  have hn : s.named .postStation = false := by
    unfold State.named; rw [List.any_eq_false]; intro e he; have := h7 e he; simp [this]
  subst h2
  simp [State.awaiting, State.record, MaskUnit.record, h1, h4, h3, h5, h6, hn, Place.stage]

theorem held_false {r : Traveler} (h : ∀ h ∈ r.holds, h.state = .released) : r.held = false := by
  unfold Traveler.held; rw [List.any_eq_false]; intro x hx; simp [h x hx]

theorem held_true {r : Traveler} (h : ∃ h ∈ r.holds, h.state = .isOpen) : r.held = true := by
  unfold Traveler.held; rw [List.any_eq_true]; obtain ⟨x, hx, e⟩ := h; exact ⟨x, hx, by simp [e]⟩

/-- The lowest-numbered free slot (R155). -/
theorem lowestFree_of {s : State} {n : Nat} (h : nth s.holds.shelf n = some .free) (hm : ∀ m, 1 ≤ m → m < n → nth
    s.holds.shelf m ≠ some .free) : s.lowestFree = some n := by
  unfold State.lowestFree
  refine firstNth_some h (by simp) fun k b hk hb => ?_
  by_contra hc
  have hb' : b = .free := by simpa using hb
  subst hb'
  have := nth_some hk
  exact hm k this.1 (by omega) hk

/-- A transfer begun from a place and to a place whose owners do nothing. -/
theorem happened_begin_plain {s : State} {t : Nat} {r : Traveler} {a d : Place} (hr : s.traveler t = some r)
    (h1 : ∀ (y : State), y.leaveSource t a = y) (h2 : ∀ y : State, y.expect t d = y) (hd : d ≠ .flashBelt) :
    Happened s (s.beginTransfer t a d) [.boardStage r.tag t r.stage d.stage .arriving] [.table, .clock] := by
  rw [begin_eq s t a d hd]
  have h3 : Happened s (s.preMove t a d) [] [.table, .clock] := by
    unfold State.preMove; rw [h1, h2]
    exact ((happened_onOutputs s _).then rfl (happened_onTable _ _) (e := [.table, .clock]) (by simp)).then rfl (happened_onOutputs _ _) (by simp)
  have hr' : (s.preMove t a d).traveler t = some r := by
    unfold State.preMove; rw [h1, h2]; exact hr
  exact h3.then (by unfold State.preMove; rw [h1, h2]; rfl) (happened_moveStage _ _ hr') (by simp)

/-- While a transfer names the pre-inspection station its diverter decides nothing. -/
theorem decidePre_named {s : State} (h : s.named .preStation = true) : s.decidePre = s := by
  have ha : s.awaiting .pre = none := by
    unfold State.awaiting
    dsimp only
    split
    · rfl
    · split
      · rfl
      · rw [if_neg (by simp [h])]
  unfold State.decidePre State.preDecision
  simp only [ha]
  split <;> simp_all

/-- A started transfer names its destination. -/
theorem begin_named (s : State) (t a d) : (s.beginTransfer t a d).named d = true := by
  unfold State.named; rw [begin_transfers]; simp [entryFor]

theorem filter_head {t : Nat} {rest : List Nat} (h : t ∉ rest) : (t :: rest).filter (· != t) = rest := by
  rw [List.filter_cons_of_neg (by simp), List.filter_eq_self]
  intro a ha; simp; rintro rfl; exact h ha

/-- The records after a transfer has begun. -/
theorem begin_traveler {s : State} {t : Nat} {a d : Place} {r : Traveler} (hd : d ≠ .flashBelt) (h : (s.preMove t a
    d).traveler t = some r) (n : Nat) :
   (s.beginTransfer t a d).traveler n = if n = t then some { r with stage := d.stage, place := .arriving } else (s.preMove t a d).traveler n := by
  rw [begin_eq s t a d hd, traveler_moveStage _ _ _ h]

/-- What precedes the stage change of a transfer to the shelf (R155, R180). -/
theorem preMove_assign {s : State} {t n : Nat} {r : Traveler} (a : Place) (ha : ∀ y : State, y.leaveSource t a = y)
    (h : s.traveler t = some r) :
   Happened s (s.preMove t a (.shelf n)) [] [.table, .holds, .clock] ∧ (s.preMove t a (.shelf n)).traveler t = some
       { r with shelfSlot := some n } ∧ (∀ k, k ≠ t → (s.preMove t a (.shelf n)).traveler k = s.traveler k) ∧
   (s.preMove t a (.shelf n)).holds = { s.holds with shelf := putNth s.holds.shelf n (.assigned t) } ∧ (s.preMove t
       a (.shelf n)).io.outputs = { openWay a (.shelf n) s.io.outputs with slotSelect := n } := by
  have h0 : s.preMove t a (.shelf n) = (((s.onOutputs (openWay a (.shelf n))).onTable fun b =>
    { b with transfers := b.transfers ++ [entryFor s t a (.shelf n)] }).assignSlot n t).reselect := by
    unfold State.preMove; rw [ha]; rfl
  set y := ((s.onOutputs (openWay a (.shelf n))).onTable fun b =>
    { b with transfers := b.transfers ++ [entryFor s t a (.shelf n)] }) with hy
  have hyt : y.traveler t = some r := h
  have h1 : y.assignSlot n t = (y.onHolds fun m => { m with shelf := putNth m.shelf n (.assigned t) }).setTraveler t { r with shelfSlot := some n } := by
    unfold State.assignSlot; exact onTraveler_live (s := y.onHolds _) (r := r) _ hyt
  rw [h0, h1]
  refine ⟨?_, ?_, fun k hk => ?_, rfl, ?_⟩
  · exact ((((happened_onOutputs s _).then rfl (happened_onTable _ _) (e := [.table, .holds, .clock]) (by simp)).then rfl (happened_onHolds _ _) (e := [.table, .holds, .clock]) (by simp)).then rfl (happened_setTraveler _ _ _) (e := [.table, .holds, .clock]) (by simp)).then rfl (happened_onOutputs _ _) (by simp)
  · exact traveler_setTraveler_same (s := y.onHolds _) _ hyt
  · exact traveler_setTraveler_other _ _ _ _ hk
  · have : slotSelectOf (s.table.transfers ++ [entryFor s t a (.shelf n)]) = n := slotSelectOf_snoc _ _ _ rfl
    have h2 : ((y.onHolds fun m => { m with shelf := putNth m.shelf n (.assigned t) }).setTraveler t { r with shelfSlot := some n }).reselect.io.outputs = { openWay a (.shelf n) s.io.outputs with slotSelect := slotSelectOf (s.table.transfers ++ [entryFor s t a (.shelf n)]) } := rfl
    rw [h2, this]

end Sys2Proof.Machine
end

