-- ==== Sys2Proof/Laws/Requests.lean ====
section
/-! SUPPORT. Requests as their interface serves them: the level each needs (11.3), the answer of a taken one, and that an
owner refuses without effect (R167). -/

namespace Sys2Proof.Machine

/-- A taken request whose owner keeps the links' frames is answered (R164 to R167). -/
theorem request_answered {s t : State} {q : Req} {need : Nat} (code : Nat) {owner : Nat → State → State × Reply}
    {w : Status} {fields : List Field} (h : s.Takes q need)
    (ho : owner (max (s.strapped q.link) q.level) (s.inServiceOf q) = (t, { status := w, fields := fields }))
    (hf : FramesKept (s.inServiceOf q) t) :
    request q code need owner s =
        .next (t.answered q code (max (s.strapped q.link) q.level) { status := w, fields := fields }) ∧
      Answered s (t.answered q code (max (s.strapped q.link) q.level) { status := w, fields := fields }) q code w
          fields := by
  refine ⟨by rw [request_taken code owner h, ho], ⟨?_, ?_, ?_⟩⟩
  · rw [link_answered, if_pos rfl]
    simp only [LinkState.finish]
    rw [(hf q.link).2.2, link_inServiceOf, if_pos rfl]
  · rw [link_answered, if_pos rfl]; rfl
  · rw [link_answered, if_pos rfl]
    simp only [LinkState.finish]
    rw [(hf q.link).1, link_inServiceOf, if_pos rfl]

/-- An owner's function that leaves the state as it was unless it answers OK or CLAMPED (R167). -/
def Refusing (f : State → State × Reply) : Prop := ∀ t, (f t).2.status ≠ .ok → (f t).2.status ≠ .clamped → (f t).1
    = t

theorem refusing_refuse (w : Status) (l : List Field) : Refusing (fun s => refuse s w l) := fun _ _ _ => rfl

theorem refusing_accept (g : State → State) (l : State → List Field) : Refusing (fun s => accept (g s) (l s)) :=
    fun _ h _ => absurd rfl h

/-- A request on a traveler refuses without effect where its owner does. -/
theorem refusing_withTag (tag : Text) {k : Nat → Traveler → State → State × Reply} (h : ∀ t r, Refusing (k t r)) :
    Refusing (withTag tag k) := by
  intro s; unfold withTag; split
  · exact refusing_refuse _ _ s
  · split
    · exact refusing_refuse _ _ s
    · exact h _ _ s

theorem refusing_withClaim (l : Link) (tag : Text) {k : Nat → Traveler → State → State × Reply} (h : ∀ t r,
    Refusing (k t r)) : Refusing (withClaim l tag k) := by
  unfold withClaim; apply refusing_withTag; intro t r s; split
  · exact h _ _ s
  · exact refusing_refuse _ _ s

theorem refusing_atStation (x : Station) {k : Nat → Traveler → State → State × Reply} (h : ∀ t r, Refusing (k t r))
    (t : Nat) (r : Traveler) : Refusing (atStation x k t r) := by
  intro s; unfold atStation; split
  · exact h _ _ s
  · exact refusing_refuse _ _ s

theorem refusing_ownInduct (x₁ x₂) : Refusing (ownInduct x₁ x₂) := by
  intro s; unfold ownInduct; repeat' (first | (intro h1 h2; first | rfl | (exact absurd rfl h1)) | split)

theorem refusing_ownStart : Refusing ownStart := by
  intro s; unfold ownStart; repeat' (first | (intro h1 h2; first | rfl | (exact absurd rfl h1)) | split)

theorem refusing_ownDrain : Refusing ownDrain := by
  intro s; unfold ownDrain; repeat' (first | (intro h1 h2; first | rfl | (exact absurd rfl h1)) | split)

theorem refusing_ownRecover : Refusing ownRecover := by
  intro s; unfold ownRecover; repeat' (first | (intro h1 h2; first | rfl | (exact absurd rfl h1)) | split)

theorem refusing_ownClearLine : Refusing ownClearLine := by
  intro s; unfold ownClearLine; repeat' (first | (intro h1 h2; first | rfl | (exact absurd rfl h1)) | split)

theorem refusing_ownListTravelers (x₁ x₂) : Refusing (ownListTravelers x₁ x₂) := by
  intro s; unfold ownListTravelers; repeat' (first | (intro h1 h2; first | rfl | (exact absurd rfl h1)) | split)

theorem refusing_ownSetReleaseLevel (x₁ x₂) : Refusing (ownSetReleaseLevel x₁ x₂) := by
  intro s; unfold ownSetReleaseLevel; repeat' (first | (intro h1 h2; first | rfl | (exact absurd rfl h1)) | split)

theorem refusing_ownPlaceHold (x₁ x₂ x₃) : Refusing (ownPlaceHold x₁ x₂ x₃) := by
  intro s; unfold ownPlaceHold; split
  · exact refusing_refuse _ _ s
  · refine refusing_withTag _ (fun t r s => ?_) s; repeat' (first | (intro h1 h2; first | rfl | (exact absurd rfl h1)) | split)
    dsimp only; split <;> exact fun h => absurd rfl h

theorem refusing_ownReleaseHold (x₁ x₂ x₃ x₄) : Refusing (ownReleaseHold x₁ x₂ x₃ x₄) := by
  intro s; unfold ownReleaseHold; split
  · exact refusing_refuse _ _ s
  · refine refusing_withTag _ (fun t r s => ?_) s; repeat' (first | (intro h1 h2; first | rfl | (exact absurd rfl h1)) | split)

theorem refusing_ownReleaseHoldAll (x₁ x₂ x₃) : Refusing (ownReleaseHoldAll x₁ x₂ x₃) := by
  unfold ownReleaseHoldAll; refine refusing_withTag _ (fun t r s => ?_); dsimp only; repeat' (first | (intro h1 h2; first | rfl | (exact absurd rfl h1)) | split)

theorem refusing_ownDispose (x₁ x₂ x₃) : Refusing (ownDispose x₁ x₂ x₃) := by
  intro s; unfold ownDispose; split
  · exact refusing_refuse _ _ s
  · refine refusing_withTag _ (fun t r s => ?_) s; repeat' (first | (intro h1 h2; first | rfl | (exact absurd rfl h1)) | split)

theorem refusing_ownClaim (x₁ x₂ x₃) : Refusing (ownClaim x₁ x₂ x₃) := by
  intro s; unfold ownClaim; dsimp only; repeat' (first | (intro h1 h2; first | rfl | (exact absurd rfl h1)) | split)

theorem refusing_ownPostFiducials (x₁ x₂ x₃ x₄ x₅) : Refusing (ownPostFiducials x₁ x₂ x₃ x₄ x₅) := by
  intro s; unfold ownPostFiducials; split
  · exact refusing_refuse _ _ s
  · refine refusing_withClaim _ _ (refusing_atStation _ (fun t r s => ?_)) s
    intro h1 h2; exact absurd rfl h1

theorem refusing_ownPostSite (x₁ x₂ x₃ x₄) : Refusing (ownPostSite x₁ x₂ x₃ x₄) := by
  intro s; unfold ownPostSite; split
  · refine refusing_withClaim _ _ (refusing_atStation _ (fun t r s => ?_)) s
    repeat' (first | (intro h1 h2; first | rfl | (exact absurd rfl h1)) | split)
  · exact refusing_refuse _ _ s

theorem refusing_ownPostCoverage (x₁ x₂ x₃ x₄) : Refusing (ownPostCoverage x₁ x₂ x₃ x₄) := by
  intro s; unfold ownPostCoverage; split
  · refine refusing_withClaim _ _ (refusing_atStation _ (fun t r s => ?_)) s
    repeat' (first | (intro h1 h2; first | rfl | (exact absurd rfl h1)) | split)
  · exact refusing_refuse _ _ s

theorem refusing_ownComplete (x₁ x₂) : Refusing (ownComplete x₁ x₂) := by
  unfold ownComplete; refine refusing_withClaim _ _ (fun t r s => ?_);  repeat' (first | (intro h1 h2; first | rfl | (exact absurd rfl h1)) | split)

theorem refusing_ownSubscribe (x₁ x₂ x₃) : Refusing (ownSubscribe x₁ x₂ x₃) := by
  intro s; unfold ownSubscribe; repeat' (first | (intro h1 h2; first | rfl | (exact absurd rfl h1)) | split)

theorem refusing_ownTake (x₁ x₂) : Refusing (ownTake x₁ x₂) := by
  intro s; unfold ownTake; dsimp only; repeat' (first | (intro h1 h2; first | rfl | (exact absurd rfl h1)) | split)

theorem refusing_ownSetTrigger (x₁ x₂) : Refusing (ownSetTrigger x₁ x₂) := by
  intro s; unfold ownSetTrigger; repeat' (first | (intro h1 h2; first | rfl | (exact absurd rfl h1)) | split)

theorem refusing_ownSetTimeouts (x₁) : Refusing (ownSetTimeouts x₁) := by
  intro s; unfold ownSetTimeouts; repeat' (first | (intro h1 h2; first | rfl | (exact absurd rfl h1)) | split)

theorem refusing_ownSetHead (x₁ x₂) : Refusing (ownSetHead x₁ x₂) := by
  intro s; unfold ownSetHead; repeat' (first | (intro h1 h2; first | rfl | (exact absurd rfl h1)) | split)

theorem refusing_ownMountLot (x₁ x₂) : Refusing (ownMountLot x₁ x₂) := by
  intro s; unfold ownMountLot; repeat' (first | (intro h1 h2; first | rfl | (exact absurd rfl h1)) | split)

theorem refusing_ownUnmountLot (x₁) : Refusing (ownUnmountLot x₁) := by
  intro s; unfold ownUnmountLot; repeat' (first | (intro h1 h2; first | rfl | (exact absurd rfl h1)) | split)

theorem refusing_ownSetOvenGeometry (x₁ x₂ x₃) : Refusing (ownSetOvenGeometry x₁ x₂ x₃) := by
  intro s; unfold ownSetOvenGeometry; repeat' (first | (intro h1 h2; first | rfl | (exact absurd rfl h1)) | split)

theorem refusing_ownSetOvenSpeed (x₁) : Refusing (ownSetOvenSpeed x₁) := by
  intro s; unfold ownSetOvenSpeed; dsimp only; repeat' (first | (intro h1 h2; first | rfl | (exact absurd rfl h1) | (exact absurd rfl h2)) | split)

theorem refusing_ownOpenRecipe (x₁ x₂) : Refusing (ownOpenRecipe x₁ x₂) := by
  intro s; unfold ownOpenRecipe; repeat' (first | (intro h1 h2; first | rfl | (exact absurd rfl h1)) | split)

theorem refusing_ownPut {α β : Type} (f : α → Option β) (x₁ x₂ x₃ x₄ x₅) : Refusing (ownPut f x₁ x₂ x₃ x₄ x₅) := by
  intro s; unfold ownPut; repeat' (first | (intro h1 h2; first | rfl | (exact absurd rfl h1)) | split)

theorem refusing_ownDropRecipe (x₁) : Refusing (ownDropRecipe x₁) := by
  intro s; unfold ownDropRecipe; repeat' (first | (intro h1 h2; first | rfl | (exact absurd rfl h1)) | split)

theorem refusing_ownGetRecipe (x₁ x₂ x₃) : Refusing (ownGetRecipe x₁ x₂ x₃) := by
  intro s; unfold ownGetRecipe; dsimp only; repeat' (first | (intro h1 h2; first | rfl | (exact absurd rfl h1)) | split)

theorem refusing_ownGetRecipeProfile (x₁) : Refusing (ownGetRecipeProfile x₁) := by
  intro s; unfold ownGetRecipeProfile; repeat' (first | (intro h1 h2; first | rfl | (exact absurd rfl h1)) | split)

theorem refusing_ownPutCureProfile (x₁ x₂) : Refusing (ownPutCureProfile x₁ x₂) := by
  intro s; unfold ownPutCureProfile; repeat' (first | (intro h1 h2; first | rfl | (exact absurd rfl h1)) | split)

theorem refusing_ownDropCureProfile (x₁) : Refusing (ownDropCureProfile x₁) := by
  intro s; unfold ownDropCureProfile; repeat' (first | (intro h1 h2; first | rfl | (exact absurd rfl h1)) | split)

theorem refusing_ownSetGantryLimits (x₁) : Refusing (ownSetGantryLimits x₁) := by
  intro s; unfold ownSetGantryLimits; repeat' (first | (intro h1 h2; first | rfl | (exact absurd rfl h1)) | split)

/-- Every request is served with its code and the level of the request index (11.3, R166), and its owner refuses without effect (FinishRecipe apart, R31). -/
theorem request_owner (i : Instr) (q : Req) (code : Nat) (body : List Field) (h : requestParts i = some (q, code,
    body)) :
   ∃ owner, (∀ s, exec i s = request q code (if code ∈ [6, 10, 11, 12, 13, 14, 15, 17, 18, 19, 29, 30, 33, 43] then
       0
      else if code ∈ [1, 2, 3, 5, 31] then 1
      else if code ∈ [4, 20, 21, 23, 24, 25, 26, 27, 28, 34, 36] then 2
      else 3) owner s) ∧ (code ≠ 14 → ∀ n, Refusing (owner n)) := by
  cases i <;> simp only [requestParts, Option.some.injEq, Prod.mk.injEq, reduceCtorEq] at h <;> obtain ⟨rfl, rfl, rfl⟩ := h <;> refine ⟨_, fun _ => rfl, fun hc n => ?_⟩
  case induct => exact refusing_ownInduct _ _
  case start => exact refusing_ownStart
  case drain => exact refusing_ownDrain
  case halt => exact fun _ h => absurd rfl h
  case recover => exact refusing_ownRecover
  case clearLine => exact refusing_ownClearLine
  case getLine => exact fun _ h _ => rfl
  case getTraveler => exact refusing_withTag _ fun _ _ _ _ _ => rfl
  case listTravelers => exact refusing_ownListTravelers _ _
  case openRecipe => exact refusing_ownOpenRecipe _ _
  case putWindows => exact refusing_ownPut _ _ _ _ _ _
  case putSites => exact refusing_ownPut _ _ _ _ _ _
  case putStrokes => exact refusing_ownPut _ _ _ _ _ _
  case finishRecipe => exact absurd rfl hc
  case dropRecipe => exact refusing_ownDropRecipe _
  case getRecipe => exact refusing_ownGetRecipe _ _ _
  case getRecipeProfile => exact refusing_ownGetRecipeProfile _
  case putCureProfile => exact refusing_ownPutCureProfile _ _
  case dropCureProfile => exact refusing_ownDropCureProfile _
  case setHead => exact refusing_ownSetHead _ _
  case mountLot => exact refusing_ownMountLot _ _
  case unmountLot => exact refusing_ownUnmountLot _
  case getLot => exact fun _ h _ => rfl
  case claim => exact refusing_ownClaim _ _ _
  case unclaim => exact refusing_withClaim _ _ fun _ _ _ h => absurd rfl h
  case postFiducials => exact refusing_ownPostFiducials _ _ _ _ _
  case postSite => exact refusing_ownPostSite _ _ _ _
  case postCoverage => exact refusing_ownPostCoverage _ _ _ _
  case complete => exact refusing_ownComplete _ _
  case setGantryLimits => exact refusing_ownSetGantryLimits _
  case setOvenGeometry => exact refusing_ownSetOvenGeometry _ _ _
  case setOvenSpeed => exact refusing_ownSetOvenSpeed _
  case getOven => exact fun _ h _ => rfl
  case setReleaseLevel => exact refusing_ownSetReleaseLevel _ _
  case placeHold => exact refusing_ownPlaceHold _ _ _
  case releaseHold => exact refusing_ownReleaseHold _ _ _ _
  case releaseHoldAll => exact refusing_ownReleaseHoldAll _ _ _
  case dispose => exact refusing_ownDispose _ _ _
  case subscribe => exact refusing_ownSubscribe _ _ _
  case take => exact refusing_ownTake _ _
  case peek => exact fun _ h _ => rfl
  case setTrigger => exact refusing_ownSetTrigger _ _
  case restart => exact fun _ h => absurd rfl h
  case getConfig => exact fun _ h _ => rfl
  case setTimeouts => exact refusing_ownSetTimeouts _

end Sys2Proof.Machine
end

