-- ==== Sys2Proof/Laws/Sends.lean ====
section
/-! SUPPORT. What a diverter's decision leaves: the transfer that it starts on a clear way, or the board as it waited. -/

namespace Sys2Proof.Machine

@[simp] theorem leaveSource_station (s : State) (t : Nat) (x : Station) : s.leaveSource t (stationPlace x) = s := by
  cases x <;> rfl

theorem openWay_station (x : Station) (p : Place) (y : Outputs) :
    openWay (stationPlace x) p y = sentOutputs x y (some p) := by
  cases x <;> cases p <;> rfl

/-- A transfer that a diverter starts on a clear way (R15, R16, R77, R155). -/
theorem start_sends {s : State} {x : Station} {t : Nat} {r : Traveler} {p : Place} (hr : s.traveler t = some r)
    (hn : ∀ e ∈ s.table.transfers, e.traveler ≠ t) (hp : p = .cell ∨ p = .outfeed ∨ ∃ n, p = .shelf n)
    (hc : s.occupied p.sensor = false) :
    let u := s.startTransfer t (stationPlace x) p
    Happened s u (sentNotices r t (some p)) [.table, .engine, .holds, .clock] ∧
      Sent s u x t r s.table s.engine s.holds.shelf (some p) ∧
      OutputsBecome s u (sentOutputs x s.io.outputs (some p)) := by
  intro u
  have hu : u = (s.preMove t (stationPlace x) p).moveStage t p.stage .arriving := by
    rw [← begin_eq s t (stationPlace x) p (by rcases hp with rfl | rfl | ⟨n, rfl⟩ <;> simp)]
    exact start_waits s t _ _ (by cases x <;> simp [stationPlace]) hn hc
  have key (r' : Traveler) (hb : Happened s (s.preMove t (stationPlace x) p) [] [.table, .engine, .holds, .clock])
      (hnow : (s.preMove t (stationPlace x) p).now = s.now)
      (ht : (s.preMove t (stationPlace x) p).traveler t = some r') (htag : r'.tag = r.tag) (hst : r'.stage = r.stage)
      (hsent : sentRecord r (some p) = { r' with stage := p.stage, place := .arriving })
      (ho : ∀ n, n ≠ t → (s.preMove t (stationPlace x) p).traveler n = s.traveler n)
      (htab : RecordsOnly
        { s with table := { s.table with transfers := s.table.transfers ++ [entryFor s t (stationPlace x) p] } }
        (s.preMove t (stationPlace x) p))
      (he : (s.preMove t (stationPlace x) p).engine = sentEngine s.engine t (some p))
      (hh : (s.preMove t (stationPlace x) p).holds = { s.holds with shelf := sentShelf s.holds.shelf t (some p) })
      (hio : (s.preMove t (stationPlace x) p).io = { s.io with outputs :=
        { sentOutputs x s.io.outputs (some p) with
          slotSelect := slotSelectOf (s.table.transfers ++ [entryFor s t (stationPlace x) p]) } }) :
      Happened s u (sentNotices r t (some p)) [.table, .engine, .holds, .clock] ∧
      Sent s u x t r s.table s.engine s.holds.shelf (some p) ∧
      OutputsBecome s u (sentOutputs x s.io.outputs (some p)) := by
    have hm := traveler_moveStage p.stage .arriving (h := ht)
    have hl := moveStage_live p.stage .arriving ht
    have htr : u.table.transfers = s.table.transfers ++ [entryFor s t (stationPlace x) p] := by
      rw [hu, (recordsOnly_fields (recordsOnly_moveStage _ _ _ _)).1, preMove_transfers]
    refine ⟨?_, ⟨⟨?_, fun n hn' => ?_, ?_⟩, ?_, ?_⟩, ?_⟩
    · rw [hu]
      have := hb.then hnow (happened_moveStage p.stage .arriving ht) (e := [.table, .engine, .holds, .clock]) (by simp)
      rw [htag, hst] at this
      cases p <;> simpa [sentNotices] using this
    · rw [hu, hm, if_pos rfl, hsent]
    · rw [hu, hm, if_neg hn', ho n hn']
    · have h2 := htab.trans (recordsOnly_moveStage _ t p.stage .arriving)
      rw [hu]; exact h2
    · rw [hu, hl]; exact he
    · rw [hu, hl]; exact hh
    · unfold OutputsBecome
      rw [htr, hu, hl]
      show (s.preMove t (stationPlace x) p).io = _
      rw [hio]
      show _ = ({ s.io with outputs := _ } : LineIo)
      cases x <;> rcases hp with rfl | rfl | ⟨n, rfl⟩ <;> simp [hio, sentOutputs]
  have base : Happened s ((s.onOutputs (openWay (stationPlace x) p)).onTable fun b =>
      { b with transfers := b.transfers ++ [entryFor s t (stationPlace x) p] }) [] [.table, .clock] :=
    (happened_onOutputs s _).then rfl (happened_onTable _ _) (by simp)
  have pre : s.preMove t (stationPlace x) p = (((s.onOutputs (openWay (stationPlace x) p)).onTable fun b =>
      { b with transfers := b.transfers ++ [entryFor s t (stationPlace x) p] }).expect t p).reselect := by
    unfold State.preMove; rw [leaveSource_station]
  rcases hp with rfl | rfl | ⟨n, rfl⟩
  · refine key r ?_ ?_ ?_ rfl rfl rfl ?_ ?_ ?_ ?_ ?_ <;> rw [pre]
    · exact (base.then rfl (happened_onEngine _ _) (e := [.table, .engine, .clock]) (by simp)).then rfl
        (happened_onOutputs _ _) (by simp)
    · rfl
    · exact hr
    · exact fun _ _ => rfl
    · rfl
    · rfl
    · rfl
    · simp only [State.reselect, onOutputs_io, State.expect, onEngine_io, onTable_io, openWay_station]; rfl
  · refine key r ?_ ?_ ?_ rfl rfl rfl ?_ ?_ ?_ ?_ ?_ <;> rw [pre]
    · exact base.then rfl (happened_onOutputs _ _) (by simp)
    · rfl
    · exact hr
    · exact fun _ _ => rfl
    · rfl
    · rfl
    · rfl
    · simp only [State.reselect, onOutputs_io, State.expect, onTable_io, openWay_station]; rfl
  · obtain ⟨h1, h2, h3, h4, h5⟩ := preMove_assign (n := n) (stationPlace x) (fun y => leaveSource_station y t x) hr
    refine key _ (h1.mono (by simp)) ?_ h2 rfl rfl rfl h3 ?_ ?_ h4 ?_ <;> rw [pre]
    · simp [State.expect, State.assignSlot, State.now, State.reselect]
    · exact (show RecordsOnly _ ((((s.onOutputs (openWay (stationPlace x) (.shelf n))).onTable fun b =>
        { b with transfers := b.transfers ++ [entryFor s t (stationPlace x) (.shelf n)] }).assignSlot n t).reselect) by
        unfold State.assignSlot
        exact RecordsOnly.trans (t := (((s.onOutputs (openWay (stationPlace x) (.shelf n))).onTable fun b =>
          { b with transfers := b.transfers ++ [entryFor s t (stationPlace x) (.shelf n)] }).onHolds fun m =>
          { m with shelf := putNth m.shelf n (.assigned t) })) rfl (recordsOnly_onTraveler _ _ _))
    · simp [State.expect, State.assignSlot, State.reselect]; rfl
    · simp only [State.reselect, onOutputs_io, State.expect, State.assignSlot, onTraveler_io, onHolds_io, onTable_io,
        openWay_station, (recordsOnly_fields (recordsOnly_onTraveler _ _ _)).1]
      rfl

/-- A board that waits at a station is the one its diverter finds. -/
theorem awaiting_waits {s : State} {x : Station} {t : Nat} {r : Traveler} (h : s.Waits x t r) :
    s.awaiting x = some (t, r) := by
  obtain ⟨⟨i, hi, ht, hp⟩, hr, hg, hl, hn⟩ := h
  cases x
  · exact awaiting_pre hi ht hp hr hg hl hn
  · exact awaiting_post hi ht hp hr hg hl hn

/-- Where no board waits at a station its diverter decides nothing. -/
theorem decideAt_rests {s : State} {x : Station} (h : s.NoneWaits x) : s.decideAt x = s := by
  have ha : s.awaiting x = none := by
    rcases h with h | ⟨i, h, ho⟩ | ⟨e, he, hp⟩
    · unfold State.awaiting; simp [h]
    · unfold State.awaiting; simp only [h]; split <;> simp [ho]
    · have hn : s.named (stationPlace x) = true := by
        unfold State.named; rw [List.any_eq_true]; exact ⟨e, he, by rcases hp with hp | hp <;> simp [hp]⟩
      unfold State.awaiting
      cases x <;> (dsimp only [stationPlace] at hn ⊢; split; rfl; split; rfl; exact if_neg (by simp [hn]))
  cases x
  · show s.decidePre = s
    unfold State.decidePre State.preDecision
    simp only [ha]
    split <;> simp_all
  · show s.decideExit = s
    unfold State.decideExit State.exitDecision
    simp only [ha]
    split <;> simp_all

theorem held_iff {r : Traveler} : r.held = true ↔ ∃ h ∈ r.holds, h.state = .isOpen := by
  simp [Traveler.held, List.any_eq_true]

/-- The lowest free slot, by the count of the free ones. -/
theorem lowestFree_none {s : State} (h : s.holds.shelf.count .free = 0) : s.lowestFree = none := by
  unfold State.lowestFree firstNth
  rw [List.findIdx?_eq_none_iff.2]
  · rfl
  · intro y hy
    have : y ≠ .free := by rintro rfl; exact List.count_eq_zero.1 h hy
    simpa using this

/-- What a diverter's decision leaves where a board waits and its way is clear (R72, R73, R140). -/
theorem decideAt_sends {s : State} {x : Station} {t : Nat} {r : Traveler} {o : Option Place} (hw : s.Waits x t r)
    (hd : DiverterSends x s.mode s.holds.shelf (s.vacant .cell = true) r.holds o) (hc : s.WayClear o) :
    let u := s.decideAt x
    Happened s u (sentNotices r t o) [.table, .engine, .holds, .clock] ∧
      Sent s u x t r s.table s.engine s.holds.shelf o ∧ WaySet s u x o := by
  intro u
  have ha := awaiting_waits hw
  have hr := hw.2.1
  have hn : ∀ e ∈ s.table.transfers, e.traveler ≠ t := fun e he => (hw.2.2.2.2 e he).2.2
  have stays (hu : u = s) (ho : o = none) : Happened s u (sentNotices r t o) [.table, .engine, .holds, .clock] ∧
      Sent s u x t r s.table s.engine s.holds.shelf o ∧ WaySet s u x o := by
    subst ho; rw [hu]
    exact ⟨(Happened.refl s).mono (by simp), ⟨⟨hr, fun _ _ => rfl, by simp⟩, rfl, rfl⟩, fun _ => rfl,
      fun h => absurd rfl h⟩
  have goes (p : Place) (hu : u = s.startTransfer t (stationPlace x) p) (ho : o = some p)
      (hp : p = .cell ∨ p = .outfeed ∨ ∃ n, p = .shelf n) :
      Happened s u (sentNotices r t o) [.table, .engine, .holds, .clock] ∧
      Sent s u x t r s.table s.engine s.holds.shelf o ∧ WaySet s u x o := by
    subst ho; rw [hu]
    obtain ⟨h1, h2, h3⟩ := start_sends (x := x) hr hn hp (hc p rfl)
    exact ⟨h1, h2, nofun, fun _ => h3⟩
  cases x
  · obtain ⟨hi, hrun⟩ := hd
    by_cases m : s.mode = .run ∨ s.mode = .drain
    · obtain ⟨hh, hf⟩ := hrun m
      have du : u = match s.preDecision with
        | none => s
        | some (t, p) => s.startTransfer t .preStation p := rfl
      by_cases k : r.held = true
      · rcases hh (held_iff.1 k) with ⟨hlt, ho⟩ | ⟨hle, n, hfree, hlow, ho⟩
        · refine stays ?_ ho
          rw [du]; simp [State.preDecision, m, ha, k, State.freeSlots, ← List.count_eq_countP, Nat.not_le.2 hlt]
        · refine goes _ ?_ ho (.inr (.inr ⟨n, rfl⟩))
          rw [du]
          simp [State.preDecision, m, ha, k, State.freeSlots, ← List.count_eq_countP, hle, lowestFree_of hfree hlow,
            stationPlace]
      · obtain ⟨h1, h2⟩ := hf fun h => k (held_iff.2 h)
        by_cases v : s.vacant .cell = true
        · refine goes _ ?_ (h1 v) (.inl rfl)
          rw [du]; simp [State.preDecision, m, ha, k, v, stationPlace]
        · refine stays ?_ (h2 v)
          rw [du]; simp [State.preDecision, m, ha, k, v]
    · refine stays ?_ (hi (by cases h : s.mode <;> simp_all))
      show s.decidePre = s
      simp [State.decidePre, State.preDecision, m]
  · obtain ⟨hi, hrun⟩ := hd
    have du : u = match s.exitDecision with
      | none => s
      | some (t, p) => s.startTransfer t .postStation p := rfl
    by_cases m : s.mode = .halt
    · refine stays ?_ (hi m)
      rw [du]; simp [State.exitDecision, m]
    · obtain ⟨hh, hf⟩ := hrun m
      by_cases k : r.held = true
      · rcases hh (held_iff.1 k) with ⟨hlt, ho⟩ | ⟨hle, n, hfree, hlow, ho⟩
        · refine stays ?_ ho
          rw [du]; simp [State.exitDecision, m, ha, k, lowestFree_none (Nat.lt_one_iff.1 hlt)]
        · refine goes _ ?_ ho (.inr (.inr ⟨n, rfl⟩))
          rw [du]; simp [State.exitDecision, m, ha, k, lowestFree_of hfree hlow, stationPlace]
      · refine goes _ ?_ (hf fun h => k (held_iff.2 h)) (.inr (.inl rfl))
        rw [du]; simp [State.exitDecision, m, ha, k, stationPlace]

end Sys2Proof.Machine
end

