-- ==== Sys2Proof/Tests/Slice0.lean ====
section
/-! SUPPORT. Small tests: the commands that WellFormed refuses, the worked cases of the manual, one step of each kind on a
small state, and for every statement with hypotheses a state and operands that meet them. -/

namespace Sys2Proof.Tests

open Sys2Proof Sys2Proof.Machine

-- one theorem after the other: many kernel evaluations at once take a thread each
set_option Elab.async false

/-! ### Small states -/

/-- Link A strapped to level 0, B to 1, C to 2; two heads and three zones. -/
def bare : State :=
  State.afterReset { levelA := 0, levelB := 1, levelC := 2, heads := 2, zones := 3 } Inputs.quiet []

def onA : Req := { link := .a, level := 0, corr := 7#8, overlaps := false }
def onB : Req := { onA with link := .b }
def onC : Req := { onA with link := .c }

def tagB1 : Text := [0x42#8, 0x31#8]
def tagB2 : Text := [0x42#8, 0x32#8]

def hdr : Header :=
  { name := [0x52#8], revision := 1, length := 2000, width := 1500, kind := 3, flashMin := 60, flashMax := 600,
    dwellMin := 60, dwellMax := 300, profile := 1 }

def win : Window := { x0 := 0, y0 := 0, x1 := 2000, y1 := 1500, thickness := 100, tolerance := 10, mask := 0 }

/-- The stroke of the worked cases of chapter 6. -/
def strk : Stroke :=
  { head := 1, window := 1, startX := 100, startY := 200, endX := 1600, endY := 200, height := 240, passes := 4,
    stepX := 0, stepY := 110, serpentine := true, valveOn := true }

/-- The head of the worked cases of chapter 6. -/
def headCfg : HeadConfig :=
  { flow := 150, fan := 100, height := 200, zMin := 150, zMax := 300, fanMin := 30, fanMax := 250, vMin := 50,
    vMax := 4000, transit := 2000 }

/-- The lot of the worked cases, mixed 60 minutes before line second 5000. -/
def lot1 : Lot :=
  { state := .mounted, id := [0x4C#8], kind := 3, head := 1, charged := 4000000, remaining := 3000000,
    dispensed := 1000000, mixStamp := 1400, potLife := 240, derate := 20, lowLimit := 2500000, lowWarned := false }

def lims : GantryLimits :=
  { xMin := 0, xMax := 5000, yMin := 0, yMax := 5000, zMin := 0, zMax := 1000, origin := ⟨10, 20, 30⟩,
    park := ⟨0, 0, 500⟩, parkSpeed := 500 }

/-- An oven of 4000 mm. -/
def geo : OvenGeometry := { length := 40000, bounds := [10000, 20000, 40000], gap := 1000 }

def prof : Profile :=
  { base := 100, weights := [1, 2, 3, 4, 5, 6, 7, 8, 9, 10, 11, 12, 13, 14, 15, 16], required := 100, passMax := 200,
    lifeMax := 400 }

/-- A READY recipe of one window and one stroke. -/
def slot1 : RecipeSlot :=
  { state := .ready, header := some hdr, windows := [win], sites := [], strokes := [strk], useCount := 0 }

def warm : Zone := { state := .normal, last := some 120, invalidRun := 0, validRun := 0 }

/-- A line that is set up, IDLE at line second 5000 with no board. -/
def lab : State :=
  { bare with
    recipes := { slots := putNth bare.recipes.slots 1 slot1, profiles := [some prof, none, none, none] }
    lots := { heads := [some headCfg, none], map := [some 1, none], records := [some lot1, none, none, none],
              unmount := [] }
    engine := { bare.engine with limits := some lims }
    cure := { bare.cure with geometry := some geo, setpoint := 1000, output := 1000, zones := [warm, warm, warm] }
    io := { bare.io with seconds := 5000#32 } }

/-- A board of recipe 1, traveler 1. -/
def board : Traveler :=
  { tag := tagB1, recipe := 1, route := .full, stage := .queued, place := .present, inducted := 4000#32, claim := none,
    fiducial := none, sites := [], program := .notStarted, strokeCursor := 0, passCursor := 0,
    coat := { run := 0, skipped := 0, faults := 0, first := none }, lotsUsed := [none, none], sprayEnd := none,
    forced := false, lead := none, passDose := 0, lifeDose := 0, coverage := [.unchecked], holds := [],
    shelfSlot := none }

/-- `s` with traveler 1 as given. -/
def with1 (s : State) (r : Traveler) : State :=
  s.onTable fun b => { b with records := putNth b.records 1 (some r), free := b.free.drop 1, index := [(r.tag, 1)] }

def inMode (m : LineMode) (s : State) : State := s.onTable fun b => { b with mode := m }

/-- `s` in HALT on a request of link A. -/
def halted (s : State) : State :=
  s.onTable fun b => { b with mode := .halt, cause := some .request, detail := some (.link .a) }

/-- `s` with a sensor reading occupied. -/
def sees (x : Sensor) (s : State) : State :=
  s.onIo fun io => { io with sensors := io.sensors.set (Sensor.index x) { reading := true, run := 0 } }

/-- `s` with one entry on the transfer list, its deadline at `d`. -/
def moving (source dest : Place) (d : Seconds) (s : State) : State :=
  s.onTable fun b =>
    { b with transfers := [{ traveler := 1, source := source, dest := dest, deadline := some d }] }

/-- A hold on the mask sites, as it stands after a raise. -/
def heldBy (reason : HoldReason) (state : HoldState) (level : Nat) : Hold :=
  { reason := reason, state := state, raisedBy := .maskVerification, stage := .preInspect, stamp := 4500#32,
    level := level, detail := none, count := 1, releasedBy := none, releasedStamp := none }

/-- What a next state shows. -/
def after {α : Type} (o : Host.Outcome State Fault Refusal) (f : State → α) : Option α :=
  match o with
  | .next u => some (f u)
  | _ => none

/-- The outcome is a next state of which `p` holds. -/
def shows (o : Host.Outcome State Fault Refusal) (p : State → Bool) : Bool := (after o p).getD false

/-- The status words of the answers on a link's list. -/
def statuses (l : Link) (u : State) : List Status := (u.link l).answers.map (·.status)

/-! ### What WellFormed refuses -/

/-- A frame head, a text, a count or a byte, half-word or word field that no frame can carry. -/
theorem test_refuses_fields :
    (Instr.start { onA with level := 4 }).wellFormed = false ∧
      (Instr.induct onA (List.replicate 256 0x41#8) 1).wellFormed = false ∧
      (Instr.induct onA tagB1 256).wellFormed = false ∧
      (Instr.setOvenSpeed onA 65536).wellFormed = false ∧
      (Instr.putCureProfile onA 1 { prof with required := 4294967296 }).wellFormed = false ∧
      (Instr.postFiducials onA tagB1 0 32768 0).wellFormed = false ∧
      (Instr.postFiducials onA tagB1 0 0 (-32769)).wellFormed = false ∧
      (Instr.setGantryLimits onA { lims with xMax := 2147483648 }).wellFormed = false ∧
      (Instr.badFrame { onA with level := 256 } 1).wellFormed = false := by
  decide +kernel

/-- A record whose fields do not fit, and a list longer than a body. -/
theorem test_refuses_records :
    (Instr.openRecipe onA 1 { hdr with kind := 256 }).wellFormed = false ∧
      (Instr.putWindows onA 1 [{ win with thickness := 65536 }]).wellFormed = false ∧
      (Instr.putWindows onA 1 (List.replicate 171 win)).wellFormed = false ∧
      (Instr.putSites onA 1 [{ kind := 256, policy := 0, x := 0, y := 0 }]).wellFormed = false ∧
      (Instr.putStrokes onA 1 [⟨1, 1, 0, 0, 0, 40000, 100, 1, 0, 0, 0, 0⟩]).wellFormed = false ∧
      (Instr.putCureProfile onA 1 { prof with weights := [1, 2, 3] }).wellFormed = false ∧
      (Instr.putCureProfile onA 1 { prof with weights := List.replicate 16 256 }).wellFormed = false ∧
      (Instr.setHead onA 1 { headCfg with transit := 65536 }).wellFormed = false ∧
      (Instr.mountLot onA 1 ⟨[0x4C#8], 3, 4294967296, 0, 1, 0, 0⟩).wellFormed = false ∧
      (Instr.setTimeouts onA { Timeouts.reset with transfer := 256 }).wellFormed = false ∧
      (Instr.setOvenGeometry onA 4000 [65536] 100).wellFormed = false ∧
      (Instr.subscribe onA 0 [256]).wellFormed = false := by
  decide +kernel

/-- A word that another row or another constructor carries. -/
theorem test_refuses_other_rows :
    (Instr.getRecipe onA 1 4 1).wellFormed = false ∧ (Instr.releaseHold onA tagB1 14).wellFormed = false ∧
      (Instr.dispose onA tagB1 (.other 4)).wellFormed = false ∧
      (Instr.dispose onA tagB1 (.touchUp 1 256)).wellFormed = false := by
  decide +kernel

/-- An event that names what the part does not have. -/
theorem test_refuses_events :
    (Instr.lotExpiry 0).wellFormed = false ∧ (Instr.lotExpiry 5).wellFormed = false ∧
      (Instr.flashOverdue 49).wellFormed = false ∧ (Instr.transferEnd 0).wellFormed = false ∧
      (Instr.transferTimerExpiry 49).wellFormed = false ∧
      (Instr.samplingRound (List.replicate 7 ⟨true, true, false, 0⟩)).wellFormed = false ∧
      (Instr.sensorChange (.shelf 0) true).wellFormed = false ∧
      (Instr.sensorChange (.shelf 17) true).wellFormed = false ∧ (Instr.gantryFault 0).wellFormed = false := by
  decide +kernel

/-! ### Worked cases of the manual -/

/-- 06_dispense_arithmetic.md, worked case 1. -/
theorem test_dispense_case1 :
    dispense headCfg 240 20 60 strk win =
      { flow := 142, fan := 120, speed := 1183, mark := .unclamped, film := 100, verdict := .nominal, duration := 1268,
        passVolume := 180056, strokeVolume := 720224 } := by
  decide +kernel

/-- 06_dispense_arithmetic.md, worked case 2. -/
theorem test_dispense_case2 :
    dispense { headCfg with zMin := 50 } 240 20 60 { strk with height := 80 } { win with thickness := 50, tolerance := 15 } =
      { flow := 142, fan := 40, speed := 4000, mark := .clampedHigh, film := 89, verdict := .heavy, duration := 375,
        passVolume := 53250, strokeVolume := 213000 } := by
  decide +kernel

/-- 06_dispense_arithmetic.md, worked case 3: ages 0 and 239. -/
theorem test_dispense_case3 :
    dispense headCfg 240 20 0 strk win =
        { flow := 150, fan := 120, speed := 1250, mark := .unclamped, film := 100, verdict := .nominal,
          duration := 1200, passVolume := 180000, strokeVolume := 720000 } ∧
      dispense headCfg 240 20 239 strk win =
        { flow := 120, fan := 120, speed := 1000, mark := .unclamped, film := 100, verdict := .nominal,
          duration := 1500, passVolume := 180000, strokeVolume := 720000 } := by
  decide +kernel

/-- 03_material_lots_and_heads.md, worked example: ages 63 and 66. -/
theorem test_effective_flow_ages : effectiveFlow 150 240 20 63 = 142 ∧ effectiveFlow 150 240 20 66 = 141 := by decide +kernel

/-- 05_stroke_execution_in_the_spray_cell.md, worked example: distances from the park point, of 50 and 150, and of the
travel limits' diagonal. -/
theorem test_distances :
    distance ⟨50000, 20000, 3000⟩ ⟨50062, 20043, 1240⟩ = 1762 ∧ distance ⟨0, 0, 0⟩ ⟨50, 150, 0⟩ = 158 ∧
      distance ⟨50112, 20523, 1240⟩ ⟨50000, 20000, 3000⟩ = 1839 ∧ distance ⟨0, 0, 0⟩ ⟨100000, 60000, 5000⟩ = 116726 ∧
      ceilDiv 1762000 3000 = 588 ∧ ceilDiv 116726000 3000 = 38909 := by
  decide +kernel

/-- The same example: the passes of stroke 2 in the machine frame, the odd ones reversed. -/
theorem test_machine_passes :
    machinePasses { lims with origin := ⟨50000, 20000, 1000⟩ } (12, -7) strk =
      [(⟨50112, 20193, 1240⟩, ⟨51612, 20193, 1240⟩), (⟨51612, 20303, 1240⟩, ⟨50112, 20303, 1240⟩),
        (⟨50112, 20413, 1240⟩, ⟨51612, 20413, 1240⟩), (⟨51612, 20523, 1240⟩, ⟨50112, 20523, 1240⟩)] := by
  decide +kernel

/-- 07_flash_off_and_oven_admission.md, worked example: the ranges of boards A, B and C in an oven of 6000 mm. -/
theorem test_speed_ranges :
    let oven : OvenGeometry := { geo with length := 60000 }
    speedRange oven { hdr with dwellMin := 300, dwellMax := 420 } = some (858, 1200) ∧
      speedRange oven { hdr with dwellMin := 240, dwellMax := 330 } = some (1091, 1500) ∧
      speedRange oven { hdr with dwellMin := 420, dwellMax := 600 } = some (600, 857) := by
  decide +kernel

/-- 08_cure_dose_monitoring.md, worked example: the weights at 85, 105 and 125 °C over a base of 60 °C. -/
theorem test_band_weights :
    let p : Profile := { prof with base := 60, weights := [1, 2, 3, 4, 6, 8, 10, 12, 15, 18, 21, 24, 27, 30, 30, 30] }
    Profile.weight p 85 = 8 ∧ Profile.weight p 105 = 18 ∧ Profile.weight p 125 = 30 ∧ Profile.weight p 59 = 0 ∧ Profile.weight p 450 = 30 := by
  decide +kernel

/-- CRC-16 of 11.1 (polynomial 1021 hexadecimal from FFFF, most significant bit first) on the nine bytes "123456789":
29B1 hexadecimal, the published check value of that code. -/
theorem test_crc :
    crc16 [0x31#8, 0x32#8, 0x33#8, 0x34#8, 0x35#8, 0x36#8, 0x37#8, 0x38#8, 0x39#8] = 0x29B1#16 := by
  decide +kernel

/-! ### States that meet the hypotheses of the statements -/

theorem all_of {α : Type} {l : List (Option α)} {P : α → Prop} (h : ∀ o ∈ l, ∀ r ∈ o, P r) :
    ∀ r, some r ∈ l → P r :=
  fun r m => h _ m r rfl

/-- Only traveler 1 is live in `lab` with traveler 1 as given. -/
theorem gone1 (r : Traveler) {t : Nat} (h : t ≠ 1) : (with1 lab r).traveler t = none := by
  rcases t with _ | _ | n
  · rfl
  · exact absurd rfl h
  · have : (with1 lab r).traveler (n + 2) = (List.replicate 47 (none : Option Traveler))[n]?.join := rfl
    rw [this, List.getElem?_replicate]
    split <;> rfl

/-- A traveler read from `lab` with traveler 1 as given is that one. -/
theorem only1 {r x : Traveler} {t : Nat} (h : (with1 lab r).traveler t = some x) : x = r := by
  by_cases e : t = 1
  · subst e; exact (Option.some.inj h).symm
  · rw [gone1 r e] at h; exact absurd h nofun

/-- Free list, tag index and records of `lab` with traveler 1 agree. -/
theorem index1 (r : Traveler) : (with1 lab r).IndexOk := by
  have free : (with1 lab r).table.free = List.range' 2 47 := rfl
  have here : (with1 lab r).traveler 1 = some r := rfl
  refine ⟨rfl, by rw [free]; decide +kernel, fun t => ?_, by simp [with1, State.onTable], fun tag t => ?_⟩
  · rw [free, List.mem_range'_1]
    by_cases h : t = 1
    · subst h; simp [here]
    · simp [gone1 r h, Config.travelerCount]; omega
  · show (tag, t) ∈ [(r.tag, 1)] ↔ _
    by_cases h : t = 1
    · subst h; simp [here, eq_comm]
    · simp [gone1 r h, h]

/-- `s` with the queue, the head of it traveler 1. -/
def queued (s : State) : State := s.onTable fun b => { b with queue := [1] }

theorem witness_IdleQueuesMoveOrTicks :
    let x := lab.onIo fun io =>
      { io with ms := 999, sensors := io.sensors.set 23 { reading := false, run := 19 },
                inputs := { io.inputs with sensors := io.inputs.sensors.set 23 true } }
    let y := x.onIo fun io => { io with ms := 0, sensors := io.sensors.set 23 { reading := true, run := 18 } }
    ((queued (inMode .run (with1 lab board))).pending = [] ∧
        (queued (inMode .run (with1 lab board))).nextMove = some .queueRelease) ∧
      (x.pending = [] ∧ x.nextMove = none ∧ x.byteDue = none ∧ x.io.inputs.pulses = 0 ∧ x.io.inputs.clock = true) ∧
      (let z := x.onIo fun io => { io with inputs := { io.inputs with clock := false } }
       z.pending = [] ∧ z.io.inputs.clock = false ∧ z.nextMove = none ∧ z.byteDue = none ∧ z.io.inputs.pulses = 0) ∧
      (Sensor.exists? (.shelf 16) = true ∧ x.io.sensors[Sensor.index (.shelf 16)]? = some ⟨false, 19⟩ ∧
        x.io.inputs.sensors[Sensor.index (.shelf 16)]? = some true) ∧
      (y.pending = [] ∧ y.nextMove = none ∧ y.byteDue = none ∧ y.io.inputs.pulses = 0 ∧ y.io.inputs.clock = true ∧
        y.io.sensors[Sensor.index (.shelf 16)]? = some ⟨true, 18⟩ ∧
        y.io.inputs.sensors[Sensor.index (.shelf 16)]? = some true ∧
        y.io.sensors[Sensor.index (.shelf 15)]? = some ⟨false, 0⟩ ∧ Sensor.exists? (.shelf 1) = true) := by
  decide +kernel

theorem witness_ResetLatchesStraps :
    (∀ p, Instr.blinkToggle ≠ .powerOnReset p ∧ Instr.blinkToggle ≠ .resetPin p) ∧ ∃ u, exec .blinkToggle lab = .next u :=
  ⟨fun _ => ⟨nofun, nofun⟩, _, rfl⟩

theorem witness_ResetLeavesGivenValues : ∃ p i, (i = Instr.powerOnReset p ∨ i = .resetPin p) ∧ p.hds = false :=
  ⟨⟨true, false, false, true, true, true, false, false, true⟩, .resetPin _, .inr rfl, rfl⟩

/-- A line with a board in the infeed queue, and its step, for the StepKeeps statements. -/
theorem witness_StepKeeps :
    let s := queued (inMode .run (with1 lab { board with passDose := 7, lifeDose := 9 }))
    let s := s.onIo fun io => { io with outputs := { io.outputs with green := .steady } }
    s.LinksOk ∧ s.BeltOk ∧ s.HaltOk ∧ s.LampsOk ∧ s.VolumesOk ∧ s.DosesOk ∧ s.QueueOk ∧ s.Shaped ∧ s.RangeOk ∧
      s.IndexOk ∧ s.HoldsOk ∧ ∃ u, step s = .next u :=
  ⟨fun l => by cases l <;> (unfold LinkState.Ok; decide +kernel), by unfold State.BeltOk; decide +kernel, trivial,
    by unfold State.LampsOk; decide +kernel, all_of (by decide +kernel), all_of (by decide +kernel),
    by unfold State.QueueOk; decide +kernel, by unfold State.Shaped; decide +kernel,
    by unfold State.RangeOk; decide +kernel, index1 _, all_of (by unfold HoldsInOrder; decide +kernel), _, rfl⟩

/-- A queue of three, the last record free, the last slot READY. -/
def nearlyFull : State :=
  { lab with
    table := { lab.table with free := [48], queue := [1, 2, 3] }
    recipes := { lab.recipes with slots := putNth lab.recipes.slots 8 slot1 } }

theorem witness_InductCreatesOrRefuses :
    (lab.Takes onB 1 ∧ lab.mode ≠ .drain ∧ tagForm tagB1 = true ∧ nth lab.recipes.slots 1 = some slot1 ∧
      slot1.state = .ready ∧ lab.tagged tagB1 = none ∧ lab.table.free = 1 :: List.range' 2 47 ∧ lab.occupancy < 4) ∧
    (nearlyFull.Takes onB 1 ∧ nth nearlyFull.recipes.slots 8 = some slot1 ∧ nearlyFull.tagged tagB1 = none ∧
      nearlyFull.table.free = [48] ∧ nearlyFull.occupancy = 3 ∧ nearlyFull.table.records.length = 48) ∧
    ((inMode .drain lab).Takes onB 1 ∧ (inMode .drain lab).mode = .drain) ∧
    (tagForm [] = false ∧ tagForm (List.replicate 16 33#8) = true ∧ tagForm (List.replicate 17 33#8) = false) ∧
    ((with1 lab board).Takes onB 1 ∧ (with1 lab board).tagged tagB1 = some (1, board)) ∧
    (nth lab.recipes.slots 2 = some emptySlot ∧ emptySlot.state ≠ .ready) ∧
    (let s := { lab with table := { lab.table with free := [] } }
     s.Takes onB 1 ∧ s.mode ≠ .drain ∧ s.tagged tagB1 = none ∧ nth s.recipes.slots 1 = some slot1) ∧
    (let s := { lab with table := { lab.table with queue := [1, 2, 3, 4] } }
     s.Takes onB 1 ∧ s.tagged tagB1 = none ∧ nth s.recipes.slots 1 = some slot1 ∧ s.occupancy = 4) := by
  decide +kernel

theorem witness_StartAndDrainSetMode :
    (lab.Takes onB 1 ∧ lab.mode = .idle ∧ lab.io.estop = false ∧ lab.cure.geometry ≠ none ∧ lab.engine.limits ≠ none ∧
      lab.mask.pre = none) ∧
    ((inMode .drain lab).Takes onB 1 ∧ (inMode .drain lab).mode = .drain) ∧
    (let s := lab.onIo fun io => { io with estop := true }
     s.Takes onB 1 ∧ s.mode = .idle ∧ s.io.estop = true) ∧
    (bare.Takes onB 1 ∧ bare.mode = .idle ∧ bare.io.estop = false ∧ bare.cure.geometry = none) ∧
    ((halted lab).Takes onB 1 ∧ (halted lab).mode = .halt) ∧
    (let s := inMode .run (with1 lab { board with stage := .spray })
     s.Takes onB 1 ∧ s.mode = .run ∧ s.mask.pre = none ∧ s.lineEmpty = false) ∧
    (let s := inMode .run (with1 lab board)
     s.Takes onB 1 ∧ s.mode = .run ∧ s.mask.pre = none ∧ s.lineEmpty = true) := by
  decide +kernel

theorem witness_StartAndDrainSetMode_complete :
    (inMode .drain (with1 lab { board with stage := .shelved })).mode = .drain ∧
      ∀ t r, (with1 lab { board with stage := .shelved }).traveler t = some r → r.stage = .queued ∨ r.stage = .shelved :=
  ⟨rfl, fun _ _ h => Or.inr (by rw [only1 h])⟩

theorem witness_HaltEntriesStopLine :
    let e : Transfer := { traveler := 1, source := .queue, dest := .preStation, deadline := some 5000#32 }
    let s := moving .queue .preStation 5000#32 (inMode .run (with1 lab { board with stage := .preInspect }))
    let w := s.onEngine fun x => { x with port := awaitingAnswer lab .stop ⟨0, 0, 0⟩ 10 }
    (s.Takes onC 2 ∧ s.mode ≠ .halt ∧ (halted s).Takes onC 2 ∧ (halted s).mode = .halt) ∧
    (s.transferOf 1 = some e ∧ e.deadline = some 5000#32 ∧ reached s.io.seconds 5000#32 = true ∧
      (halted s).transferOf 1 = some e) ∧
    (s.onIo fun io => { io with estopHanded := true }).io.estopHanded = true ∧
    w.engine.port = .waiting { message := .stop, target := some ⟨0, 0, 0⟩, budget := 510, elapsed := 0 } := by
  decide +kernel

theorem witness_RecoverLeavesHalt :
    let m := halted (moving .queue .preStation 5000#32 (with1 lab { board with stage := .preInspect, place := .arriving }))
    let e : Transfer := { traveler := 1, source := .queue, dest := .preStation, deadline := some 5000#32 }
    let o := halted (moving .postStation .outfeed 5000#32 (with1 lab { board with stage := .postInspect }))
    ((halted lab).Takes onB 1 ∧ (halted lab).mode = .halt ∧ (halted lab).io.estop = false ∧
      (halted lab).table.transfers = [] ∧ (halted lab).mask.post = none ∧ (halted lab).engine.port = .quiet ∧
      (halted lab).engine.cell = .vacant ∧ (halted lab).cure.oven = []) ∧
    (lab.Takes onB 1 ∧ lab.mode ≠ .halt) ∧
    (let s := (halted lab).onIo fun io => { io with estop := true }
     s.Takes onB 1 ∧ s.mode = .halt ∧ s.io.estop = true) ∧
    (m.Takes onB 1 ∧ m.mode = .halt ∧ m.io.estop = false ∧ m.table.transfers = [e] ∧
      m.traveler 1 = some { board with stage := .preInspect, place := .arriving } ∧ m.mask.post = none) ∧
    ((sees .preArrival m).occupied e.dest.sensor = true ∧ e.dest ≠ .outfeed) ∧
    ((sees .queueHead m).occupied e.dest.sensor = false ∧ (sees .queueHead m).occupied e.source.sensor = true) ∧
    (m.occupied e.dest.sensor = false ∧ m.occupied e.source.sensor = false) ∧
    (o.Takes onB 1 ∧ (sees .outfeedExit o).occupied (Place.sensor .outfeed) = true) := by
  decide +kernel

theorem witness_ClearLineEmptiesLine :
    (lab.Takes onA 0 ∧ lab.mode = .idle) ∧ ((halted lab).Takes onA 0 ∧ (halted lab).mode = .halt) ∧
      ((inMode .run lab).Takes onA 0 ∧ (inMode .run lab).mode = .run) ∧
      ((inMode .drain lab).Takes onA 0 ∧ (inMode .drain lab).mode = .drain) := by
  decide +kernel

theorem witness_ReadingsAnswerAndChangeNothing :
    let q : Req := { onC with level := 3 }
    let s := with1 lab board
    s.Takes q 3 ∧ max (s.strapped q.link) q.level = 3 ∧ (tagForm tagB1 = true ∧ s.tagged tagB1 = some (1, board)) ∧
      (tagForm tagB2 = true ∧ s.tagged tagB2 = none) ∧ tagForm [32#8] = false ∧
      nth s.recipes.slots 8 = some emptySlot ∧ nth s.recipes.slots 1 = some slot1 ∧
      nth s.recipes.profiles 1 = some (some prof) ∧ nth s.recipes.profiles 4 = some none := by
  decide +kernel

theorem witness_GetConfigReportsAll : (halted lab).Takes { onC with level := 3 } 3 := by decide +kernel

/-- A DONE board in the cell. -/
def doneBoard : Traveler := { board with stage := .spray, program := .done, sprayEnd := some 4401#32 }

def cellDone : State := (inMode .run (with1 lab doneBoard)).onEngine fun e => { e with cell := .done, board := some 1 }

/-- The board of `cellDone` past its flash maximum, and a second board, traveler 48, waiting in FLASH. -/
def dueBoard : Traveler := { doneBoard with sprayEnd := some 4400#32 }

def waitingBoard (e : Seconds) : Traveler := { dueBoard with tag := tagB2, stage := .flash, sprayEnd := some e }

/-- The board of `cellDone` past its flash maximum, and traveler 48 in FLASH, at its flash maximum, with a hold that counts. -/
def twoLate : State :=
  ((inMode .run (with1 lab dueBoard)).onEngine fun e => { e with cell := .done, board := some 1 }).setTraveler 48
    { waitingBoard 4400#32 with holds := [heldBy .flashOverdue .isOpen 1] }

theorem twoLate_others {k : Nat} (h1 : k ≠ 1) (h2 : k ≠ 48) : twoLate.traveler k = none :=
  (congrArg Option.join (nth_putNth_other _ 48 k _ h2)).trans (gone1 _ h1)

/-- At the start of a transfer into the flash belt: no board late, and travelers 1, which starts, and 48 late. -/
theorem witness_IndexingTransfersStart_flash :
    let due (s : State) (y : Traveler) : Prop := y.route ≠ .reCure ∧ ∃ h e, (s.recipeOf y).header = some h ∧
      y.sprayEnd = some e ∧ h.flashMax ≤ (s.io.seconds - e).toNat
    let late (s : State) (r : Traveler) (k : Nat) : Prop := 1 ≤ k ∧ k ≤ 48 ∧
      ∃ y, (if k = 1 then some { r with stage := .flash, place := .arriving } else s.traveler k) = some y ∧
        y.stage = .flash ∧ (k = 1 ∨ k ∉ s.cure.overdue) ∧ due s y
    (∀ k, k ∈ ([] : List Nat) ↔ late cellDone doneBoard k) ∧
    (twoLate.engine.cell = .done ∧ twoLate.engine.board = some 1 ∧ twoLate.traveler 1 = some dueBoard ∧
      dueBoard.stage = .spray ∧ dueBoard.place = .present ∧ twoLate.table.transfers = [] ∧ twoLate.mode ≠ .halt ∧
      twoLate.flashCount < 4 ∧ twoLate.occupied .flashEntry = false ∧ twoLate.leaving 48 = false) ∧
    (∀ k, k ∈ [1, 48] ↔ late twoLate dueBoard k) := by
  refine ⟨fun k => ⟨fun h => by simp at h, fun h => ?_⟩, by decide +kernel, fun k => ⟨fun h => ?_, fun h => ?_⟩⟩
  · obtain ⟨_, _, y, hy, _, _, _, h, e, hh, he, ht⟩ := h
    by_cases h1 : k = 1
    · rw [if_pos h1] at hy
      cases hy; cases hh; cases he
      exact absurd ht (by decide +kernel)
    · rw [if_neg h1, show cellDone.traveler k = none from gone1 _ h1] at hy
      cases hy
  · rcases List.mem_cons.1 h with rfl | h
    · exact ⟨by decide, by decide, _, rfl, rfl, .inl rfl, by decide +kernel, hdr, 4400#32, by decide +kernel, rfl,
        by decide +kernel⟩
    · obtain rfl : k = 48 := by simpa using h
      exact ⟨by decide, by decide, { waitingBoard 4400#32 with holds := [heldBy .flashOverdue .isOpen 1] },
        by decide +kernel, rfl, .inr (by decide +kernel), by decide +kernel, hdr, 4400#32, by decide +kernel, rfl,
        by decide +kernel⟩
  · obtain ⟨_, _, y, hy, _⟩ := h
    by_cases h1 : k = 1
    · simp [h1]
    · by_cases h2 : k = 48
      · simp [h2]
      · rw [if_neg h1, twoLate_others h1 h2] at hy
        cases hy

theorem witness_IndexingTransfersStart :
    let s := queued (inMode .run (with1 lab board))
    let x := (inMode .drain (with1 lab { board with stage := .ovenExit })).onCure fun c => { c with exit := [1] }
    let flash3 := cellDone.onCure fun c => { c with flash := [2, 3, 4] }
    (s.mode = .run ∧ s.table.queue = [1] ∧ s.traveler 1 = some board ∧ board.place = .present ∧
      s.vacant .preStation = true ∧ s.named .queue = false ∧ (∀ e ∈ s.table.transfers, e.traveler ≠ 1) ∧
      s.occupied .preArrival = false) ∧
    ((inMode .idle s).mode ≠ .run ∧ lab.table.queue = [] ∧
      (with1 lab { board with stage := .preInspect }).vacant .preStation = false) ∧
    (flash3.engine.cell = .done ∧ flash3.engine.board = some 1 ∧ flash3.traveler 1 = some doneBoard ∧
      doneBoard.stage = .spray ∧ doneBoard.place = .present ∧ flash3.table.transfers = [] ∧ flash3.mode ≠ .halt ∧
      flash3.flashCount = 3 ∧ flash3.occupied .flashEntry = false ∧ (flash3.recipeOf doneBoard).header = some hdr ∧
      (flash3.io.seconds - 4401#32).toNat = 599 ∧ hdr.flashMax = 600) ∧
    ((cellDone.onCure fun c => { c with flash := [2, 3, 4, 5] }).flashCount = 4 ∧ lab.engine.cell ≠ .done) ∧
    (x.mode ≠ .halt ∧ x.cure.exit = [1] ∧ x.traveler 1 = some { board with stage := .ovenExit } ∧
      x.vacant .postStation = true ∧ x.named .accumulator = false ∧ x.table.transfers = [] ∧
      x.occupied .postArrival = false) ∧
    (lab.cure.exit = [] ∧ (with1 lab { board with stage := .postInspect }).vacant .postStation = false) := by
  decide +kernel

/-- A board on its way to each kind of destination, the sensor there reading occupied. -/
theorem witness_TransferEndsAtSensor :
    [(Place.queue, Place.preStation), (.preStation, .cell), (.cell, .flashBelt), (.accumulator, .postStation),
      (.preStation, .shelf 1), (.postStation, .shelf 16), (.postStation, .outfeed)].all (fun p =>
        let r : Traveler := { board with stage := p.2.stage, place := .arriving }
        let s := sees p.2.sensor (moving p.1 p.2 5008#32 (inMode .run (with1 lab r)))
        s.transferOf 1 = some { traveler := 1, source := p.1, dest := p.2, deadline := some 5008#32 } ∧
          s.traveler 1 = some r ∧ s.mode ≠ .halt ∧ s.occupied p.2.sensor = true ∧ s.mask.pre = none ∧
          r.route ≠ .reCure ∧ s.holds.shelf.length = 16) = true ∧
    (moving .queue .preStation 5008#32 (with1 lab board)).occupied .preArrival = false ∧
    (halted (moving .queue .preStation 5008#32 (with1 lab board))).mode = .halt := by
  decide +kernel

/-- A LOADING slot 1 of `lab` with the lists given. -/
def loading (ws : List Window) (ks : List Stroke) : RecipeSlot :=
  { slot1 with state := .loading, windows := ws, strokes := ks }

def labLoading (ws : List Window) (ks : List Stroke) : State :=
  lab.onRecipes fun x => { x with slots := putNth x.slots 1 (loading ws ks) }

theorem witness_RecipeOpensAndValidates :
    (lab.Takes onA 0 ∧ firstAtFault (headerChecks 1 hdr) = none ∧ firstAtFault (headerChecks 8 hdr) = none ∧
      nth lab.recipes.slots 1 = some slot1 ∧ slot1.state ≠ .loading ∧ slot1.useCount = 0) ∧
    (nth (labLoading [] []).recipes.slots 1 = some (loading [] [])) ∧
    (nth (lab.onRecipes fun x => { x with slots := putNth x.slots 8 { slot1 with useCount := 1 } }).recipes.slots 8 =
      some { slot1 with useCount := 1 }) ∧
    (let x := loading [{ win with x0 := 100, y0 := 200, x1 := 1600, y1 := 530 }] [strk]
     let s := labLoading [{ win with x0 := 100, y0 := 200, x1 := 1600, y1 := 530 }] [strk]
     s.Takes onA 0 ∧ nth s.recipes.slots 1 = some x ∧ x.state = .loading ∧ x.header = some hdr ∧ x.sites = [] ∧
       strk.head ≤ s.lots.heads.length ∧ strk.window = 1 ∧ strk.startX ≠ strk.endX ∧
       nth s.lots.heads 1 = some (some headCfg) ∧ headCfg.zMin ≤ strk.height ∧ strk.height ≤ headCfg.zMax ∧
       (List.range 4).all (fun n =>
         (100 : Int) ≤ strk.startX + n * strk.stepX ∧ strk.startX + n * strk.stepX ≤ 1600 ∧
         200 ≤ strk.startY + n * strk.stepY ∧ strk.startY + n * strk.stepY ≤ 530 ∧
         strk.endX + n * strk.stepX ≤ 1600 ∧ strk.endY + n * strk.stepY ≤ 530) = true) ∧
    ((labLoading [] []).Takes onA 0 ∧ (loading [] []).windows = [] ∧ (loading [win] []).windows ≠ [] ∧
      (loading [win] []).strokes = []) := by
  decide +kernel

/-- Slot 1 of `lab` with the contents given; a LOADING slot of one site at the far corner of the board. -/
def labSlot (x : RecipeSlot) : State := lab.onRecipes fun y => { y with slots := putNth y.slots 1 x }

def corner : MaskSite := ⟨.boot, .required, 2000, 1500⟩

theorem labSlot_loads (x : RecipeSlot) : (labSlot x).Takes onA 0 ∧ nth (labSlot x).recipes.slots 1 = some x :=
  ⟨show lab.Takes onA 0 by decide +kernel, rfl⟩

/-- Every cause of R32 met at its boundary, behind records that pass: what FINISH_RECIPE answers. -/
theorem witness_RecipeOpensAndValidates_causes :
    let with3 (ws : List Window) (ys : List MaskSite) (ks : List Stroke) : RecipeSlot := { loading ws ks with sites := ys }
    ([ (with3 [win, { win with x1 := 2001 }] [corner] [strk], 1, 2, 2),
       (with3 [win, { win with mask := 2 }] [corner] [strk], 1, 2, 3),
       (with3 [win] [corner, { corner with y := 1501 }] [strk], 2, 2, 2),
       (with3 [win] [corner] [strk, { strk with head := 3 }], 3, 2, 4),
       (with3 [win] [corner] [strk, { strk with window := 2 }], 3, 2, 5),
       (with3 [win] [corner] [{ strk with window := 0, valveOn := false }, { strk with window := 0 }], 3, 2, 6),
       (with3 [win] [corner] [strk, { strk with height := 301 }], 3, 2, 7),
       (with3 [win] [corner] [strk, { strk with endX := 100 }], 3, 2, 8),
       (with3 [{ win with mask := 1, y1 := 529 }] [corner] [strk], 3, 1, 9) ] :
        List (RecipeSlot × Nat × Nat × Nat)).all (fun c =>
      c.1.state = .loading ∧ c.1.header = some hdr ∧ c.1.windows ≠ [] ∧ c.1.strokes ≠ [] ∧
        shows (exec (.finishRecipe onA 1) (labSlot c.1)) (fun u =>
          (u.link .a).answers.map (fun a => (a.status, a.fields)) =
              [(.invalid, [.word c.2.1, .int 1 c.2.2.1, .word c.2.2.2])] ∧
            nth u.recipes.slots 1 = some emptySlot)) = true := by
  decide +kernel

theorem witness_PutRecordsAppendOrRefuse :
    let x := loading (List.replicate 15 win) (List.replicate 95 strk)
    let s := labLoading (List.replicate 15 win) (List.replicate 95 strk)
    let site : SiteFields := { kind := 2, policy := 1, x := -32768, y := 32767 }
    let k : StrokeFields := ⟨2, 16, 0, 0, 5, 0, 30, 64, 0, 0, 1, 1⟩
    (s.Takes onA 0 ∧ nth s.recipes.slots 1 = some x ∧ x.state = .loading) ∧
    (Window.form win = true ∧ x.windows.length + [win].length = 16) ∧
    ((List.replicate 8 site).map SiteFields.read = (List.replicate 8 ⟨.liquid, .skippable, -32768, 32767⟩).map some ∧
      x.sites.length + 8 ≤ 12) ∧
    ([k].map StrokeFields.read = [(⟨2, 16, 0, 0, 5, 0, 30, 64, 0, 0, false, false⟩ : Stroke)].map some ∧
      x.strokes.length + 1 = 96) ∧
    (nth lab.recipes.slots 8 = some emptySlot ∧ emptySlot.state ≠ .loading) ∧
    (Window.form { win with x1 := 0 } = false ∧ Window.form { win with thickness := 9 } = false) ∧
    x.windows.length + [win, win].length = 17 := by
  decide +kernel

theorem witness_DropRecipeEmptiesSlot :
    let s := lab.onRecipes fun x => { x with slots := putNth x.slots 8 { slot1 with useCount := 1 } }
    s.recipes.slots.length = 8 ∧ (s.Takes onB 3 ∧ max (s.strapped .b) 0 = 1) ∧ s.Takes onA 0 ∧
      nth s.recipes.slots 8 = some { slot1 with useCount := 1 } ∧ nth s.recipes.slots 1 = some slot1 ∧
      slot1.useCount = 0 ∧
      (let u : State := lab.onRecipes fun x => { x with slots := putNth x.slots 1 emptySlot }
       u.Takes onB 1 ∧ u.mode ≠ .drain ∧ u.tagged tagB1 = none ∧ u.Takes onA 0) := by
  decide +kernel

/-- A board in the oven, of the recipe that names profile 1. -/
def inOven : Traveler := { board with stage := .cure, sprayEnd := some 4401#32, lead := some 6000 }

theorem witness_CureProfileLoadedAndDropped :
    (lab.Takes onA 0 ∧ lab.recipes.profiles.length = 4 ∧ firstAtFault (profileChecks 1 prof) = none ∧
      firstAtFault (profileChecks 4 prof) = none) ∧
    (¬ ∃ t r h, (with1 lab board).traveler t = some r ∧
      (r.stage = .flash ∨ r.stage = .cure ∨ r.stage = .ovenExit) ∧
      ((with1 lab board).recipeOf r).header = some h ∧ h.profile = 1) ∧
    (∃ t r h, (with1 lab inOven).traveler t = some r ∧ (r.stage = .flash ∨ r.stage = .cure ∨ r.stage = .ovenExit) ∧
      ((with1 lab inOven).recipeOf r).header = some h ∧ h.profile = 1) :=
  ⟨by decide +kernel,
    fun ⟨t, r, _, h, hs, _⟩ => by rw [only1 h] at hs; revert hs; decide,
    1, inOven, hdr, rfl, .inr (.inl rfl), rfl, rfl⟩

theorem witness_ConfigurationReplacedWhole :
    let run := lab.onEngine fun e => { e with cell := .running }
    (lab.Takes onA 0 ∧ firstAtFault (headChecks lab.lots.heads.length 2 headCfg) = none ∧
      headCfg.zMin ≤ headCfg.zMax ∧ headCfg.fanMin ≤ headCfg.fanMax ∧ headCfg.vMin ≤ headCfg.vMax ∧
      lab.engine.cell ≠ .running) ∧
    (run.Takes onA 0 ∧ run.engine.cell = .running) ∧
    (firstAtFault (gantryChecks lims) = none ∧
      (({ lims with xMax := -1000000, xMin := -1000000 } : GantryLimits).xMax ≤ -1000000)) ∧
    ([1, 2, 4000].length = lab.io.straps.zones ∧ [0, 1, 2, 4000].Pairwise (· < ·) ∧ [1, 2, 4000].getLast? = some 4000 ∧
      [4000].length ≠ lab.io.straps.zones) ∧
    (∀ k : HoldReason, k = .operator → k.code = 13) ∧ lab.holds.levels.length = 14 ∧
    ([ { headCfg with zMin := 301 }, { headCfg with fanMin := 251 }, { headCfg with vMin := 4001 } ] : List HeadConfig).map
        (fun c => (firstAtFault (headChecks 2 1 c), firstAtFault (headPairs c))) =
      [(none, some 0), (none, some 1), (none, some 2)] ∧
    (firstAtFault (headChecks 2 3 headCfg) = some 0 ∧ firstAtFault (headChecks 2 2 { headCfg with transit := 8001 }) = some 10 ∧
      firstAtFault (gantryChecks { lims with park := ⟨0, 0, 1001⟩ }) = some 11 ∧
      firstAtFault (geometryChecks 3 999 [1, 2, 4000] 500) = some 0 ∧
      firstAtFault (geometryChecks 3 4000 [1, 2, 4000] 501) = some 2 ∧
      firstAtFault (timeoutChecks { Timeouts.reset with transfer := 31 }) = some 0 ∧
      firstAtFault (timeoutChecks { Timeouts.reset with pre := 1, post := 1 }) = some 1) := by
  refine ⟨by decide +kernel, by decide +kernel, by decide +kernel, by decide +kernel, ?_, by decide +kernel,
    by decide +kernel, by decide +kernel⟩
  rintro k rfl
  rfl

/-- The oven free of boards between FLASH and OVEN_EXIT, and with one in CURE. -/
theorem witness_ConfigurationReplacedWhole_oven :
    (∀ t r, (with1 lab board).traveler t = some r → r.stage ≠ .flash ∧ r.stage ≠ .cure ∧ r.stage ≠ .ovenExit) ∧
      (with1 lab inOven).traveler 1 = some inOven ∧ inOven.stage = .cure :=
  ⟨fun _ _ h => by rw [only1 h]; decide, rfl, rfl⟩

def lotReq : LotFields := { id := [0x4D#8], kind := 15, charge := 1000, age := 0, potLife := 60, derate := 50, lowLimit := 0 }

/-- The lot table of `lab` with nothing on head 1 and its records as given. -/
def lotsOf (l : List (Option Lot)) (order : List Nat) : State :=
  lab.onLots fun b => { b with map := [none, none], records := l, unmount := order }

def gone (id : Byte) : Lot := { lot1 with id := [id], state := .unmounted }

theorem witness_LotsMountAndUnmount :
    let again := lotsOf [some lot1, some (gone 0x4D#8), none, none] [2]
    let fresh := lotsOf [some lot1, none, none, none] []
    let oldest := lotsOf [some lot1, some (gone 0x4E#8), some (gone 0x4F#8), some (gone 0x50#8)] [4, 2, 3]
    (lab.Takes onC 2 ∧ firstAtFault (lotChecks lab.lots.heads.length 2 lotReq) = none ∧ lab.engine.cell ≠ .running) ∧
    (nth again.lots.map 1 = some none ∧ (∀ o ∈ again.lots.records, ∀ x ∈ o, x.id = lotReq.id → x.state = .unmounted) ∧
      nth again.lots.records 2 = some (some (gone 0x4D#8)) ∧ (gone 0x4D#8).id = lotReq.id ∧
      nth again.lots.records 1 = some (some lot1) ∧ lot1.id ≠ lotReq.id) ∧
    ((∀ o ∈ fresh.lots.records, ∀ x ∈ o, x.id ≠ lotReq.id) ∧ nth fresh.lots.records 2 = some none ∧
      nth fresh.lots.records 1 ≠ some none) ∧
    ((∀ o ∈ oldest.lots.records, ∀ x ∈ o, x.id ≠ lotReq.id) ∧ none ∉ oldest.lots.records ∧
      oldest.lots.unmount.head? = some 4) ∧
    (nth lab.lots.map 1 = some (some 1) ∧ firstAtFault (lotChecks 2 1 lotReq) = none) ∧
    (nth lab.lots.map 2 = some none ∧ some lot1 ∈ lab.lots.records ∧ lot1.state ≠ .unmounted ∧
      firstAtFault (lotChecks 2 2 { lotReq with id := lot1.id }) = none) ∧
    ((lab.onEngine fun e => { e with cell := .running }).Takes onC 2 ∧ lab.lots.heads.length = 2 ∧
      nth lab.lots.records 1 = some (some lot1)) := by
  decide +kernel

/-- R46's order of judging: each request breaks the field named and every one judged after it. -/
theorem witness_LotsMountAndUnmount_fields :
    ([ ({ lotReq with potLife := 9, derate := 51, age := 1440, lowLimit := 4000001 }, 5),
       ({ lotReq with derate := 51, age := 60, lowLimit := 4000001 }, 6),
       ({ lotReq with age := 60, lowLimit := 4000001 }, 4),
       ({ lotReq with age := 59, lowLimit := 4000001 }, 7) ] : List (LotFields × Nat)).all (fun c =>
      nameForm 12 c.1.id ∧ 1 ≤ c.1.kind ∧ c.1.kind ≤ 15 ∧ 1 ≤ c.1.charge ∧ c.1.charge ≤ 4000000 ∧
        shows (exec (.mountLot onC 2 c.1) lab) (fun u =>
          (u.link .c).answers.map (fun a => (a.status, a.fields)) = [(.invalid, [.word c.2])])) = true := by
  decide +kernel

theorem witness_ExpiryActsOnce :
    let old : Lot := { lot1 with mixStamp := 5000 - 14400 }
    let r : Traveler := { board with stage := .flash, sprayEnd := some 4400#32 }
    let s := with1 lab r
    (nth (lotsOf [none, none, none, some old] []).lots.records 4 = some (some old) ∧ old.state = .mounted ∧
      (old.potLife : Int) * 60 = (lab.io.seconds.toNat : Int) - old.mixStamp) ∧
    (nth lab.lots.records 1 = some (some lot1) ∧ (lab.io.seconds.toNat : Int) - lot1.mixStamp < (lot1.potLife : Int) * 60) ∧
    (s.traveler 1 = some r ∧ (s.recipeOf r).header = some hdr ∧ r.route ≠ .reCure ∧ 1 ∉ s.cure.overdue ∧
      hdr.flashMax = (s.io.seconds - 4400#32).toNat ∧ s.leaving 1 = false ∧ r.holds = []) ∧
    HoldsInOrder [heldBy .flashOverdue .released 1, heldBy .underCure .isOpen 1] ∧
    (s.io.seconds - 4401#32).toNat < hdr.flashMax := by
  unfold HoldsInOrder
  decide +kernel

/-! Inspections and diverters. -/

def inspecting : Inspection := { traveler := 1, phase := .isOpen, opened := 4990#32, deadline := some 5020#32 }

def ended : Inspection := { inspecting with phase := .ended .completed, deadline := none }

/-- `r` standing at a station whose record is `i`. -/
def station (x : Station) (i : Inspection) (r : Traveler) : State := (with1 lab r).setRecord x (some i)

def atPre : Traveler := { board with stage := .preInspect, claim := some .c, sites := [.unchecked, .unchecked] }

def atPost : Traveler := { board with stage := .postInspect, claim := some .c, coverage := [.covered] }

theorem witness_ClaimsAndPostsSetFields :
    (let r : Traveler := { atPre with claim := none }
     let s := station .pre inspecting r
     s.Takes onC 2 ∧ tagForm tagB1 = true ∧ s.tagged tagB1 = some (1, r) ∧ s.record .pre = some inspecting ∧
       inspecting.traveler = 1 ∧ inspecting.phase = .isOpen ∧ r.stage = stationStage .pre ∧ r.place = .present ∧
       s.record .post = none) ∧
    ((station .pre inspecting { atPre with claim := some .a }).tagged tagB1 =
        some (1, { atPre with claim := some .a }) ∧ Link.a ≠ onC.link) ∧
    ((station .pre inspecting atPre).Takes onC 2 ∧ (station .pre inspecting atPre).tagged tagB1 = some (1, atPre) ∧
      atPre.claim = some onC.link ∧ (station .pre inspecting atPre).stationOf 1 = some .pre ∧
      SiteVerdict.ofCode 4 = some .notFitted ∧ atPre.sites.length = 2 ∧ CoverageVerdict.ofCode 3 = some .splash) ∧
    ((station .post inspecting atPost).Takes onC 2 ∧ (station .post inspecting atPost).tagged tagB1 = some (1, atPost) ∧
      atPost.claim = some onC.link ∧ (station .post inspecting atPost).stationOf 1 = some .post ∧
      atPost.coverage.length = 1) ∧
    (let r : Traveler := { atPost with claim := some .a }
     (station .post inspecting r).tagged tagB1 = some (1, r) ∧ r.claim ≠ some onC.link) := by
  decide +kernel

theorem witness_ClaimsAndPostsSetFields_refused :
    (tagForm [] = false ∧ lab.Takes onC 2 ∧ lab.tagged tagB1 = none ∧ SiteVerdict.ofCode 0 = none ∧
      CoverageVerdict.ofCode 4 = none) ∧
    ((station .pre ended atPre).tagged tagB1 = some (1, atPre) ∧ (station .pre ended atPre).record .pre = some ended ∧
      ended.traveler = 1 ∧ ended.phase = .ended .completed) ∧
    ((station .pre inspecting board).tagged tagB1 = some (1, board) ∧ board.stage ≠ stationStage .pre) ∧
    (let i : Inspection := { inspecting with traveler := 2 }
     (station .post i board).record .post = some i ∧ i.traveler ≠ 1) := by
  decide +kernel

theorem witness_UnclaimDropsClaim :
    let s := station .pre inspecting atPre
    let q : Req := { onC with level := 3 }
    (s.Takes q 3 ∧ 2 < max (s.strapped q.link) q.level) ∧ (s.Takes onC 2 ∧ tagForm [] = false) ∧
      (tagForm tagB2 = true ∧ s.tagged tagB2 = none) ∧
      (s.tagged tagB1 = some (1, atPre) ∧ atPre.claim = some onC.link ∧ atPre.claim ≠ some onB.link ∧ s.Takes onB 2) ∧
      (s.record .pre = some inspecting ∧ inspecting.traveler = 1 ∧ inspecting.phase = .isOpen ∧
        inspecting.deadline = some 5020#32 ∧ atPre.stage = stationStage .pre ∧ atPre.place = .present ∧
        (station .pre inspecting { atPre with claim := none }).Takes onA 2) := by
  decide +kernel

/-- A recipe with one REQUIRED site, for the boards at the pre-inspection station. -/
def slot1Sited : RecipeSlot := { slot1 with sites := [⟨.boot, .required, 0, 0⟩] }

def sited (s : State) : State := s.onRecipes fun x => { x with slots := putNth x.slots 1 slot1Sited }

/-- A shelf with the first slots taken by a board and the others free. -/
def shelved (taken : Nat) (s : State) : State :=
  s.onHolds fun m => { m with shelf := List.replicate taken (.resting 2) ++ List.replicate (16 - taken) .free }

def heldOpen : Hold := heldBy .maskMissing .isOpen 2

def heldOnce : Hold := heldBy .maskMissing .released 2

theorem witness_DivertersDecide :
    (let r : Traveler := { atPre with holds := [heldOnce] }
     let s := inMode .run (station .pre ended r)
     s.mask.pre = some ended ∧ ended.traveler = 1 ∧ ended.phase ≠ .isOpen ∧ s.traveler 1 = some r ∧
       r.stage = .preInspect ∧ r.place = .present ∧ s.table.transfers = [] ∧ s.mode = .run ∧
       (∀ h ∈ r.holds, h.state = .released) ∧ s.vacant .cell = true ∧ s.occupied .cellArrival = false) ∧
    (let r : Traveler := { atPre with holds := [heldOpen] }
     let s := shelved 14 (inMode .drain (station .pre ended r))
     s.mode = .drain ∧ s.traveler 1 = some r ∧ (∃ h ∈ r.holds, h.state = .isOpen) ∧ s.freeSlots = 2 ∧
       nth s.holds.shelf 15 = some .free ∧ (∀ m < 15, nth s.holds.shelf m ≠ some .free) ∧
       s.occupied (.shelf 15) = false ∧ (shelved 15 s).freeSlots = 1) ∧
    (let s := moving .cell .flashBelt 5008#32 (inMode .run (station .pre ended atPre))
     s.vacant .cell = false) ∧
    (let r : Traveler := { atPost with holds := [heldOnce] }
     let s := station .post ended r
     s.mask.post = some ended ∧ s.traveler 1 = some r ∧ r.stage = .postInspect ∧ r.place = .present ∧
       s.table.transfers = [] ∧ s.mode ≠ .halt ∧ (∀ h ∈ r.holds, h.state = .released) ∧
       s.occupied .outfeedExit = false) ∧
    (let r : Traveler := { atPost with holds := [heldOpen] }
     let s := shelved 15 (station .post ended r)
     s.traveler 1 = some r ∧ (∃ h ∈ r.holds, h.state = .isOpen) ∧ nth s.holds.shelf 16 = some .free ∧
       (∀ m < 16, nth s.holds.shelf m ≠ some .free) ∧ s.occupied (.shelf 16) = false ∧
       (shelved 16 s).freeSlots = 0) := by
  decide +kernel

/-! The spray cell. -/

/-- `r` in the cell, the cell in the state given. -/
def cellWith (c : CellState) (r : Traveler) : State :=
  (inMode .run (with1 lab r)).onEngine fun e => { e with cell := c, board := some 1, reference := some ⟨0, 0, 500⟩ }

def sprayBoard : Traveler := { board with stage := .spray, fiducial := some (.offset 0 0) }

theorem witness_ProgramStarts :
    (let r : Traveler := { sprayBoard with route := .reCure }
     let s := cellWith .ready r
     s.engine.cell = .ready ∧ s.mode = .run ∧ s.engine.port = .quiet ∧ s.engine.board = some 1 ∧
       s.traveler 1 = some r ∧ r.route = .reCure) ∧
    (let s := cellWith .ready sprayBoard
     let d := dispense headCfg lot1.potLife lot1.derate (lot1.age s.io.seconds) strk win
     s.engine.cell = .ready ∧ s.mode = .run ∧ s.engine.port = .quiet ∧ s.engine.board = some 1 ∧
       s.traveler 1 = some sprayBoard ∧ sprayBoard.route = .full ∧ (s.recipeOf sprayBoard).strokes.length = 1 ∧
       1 ≤ strk.passes ∧ (s.recipeOf sprayBoard).header = some hdr ∧
       nth (s.recipeOf sprayBoard).strokes 1 = some strk ∧ strk.valveOn = true ∧
       nth (s.recipeOf sprayBoard).windows strk.window = some win ∧ win.mask = 0 ∧
       nth s.lots.heads strk.head = some (some headCfg) ∧ headCfg.zMin ≤ strk.height ∧ strk.height ≤ headCfg.zMax ∧
       nth s.lots.map strk.head = some (some 1) ∧ nth s.lots.records 1 = some (some lot1) ∧ lot1.state = .mounted ∧
       lot1.kind = hdr.kind ∧ (d.strokeVolume : Int) ≤ lot1.remaining ∧ d.verdict = .nominal ∧
       s.engine.limits = some lims ∧
       (machinePasses lims sprayBoard.shift strk).all (fun p => withinTravel lims p.1 && withinTravel lims p.2) =
         true) ∧
    (lab.engine.cell ≠ .ready ∧ (halted lab).mode = .halt) := by
  decide +kernel

/-- The cell READY with `r`, its recipe with one site, the window `w` and the strokes `ks`. -/
def decides (w : Window) (ks : List Stroke) (r : Traveler) : State :=
  (cellWith .ready r).onRecipes fun y =>
    { y with slots := putNth y.slots 1 { slot1 with windows := [w], strokes := ks, sites := [⟨.boot, .required, 0, 0⟩] } }

/-- Lot record 1 of `s` as given. -/
def lotIs (m : Lot) (s : State) : State := s.onLots fun b => { b with records := putNth b.records 1 (some m) }

/-- A dry stroke. -/
def dryStroke : Stroke := { strk with window := 0, valveOn := false }

def unfit : Traveler := { sprayBoard with sites := [.absent] }

/-- The states of each decision: all have the cell READY with the board and the stroke; then what decides. -/
theorem witness_StrokeDecisionsTaken :
    let masked : Window := { win with mask := 1 }
    let second : Traveler := { unfit with route := .touchUp 2 2 }
    let d := dispense headCfg lot1.potLife lot1.derate (lot1.age lab.io.seconds) strk win
    let slow : HeadConfig := { headCfg with vMin := 1500 }
    let ready (s : State) (r : Traveler) (k : Nat) (x : Stroke) : Bool :=
      s.engine.cell = .ready ∧ s.mode = .run ∧ s.engine.port = .quiet ∧ s.engine.board = some 1 ∧
        s.traveler 1 = some r ∧ (s.recipeOf r).header = some hdr ∧ nth (s.recipeOf r).strokes k = some x ∧
        1 ≤ x.passes ∧ s.engine.limits = some lims ∧ s.leaving 1 = false ∧ r.holds = []
    (ready (decides masked [strk] unfit) unfit 1 strk ∧ unfit.route = .full ∧ strk.valveOn = true ∧
      ((decides masked [strk] unfit).recipeOf unfit).windows = [masked] ∧ nth unfit.sites 1 = some .absent) ∧
    (ready (decides masked [strk, strk] second) second 2 strk ∧ second.route = .touchUp 2 2) ∧
    (ready (decides win [{ strk with head := 2 }] unfit) unfit 1 { strk with head := 2 } ∧
      nth lab.lots.heads 2 = some none) ∧
    (ready (decides win [{ dryStroke with height := 301 }] unfit) unfit 1 { dryStroke with height := 301 } ∧
      nth lab.lots.heads 1 = some (some headCfg) ∧ headCfg.zMax = 300) ∧
    (let s := decides win [strk] unfit
     ready s unfit 1 strk ∧ headCfg.zMin ≤ strk.height ∧ strk.height ≤ headCfg.zMax ∧
       nth (s.onLots fun b => { b with map := [none, none] }).lots.map 1 = some none ∧
       nth (lotIs { lot1 with state := .expired } s).lots.records 1 = some (some { lot1 with state := .expired }) ∧
       nth (lotIs { lot1 with kind := 9 } s).lots.records 1 = some (some { lot1 with kind := 9 }) ∧ hdr.kind ≠ 9 ∧
       nth (lotIs { lot1 with remaining := d.strokeVolume - 1 } s).lots.records 1 =
         some (some { lot1 with remaining := d.strokeVolume - 1 }) ∧ lot1.state ≠ .expired ∧ lot1.kind = hdr.kind) ∧
    ((dispense slow lot1.potLife lot1.derate (lot1.age lab.io.seconds) strk win).verdict = .thin ∧
      (machinePasses lims unfit.shift strk).all (fun p => withinTravel lims p.1 && withinTravel lims p.2) = true) ∧
    (let far : Stroke := { dryStroke with stepY := 2000 }
     ready (decides win [dryStroke] unfit) unfit 1 dryStroke ∧ ready (decides win [far] unfit) unfit 1 far ∧
       machinePasses lims unfit.shift far = (machinePasses lims unfit.shift far).take 3 ++
         (⟨1610, 6220, 270⟩, ⟨110, 6220, 270⟩) :: [] ∧
       ((machinePasses lims unfit.shift far).take 3).all (fun p => withinTravel lims p.1 && withinTravel lims p.2) =
         true ∧ lims.yMax < 6220) := by
  decide +kernel

/-- The work of the stroke of `lab`, at pass 0. -/
def work (d : Option Dispense) (p : PassPhase) : StrokeWork :=
  { stroke := 1, head := 1, transit := 2000, results := d, passes := machinePasses lims (0, 0) strk, phase := p }

def plan : Dispense := dispense headCfg 240 20 60 strk win

/-- The cell RUNNING with the work given and a message outstanding. -/
def awaits (m : GantryMessage) (target : Option Point) (w : StrokeWork) (r : Traveler) : State :=
  (cellWith .running r).onEngine fun e =>
    { e with work := some w, port := .waiting { message := m, target := target, budget := 1000, elapsed := 10 } }

def running : Traveler := { sprayBoard with program := .running, strokeCursor := 1 }

/-- The valve of the worked example, 640 ms open. -/
def vl : OpenValve := { head := 1, flow := 142, duration := 1268, openMs := 640 }

/-- The cell RUNNING along pass 0 with the valve open. -/
def sprayingNow : State :=
  (awaits (.pass 1 1610 220 1183) (some ⟨1610, 220, 270⟩) (work (some plan) .along) running).onEngine fun e =>
    { e with valve := some vl }

theorem witness_StepKeepsPlacesAndValve :
    sprayingNow.IndexOk ∧ sprayingNow.PlacesOk ∧ sprayingNow.ValveOk ∧ ∃ u, step sprayingNow = .next u :=
  ⟨index1 running,
    ⟨nofun, nofun, nofun, nofun, nofun, List.nodup_nil, ⟨running, rfl, rfl, rfl⟩⟩,
    ⟨fun _ => .inl rfl, fun v h => by cases h; exact ⟨rfl, rfl, _, _, _, _, rfl, rfl⟩⟩, _, rfl⟩

/-- The states an entry into HALT meets the cell in: no valve and not RUNNING, PARKING with its MOVE outstanding, RUNNING
without and with an open valve, the valve's lot on its head. -/
theorem witness_HaltEntriesStopLine_cell :
    let s := moving .queue .preStation 5000#32 (inMode .run (with1 lab { board with stage := .preInspect }))
    let park := (awaits (.move 0 lims.park 500) (some lims.park) (work none .along) running).onEngine fun e =>
      { e with cell := .parking, work := none }
    let along := awaits (.pass 1 1610 220 1183) (some ⟨1610, 220, 270⟩) (work (some plan) .along) running
    (s.mode ≠ .halt ∧ s.Takes onC 2 ∧ s.engine.valve = none ∧ s.engine.cell ≠ .running ∧
      s.table.transfers.any (fun y => y.source == .queue) = true) ∧
    (park.mode ≠ .halt ∧ park.Takes onC 2 ∧ park.engine.cell = .parking ∧ park.engine.valve = none ∧
      park.engine.port = .waiting ⟨.move 0 lims.park 500, some lims.park, 1000, 10⟩) ∧
    [along, sprayingNow].all (fun s =>
      s.mode ≠ .halt ∧ s.Takes onC 2 ∧ (s.onIo fun io => { io with estopHanded := true }).io.estopHanded = true ∧
        s.engine.cell = .running ∧ s.engine.board = some 1 ∧ s.traveler 1 = some running ∧ s.leaving 1 = false ∧
        running.holds = [] ∧ s.engine.port = .waiting ⟨.pass 1 1610 220 1183, some ⟨1610, 220, 270⟩, 1000, 10⟩) = true ∧
    (along.engine.valve = none ∧ sprayingNow.engine.valve = some vl ∧ nth sprayingNow.lots.map vl.head = some (some 1) ∧
      nth sprayingNow.lots.records 1 = some (some lot1)) := by
  decide +kernel

theorem witness_ArrivedGoesOn :
    let start : Point := ⟨110, 220, 270⟩
    (let r : Traveler := { running with program := .done }
     let s := (awaits (.move 0 lims.park 500) (some lims.park) (work none .along) r).onEngine fun e =>
       { e with cell := .parking, work := none }
     s.engine.port = .waiting ⟨.move 0 lims.park 500, some lims.park, 1000, 10⟩ ∧ s.engine.cell = .parking ∧
       s.engine.board = some 1 ∧ s.traveler 1 = some r ∧ r.program = .done) ∧
    (let s := awaits (.move 1 start 2000) (some start) (work (some plan) .toStart) running
     s.engine.cell = .running ∧ s.engine.board = some 1 ∧ s.traveler 1 = some running ∧
       s.engine.work = some (work (some plan) .toStart) ∧
       (work (some plan) .toStart).passes[running.passCursor]? = some (start, ⟨1610, 220, 270⟩) ∧
       s.io.estop = false ∧ (work none .toStart).results = none) ∧
    (lab.engine.port = .quiet ∧ (lab.onEngine fun e => { e with port := .lost }).engine.port = .lost) := by
  decide +kernel

theorem witness_PassDoneEndsPass :
    let b : Point := ⟨1610, 220, 270⟩
    let w := work (some plan) .along
    (let s := awaits (.pass 1 1610 220 1183) (some b) w running
     s.engine.port = .waiting ⟨.pass 1 1610 220 1183, some b, 1000, 10⟩ ∧ s.engine.valve = none ∧
       s.engine.cell = .running ∧ s.engine.board = some 1 ∧ s.traveler 1 = some running ∧ s.engine.work = some w ∧
       w.passes[running.passCursor + 1]? = some (⟨1610, 330, 270⟩, ⟨110, 330, 270⟩)) ∧
    (let r : Traveler := { running with passCursor := 3 }
     let s := awaits (.pass 1 1610 220 1183) (some b) w r
     s.traveler 1 = some r ∧ w.passes.length = r.passCursor + 1 ∧ s.lastStroke 1 = w.stroke ∧
       s.engine.limits = some lims) ∧
    lab.engine.port = .quiet := by
  decide +kernel

/-- At the end of the last pass of stroke 1 of two, the next one spraying or dry. -/
theorem witness_PassDoneEndsPass_next :
    let b : Point := ⟨1610, 220, 270⟩
    let w := work (some plan) .along
    let r : Traveler := { running with passCursor := 3 }
    let s (k : Stroke) := (awaits (.pass 1 1610 220 1183) (some b) w r).onRecipes fun x =>
      { x with slots := putNth x.slots 1 { slot1 with strokes := [strk, k] } }
    (w.passes.length ≤ r.passCursor + 1 ∧ w.stroke < (s strk).lastStroke 1 ∧ w.stroke < (s dryStroke).lastStroke 1 ∧
      (s strk).engine.valve = none ∧ (s strk).traveler 1 = some r ∧
      nth ((s dryStroke).recipeOf r).strokes 2 = some dryStroke ∧ nth ((s strk).recipeOf r).strokes 2 = some strk ∧
      (machinePasses lims r.shift strk)[0]? = some (⟨110, 220, 270⟩, ⟨1610, 220, 270⟩)) ∧
    StrokePasses (s strk) r strk headCfg lims (some plan) (putNth r.lotsUsed 1 (some lot1.id)) ∧
    StrokePasses (s dryStroke) r dryStroke headCfg lims none r.lotsUsed :=
  ⟨by decide +kernel,
    ⟨rfl, by decide, by decide, by decide +kernel,
      .inr ⟨hdr, win, 1, lot1, rfl, rfl, rfl, .inl rfl, rfl, rfl, nofun, rfl, by decide +kernel, by decide +kernel,
        by decide +kernel, rfl⟩⟩,
    rfl, by decide, by decide, by decide +kernel, .inl ⟨rfl, rfl, rfl⟩⟩

theorem witness_StopAndFaultEndMessage :
    let stop := awaits .stop none (work none .along) running
    let move := awaits (.move 1 ⟨0, 0, 0⟩ 2000) (some ⟨0, 0, 0⟩) (work (some plan) .toStart) running
    (stop.engine.port = .waiting ⟨.stop, none, 1000, 10⟩ ∧ (halted stop).mode = .halt ∧ stop.mode ≠ .halt ∧
      stop.engine.cell ≠ .aborted ∧ stop.engine.cell ≠ .parking ∧
      (stop.onEngine fun e => { e with cell := .aborted }).engine.limits = some lims) ∧
    lab.engine.port = .quiet ∧
    (move.engine.port = .waiting ⟨.move 1 ⟨0, 0, 0⟩ 2000, some ⟨0, 0, 0⟩, 1000, 10⟩ ∧ move.engine.cell = .running ∧
      move.engine.board = some 1 ∧ move.traveler 1 = some running ∧ move.engine.valve = none ∧
      running.coat.faults = 0 ∧ move.leaving 1 = false ∧ running.holds = [] ∧ move.engine.limits = some lims) := by
  decide +kernel

/-- The messages a FAULT can end besides a MOVE of the program: a PASS, the park MOVE, and STOP in and out of HALT. -/
theorem witness_StopAndFaultEndMessage_other :
    let along := awaits (.pass 1 1610 220 1183) (some ⟨1610, 220, 270⟩) (work (some plan) .along) running
    let park (r : Traveler) := (awaits (.move 0 lims.park 500) (some lims.park) (work none .along) r).onEngine fun e =>
      { e with cell := .parking, work := none }
    let ended : Traveler := { running with program := .done, coat := { running.coat with faults := 1 } }
    let stop (c : CellState) := (awaits .stop none (work none .along) running).onEngine fun e => { e with cell := c }
    (along.engine.port = .waiting ⟨.pass 1 1610 220 1183, some ⟨1610, 220, 270⟩, 1000, 10⟩ ∧
      along.engine.cell = .running ∧ along.engine.board = some 1 ∧ along.traveler 1 = some running ∧
      along.engine.valve = none ∧ running.coat.faults = 0 ∧ along.leaving 1 = false ∧ running.holds = [] ∧
      along.engine.limits = some lims) ∧
    [{ running with program := .aborted }, ended].all (fun r =>
      let s := park r
      s.engine.port = .waiting ⟨.move 0 lims.park 500, some lims.park, 1000, 10⟩ ∧ s.engine.cell = .parking ∧
        s.engine.board = some 1 ∧ s.traveler 1 = some r ∧ s.leaving 1 = false ∧ r.holds = []) = true ∧
    ((stop .aborted).engine.port = .waiting ⟨.stop, none, 1000, 10⟩ ∧ (stop .aborted).mode ≠ .halt ∧
      (stop .parking).engine.cell = .parking ∧ (halted (stop .aborted)).mode = .halt ∧
      (stop .vacant).engine.cell = .vacant ∧ (stop .aborted).engine.limits = some lims) := by
  decide +kernel

theorem witness_ValveCloseDrawsFromLot :
    let s := lab.onEngine fun e => { e with valve := some vl }
    let o : Outstanding := ⟨.pass 1 1610 220 1183, some ⟨1610, 220, 270⟩, 1000, 10⟩
    let w := work (some plan) .along
    (s.engine.valve = some vl ∧ nth s.lots.map vl.head = some (some 1) ∧ nth s.lots.records 1 = some (some lot1) ∧
      s.io.estop = false) ∧
    (sprayingNow.engine.port = .waiting o ∧ sprayingNow.engine.valve = some vl ∧
      sprayingNow.engine.cell = .running ∧ sprayingNow.engine.board = some 1 ∧ sprayingNow.traveler 1 = some running ∧
      sprayingNow.engine.work = some w ∧ sprayingNow.engine.limits = some lims ∧
      nth sprayingNow.lots.map vl.head = some (some 1) ∧ nth sprayingNow.lots.records 1 = some (some lot1)) ∧
    (w.passes[running.passCursor + 1]? = some (⟨1610, 330, 270⟩, ⟨110, 330, 270⟩) ∧ running.coat.faults = 0 ∧
      sprayingNow.leaving 1 = false ∧ running.holds = []) := by
  decide +kernel

/-! The dispense arithmetic. -/

theorem witness_FanSpeedFilmAndVerdict :
    (1 ≤ 1 ∧ 1 ≤ 60 ∧ 50 ≤ 50 ∧ 0 ≤ 60 ∧ 60 ≤ 60) ∧
      1 ≤ headCfg.height ∧ headCfg.fanMin ≤ headCfg.fanMax ∧ 1 ≤ headCfg.fanMin ∧ headCfg.vMin ≤ headCfg.vMax ∧
      1 ≤ headCfg.vMin ∧ 1 ≤ win.thickness ∧ win.tolerance ≤ 100 := by
  decide +kernel

theorem witness_PassLengthAndVolumes :
    strk.startX ≠ strk.endX ∧ 1 ≤ headCfg.vMin ∧ headCfg.vMin ≤ headCfg.vMax ∧ 1 ≤ headCfg.flow ∧ 1 ≤ lot1.potLife ∧
      lot1.derate ≤ 50 ∧ 0 ≤ lot1.age 5000#32 ∧ lot1.age 5000#32 ≤ lot1.potLife ∧ 1 ≤ strk.passes := by
  decide +kernel

/-! Flash-off, the oven and the dose. -/

theorem witness_OvenSpeedAndRange :
    (lab.Takes onB 1 ∧ lab.mode ≠ .halt ∧ (halted lab).Takes onB 1 ∧ (halted lab).mode = .halt ∧
      lab.cure.rangeLow = 10 ∧ lab.cure.rangeHigh = 2000) ∧
    (geo.length = 4000 * 10 ∧ 1 ≤ 4000 ∧ 1 ≤ hdr.dwellMin ∧ hdr.dwellMin ≤ hdr.dwellMax) := by
  decide +kernel

/-- A board of `r` at the head of the flash list, on the flash-end sensor. -/
def atFlashEnd (r : Traveler) : State :=
  (sees .flashEnd (inMode .run (with1 lab r))).onCure fun c => { c with flash := [1] }

def dry : Traveler := { board with stage := .flash, sprayEnd := some 4940#32 }

theorem witness_OvenAdmissionForms :
    (let s := atFlashEnd dry
     s.mode ≠ .halt ∧ s.cure.flash = [1] ∧ s.cure.geometry = some geo ∧ s.traveler 1 = some dry ∧
       (s.recipeOf dry).header = some hdr ∧ s.profileOf dry = some prof ∧ speedRange geo hdr = some (800, 2000) ∧
       s.cure.oven.length < 20 ∧ s.entryClear geo = true ∧ s.cure.stopUp = true ∧ s.occupied .flashEnd = true ∧
       s.flashMinimum dry = (s.io.seconds - 4940#32).toNat ∧ s.cure.rangeLow ≤ s.cure.rangeHigh ∧
       max 800 s.cure.rangeLow ≤ min 2000 s.cure.rangeHigh) ∧
    (let s := (atFlashEnd dry).onCure fun c => { c with rangeLow := 100, rangeHigh := 799 }
     s.entryClear geo = true ∧ min 2000 s.cure.rangeHigh < max 800 s.cure.rangeLow ∧ 1 ∉ s.cure.overdue ∧
       1 ∈ (s.onCure fun c => { c with overdue := [1] }).cure.overdue) ∧
    (let s := (atFlashEnd dry).onRecipes fun x => { x with profiles := [none, none, none, none] }
     s.profileOf dry = none ∧ s.leaving 1 = false ∧ dry.holds = [] ∧ s.entryClear geo = true) ∧
    (let h : Header := { hdr with dwellMin := 1300, dwellMax := 1300 }
     let s := (atFlashEnd dry).onRecipes fun x => { x with slots := putNth x.slots 1 { slot1 with header := some h } }
     (s.recipeOf dry).header = some h ∧ s.profileOf dry = some prof ∧ speedRange geo h = none ∧ s.leaving 1 = false ∧
       s.entryClear geo = true ∧ s.flashMinimum dry ≤ (s.io.seconds - 4940#32).toNat) ∧
    (bare.cure.flash = [] ∧ bare.cure.geometry = none ∧ bare.occupied .flashEnd = false) := by
  decide +kernel

/-- A board in the oven over the middle zone. -/
def inMiddle (lead : Nat) (pass : Nat) : Traveler := { inOven with lead := some lead, passDose := pass, lifeDose := pass }

def ovenEntry : OvenEntry := { traveler := 1, stamp := 4990#32, range := some (800, 2000), form := .none }

def labOven (r : Traveler) : State := (inMode .run (with1 lab r)).onCure fun c => { c with oven := [ovenEntry] }

theorem witness_SecondTickAccruesDose :
    (lab.cure.oven = []) ∧
    (let s := labOven (inMiddle 999 0)
     s.cure.oven = [ovenEntry] ∧ s.traveler 1 = some (inMiddle 999 0) ∧ (s.recipeOf (inMiddle 999 0)).header = some hdr ∧
       s.profileOf (inMiddle 999 0) = some prof ∧ s.cure.geometry = some geo ∧ ovenEntry.form = .none ∧
       prof.passMax ≤ prof.lifeMax ∧ ((999 : Nat) : Int) - (hdr.length / 2 : Nat) < 0 ∧
       (geo.length : Int) ≤ ((41000 : Nat) : Int) - (hdr.length / 2 : Nat)) ∧
    (let c : Int := ((11000 : Nat) : Int) - (hdr.length / 2 : Nat)
     c = 10000 ∧ nth geo.bounds 2 = some 20000 ∧ c < 20000 ∧ nth geo.bounds 1 = some 10000 ∧ (10000 : Int) ≤ c ∧
       nth lab.cure.zones 2 = some warm ∧ warm.state ≠ .failed ∧ warm.last = some 120 ∧ ((prof.base : Nat) : Int) ≤ 120 ∧
       prof.weights[min ((120 - ((prof.base : Nat) : Int)) / 5).toNat 15]? = some 5 ∧ 195 + 5 = prof.passMax ∧
       prof.passMax < 196 + 5) ∧
    (let s := labOven (inMiddle 11000 196)
     1 ∉ s.cure.overCured ∧ s.leaving 1 = false ∧ (inMiddle 11000 196).holds = [] ∧
       nth (s.onCure fun c => { c with zones := [warm, { warm with state := .failed }, warm] }).cure.zones 2 =
         some { warm with state := .failed }) := by
  decide +kernel

theorem witness_SamplingRoundChangesZones : lab.cure.zones.length = lab.io.straps.zones := by decide +kernel

theorem witness_BeltAdvanceMovesBoards :
    let r := inMiddle 39999 150
    let s := (labOven r).onCure fun c => { c with exit := [2, 3] }
    (s.cure.oven = [ovenEntry] ∧ s.cure.geometry = some geo ∧ s.traveler 1 = some r ∧ r.stage = .cure ∧
      r.lead = some 39999 ∧ geo.length = 39999 + 1 ∧ s.mode ≠ .halt ∧ s.cure.stalled = false ∧ s.exitCount = 2) ∧
    ((labOven r).exitCount < 2 ∧ (with1 lab board).traveler 1 = some board ∧ board.stage ≠ .cure) := by
  decide +kernel

theorem witness_OvenExitMoveJudgesDose :
    let r := inMiddle 40000 99
    let s := (labOven r).onCure fun c => { c with exit := [2] }
    (s.cure.oven = [ovenEntry] ∧ s.cure.geometry = some geo ∧ s.traveler 1 = some r ∧ r.lead = some geo.length ∧
      s.profileOf r = some prof ∧ ovenEntry.form = .none ∧ s.leaving 1 = false ∧ r.holds = [] ∧ s.mode ≠ .halt ∧
      s.exitCount < 2 ∧ r.passDose < prof.required ∧ prof.required ≤ (inMiddle 40000 100).passDose) ∧
    ((labOven (inMiddle 39999 0)).traveler 1 = some (inMiddle 39999 0) ∧ 39999 < geo.length ∧
      ((labOven r).onCure fun c => { c with exit := [2, 3] }).exitCount = 2) := by
  decide +kernel

/-! Holds and rework. -/

/-- `r` at rest in shelf slot 16. -/
def onShelf (r : Traveler) : State := (with1 lab r).onHolds fun m => { m with shelf := putNth m.shelf 16 (.resting 1) }

def resting : Traveler := { board with stage := .shelved, shelfSlot := some 16, holds := [heldOnce], lifeDose := 50 }

def noted : Hold := { heldBy .operator .isOpen 2 with raisedBy := .link .a, count := 65535 }

theorem witness_PlaceHoldOpensOrCounts :
    (let s := onShelf resting
     s.Takes onC 2 ∧ tagForm tagB1 = true ∧ s.tagged tagB1 = some (1, resting) ∧ s.leaving 1 = false ∧
       s.stationOf 1 = none ∧ ∀ h ∈ resting.holds, h.reason ≠ .operator) ∧
    (let r : Traveler := { resting with holds := [noted] }
     (onShelf r).tagged tagB1 = some (1, r) ∧ r.holds = [noted] ∧ noted.reason = .operator ∧ noted.state = .isOpen) ∧
    (let k : Hold := { noted with state := .released }
     let r : Traveler := { resting with holds := [k] }
     (onShelf r).tagged tagB1 = some (1, r) ∧ (onShelf r).leaving 1 = false ∧ (onShelf r).stationOf 1 = none ∧
       k.reason = .operator ∧ k.state = .released) ∧
    (moving .postStation .outfeed 5008#32 (with1 lab board)).leaving 1 = true := by
  decide +kernel

theorem witness_ReleaseNeedsLevel :
    let k : Hold := heldBy .operator .isOpen 1
    let q : Req := { onC with level := 3 }
    (let r : Traveler := { resting with holds := [heldOpen] }
     let s := onShelf r
     s.Takes onC 3 ∧ tagForm tagB1 = true ∧ s.tagged tagB1 = some (1, r) ∧ max (s.strapped .c) 0 = heldOpen.level ∧
       s.stationOf 1 = none ∧ s.Takes q 3 ∧ heldOpen.level < max (s.strapped .c) q.level) ∧
    ((onShelf resting).tagged tagB1 = some (1, resting) ∧
      ∀ g ∈ resting.holds, g.reason = .maskMissing → g.state = .released) ∧
    (let r : Traveler := { resting with holds := [heldOpen, k] }
     let s := onShelf r
     s.tagged tagB1 = some (1, r) ∧ heldOpen.reason ≠ k.reason ∧ heldOpen.reason.code < k.reason.code ∧
       max (s.strapped .b) onB.level ≤ heldOpen.level ∧ max (s.strapped .b) onB.level ≤ k.level ∧ s.Takes onB 3 ∧
       heldOpen.level < 3 ∧ k.level < 3) ∧
    (let g : Hold := heldBy .maskMissing .isOpen 1
     let h : Hold := heldBy .operator .isOpen 2
     g.level < max (lab.strapped .c) 0 ∧ max (lab.strapped .c) 0 ≤ h.level) ∧
    heldOnce.state = .released := by
  decide +kernel

theorem witness_DisposeReturnsBoardToQueue :
    let s := (onShelf resting).onTable fun b => { b with queue := [2, 3, 4] }
    s.Takes onC 2 ∧ tagForm tagB1 = true ∧ s.tagged tagB1 = some (1, resting) ∧ resting.stage = .shelved ∧
      resting.place = .present ∧ (∀ h ∈ resting.holds, h.state = .released) ∧ s.mode ≠ .drain ∧ s.occupancy = 3 ∧
      s.mask.pre = none ∧ s.mask.post = none ∧ s.stationOf 1 = none ∧ nth s.holds.shelf 16 = some (.resting 1) ∧
      (s.recipeOf resting).strokes.length = 1 := by
  decide +kernel

theorem witness_DisposeRetiresOrRefuses :
    let s := onShelf resting
    let r : Traveler := { resting with holds := [heldOpen] }
    (tagForm tagB1 = true ∧ s.tagged tagB1 = some (1, resting) ∧ resting.stage = .shelved ∧ resting.place = .present ∧
      s.mask.pre = none ∧ s.mask.post = none ∧ nth s.holds.shelf 16 = some (.resting 1) ∧
      nth s.recipes.slots resting.recipe = some slot1 ∧ s.Takes onA 0 ∧ (∀ h ∈ resting.holds, h.state = .released) ∧
      s.Takes onB 1) ∧
    (s.Takes onB 2 ∧ max (s.strapped .b) 0 = 1 ∧ s.Takes onC 2 ∧ max (s.strapped .c) 0 = 2) ∧
    ((with1 lab board).tagged tagB1 = some (1, board) ∧ board.stage ≠ .shelved) ∧
    ((onShelf r).tagged tagB1 = some (1, r) ∧ r.holds = [heldOpen] ∧ heldOpen.state = .isOpen) ∧
    ((s.recipeOf resting).strokes.length = 1 ∧ s.Takes onA 2 ∧ max (s.strapped .a) 0 = 0 ∧
      [s, inMode .drain s].all (fun x => x.tagged tagB1 = some (1, resting)) = true) ∧
    ((inMode .drain s).mode = .drain ∧ (s.onTable fun b => { b with queue := [2, 3, 4, 5] }).occupancy = 4) := by
  decide +kernel

/-! Station links, line I/O and time base. -/

theorem witness_RefusedRequestChangesNothing :
    ∃ u a, requestParts (.drain onA) = some (onA, 3, []) ∧ exec (.drain onA) lab = .next u ∧
      (u.link .a).answers = (lab.link .a).answers ++ [a] ∧ a.status = .mode ∧ a.status ≠ .ok ∧ a.status ≠ .clamped :=
  ⟨_, _, rfl, rfl, rfl, rfl, nofun, nofun⟩

/-- `lab` with `n` answers on the list of link A. -/
def answered (n : Nat) : State :=
  lab.onLink .a fun x => { x with answers := List.replicate n ⟨1, 0, 0#8, .ok, []⟩ }

theorem witness_InterfaceAnswersUntakenRequest :
    requestParts (.getLine onA) = some (onA, 7, []) ∧ ((answered 8).link .a).answers.length = 8 ∧
      (((answered 7).onLink .a fun x => { x with inService := true }).link .a).answers.length + 1 = 8 ∧
      ((((answered 6).onLink .a fun x => { x with inService := true }).link .a).answers.length + 1 < 8) ∧
      ((answered 7).link .a).answers.length < 8 ∧ ((answered 7).link .a).inService = false ∧
      ({ onA with overlaps := true } : Req).overlaps = true ∧ 3 < ({ onA with level := 4 } : Req).level ∧
      max (lab.strapped .a) ({ onA with level := 3 } : Req).level = 3 ∧
      requestParts (.start onA) = some (onA, 2, []) ∧ 1 < max (lab.strapped .c) onC.level ∧ onC.overlaps = false ∧
      requestParts (.start onC) = some (onC, 2, []) := by
  decide +kernel

/-- The frame of a Peek on link A with correlation 7: length 3, code 39, level 0, correlation 7, and the CRC. -/
theorem witness_FrameBytesCompleteRequest :
    (Instr.peek onA).wellFormed = true ∧ requestParts (.peek onA) = some (onA, 39, []) ∧ onA.overlaps = false ∧
      ∃ pre last, frameBytes 39 0 7#8 [] = startMark :: (pre ++ [last]) ∧ pre.take 5 = [3#8, 0#8, 39#8, 0#8, 7#8] ∧
        pre.length = 6 :=
  ⟨rfl, rfl, rfl, ((frameBytes 39 0 7#8 []).drop 1).dropLast, (frameBytes 39 0 7#8 []).getLastD 0#8,
    by decide +kernel⟩

theorem witness_RequestBodyReadsBack :
    (Instr.putWindows onA 8 [win, win]).wellFormed = true ∧
      ∃ body, requestParts (.putWindows onA 8 [win, win]) = some (onA, 11, body) ∧ (bodyBytes body).length = 26 :=
  ⟨by decide +kernel, _, rfl, by decide +kernel⟩

theorem witness_LinkFramesAndAnswers :
    (lab.link .a).reception = .searching ∧ ((answered 7).link .a).answers.length < 8 ∧
      ((answered 7).link .a).inService = false ∧ ((answered 1).link .a).answers = [⟨1, 0, 0#8, .ok, []⟩] := by
  decide +kernel

/-- `lab` with a link whose queue holds `n` notices of the LINE class, subscribed to it. -/
def noticed (n : Nat) : State :=
  (inMode .drain lab).onLink .b fun x =>
    { x with subs := [.line], queue := List.replicate n ⟨1#32, 4000#32, .modeChanged .run .drain⟩ }

theorem witness_NoticePostedToSubscribers :
    (noticed 31).Takes onB 1 ∧ (noticed 31).mode = .drain ∧ (noticed 31).mask.pre = none ∧
      .line ∈ ((noticed 31).link .b).subs ∧ ((noticed 31).link .b).queue.length = 31 ∧
      ((noticed 32).link .b).queue.length = 32 ∧ .line ∉ ((noticed 31).link .a).subs ∧
      (noticed 32).Takes onB 3 ∧ ∀ x ∈ ((noticed 32).link .b).queue, x.size ≤ 250 := by
  decide +kernel

/-- Claimed boards at both stations: traveler 1 at PRE, traveler 2 at POST. -/
def atBoth : State :=
  ((station .pre inspecting atPre).setRecord .post (some { inspecting with traveler := 2 })).onTable fun b =>
    { b with records := putNth b.records 2 (some { atPost with tag := tagB2 }) }

theorem witness_NoticeSettingsChange :
    let r : Traveler := { atPre with claim := some .a }
    (lab.Takes { onC with level := 3 } 3 ∧ [NoticeClass.alarm, .hold, .inspect, .lot, .board, .line].length = 6) ∧
    ((station .pre inspecting atPre).mask.pre = some inspecting ∧ (station .pre inspecting atPre).Takes onC 3 ∧
      (station .pre inspecting atPre).traveler 1 = some atPre ∧ atPre.claim = some onC.link ∧
      (station .pre inspecting atPre).mask.post = none) ∧
    ((station .pre inspecting r).traveler 1 = some r ∧ r.claim = some .a ∧ Link.a ≠ onC.link) ∧
    ((station .post inspecting atPost).record .post = some inspecting ∧
      (station .post inspecting atPost).record .pre = none ∧ atPost.claim = some onC.link) ∧
    (atBoth.Takes onC 3 ∧ atBoth.mask.pre = some inspecting ∧ atBoth.mask.post = some { inspecting with traveler := 2 } ∧
      atBoth.traveler 1 = some atPre ∧ atBoth.traveler 2 = some { atPost with tag := tagB2 }) := by
  decide +kernel

theorem witness_StackLightFollowsLine : (∃ u, exec .queueRelease lab = .next u) ∧ bare.LampsOk :=
  ⟨⟨_, rfl⟩, by unfold State.LampsOk; decide +kernel⟩

theorem witness_SensorsAndEstopRecognised :
    let s := lab.onIo fun io => { io with estop := true }
    Sensor.exists? (.shelf 1) = true ∧ Sensor.exists? (.shelf 16) = true ∧ lab.io.sensors.length = 24 ∧
      lab.occupied (.shelf 16) ≠ true ∧ (sees .flashEnd lab).occupied .flashEnd ≠ false ∧
      lab.occupied .flashEnd = false ∧ lab.io.estop = false ∧ lab.engine.valve = none ∧ s.io.estop = true := by
  decide +kernel

/-! ### Boards that wait at a station, and where its diverter sends them -/

theorem pre_cell {m : LineMode} {l : List ShelfSlot} {c : Prop} {hs : List Hold} (hm : m = .run ∨ m = .drain) (hc : c)
    (h : ∀ x ∈ hs, x.state ≠ .isOpen) : DiverterSends .pre m l c hs (some .cell) :=
  ⟨fun k => by rcases hm with rfl | rfl <;> simp at k,
    fun _ => ⟨fun ⟨x, hx, e⟩ => absurd e (h x hx), fun _ => ⟨fun _ => rfl, fun k => absurd hc k⟩⟩⟩

theorem pre_shelf {m : LineMode} {l : List ShelfSlot} {c : Prop} {hs : List Hold} (n : Nat) (hm : m = .run ∨ m = .drain)
    (h : ∃ x ∈ hs, x.state = .isOpen) (h2 : 2 ≤ l.count .free) (hn : nth l n = some .free)
    (low : ∀ k < n, nth l k ≠ some .free) : DiverterSends .pre m l c hs (some (.shelf n)) :=
  ⟨fun k => by rcases hm with rfl | rfl <;> simp at k,
    fun _ => ⟨fun _ => .inr ⟨h2, n, hn, fun k _ => low k, rfl⟩, fun k => absurd h k⟩⟩

theorem pre_stays {m : LineMode} {l : List ShelfSlot} {c : Prop} {hs : List Hold} (hm : m = .idle ∨ m = .halt) :
    DiverterSends .pre m l c hs none :=
  ⟨fun _ => rfl, fun k => by rcases hm with rfl | rfl <;> simp at k⟩

theorem post_out {m : LineMode} {l : List ShelfSlot} {c : Prop} {hs : List Hold} (hm : m ≠ .halt)
    (h : ∀ x ∈ hs, x.state ≠ .isOpen) : DiverterSends .post m l c hs (some .outfeed) :=
  ⟨fun k => absurd k hm, fun _ => ⟨fun ⟨x, hx, e⟩ => absurd e (h x hx), fun _ => rfl⟩⟩

theorem post_shelf {m : LineMode} {l : List ShelfSlot} {c : Prop} {hs : List Hold} (n : Nat) (hm : m ≠ .halt)
    (h : ∃ x ∈ hs, x.state = .isOpen) (h1 : 1 ≤ l.count .free) (hn : nth l n = some .free)
    (low : ∀ k < n, nth l k ≠ some .free) : DiverterSends .post m l c hs (some (.shelf n)) :=
  ⟨fun k => absurd k hm, fun _ => ⟨fun _ => .inr ⟨h1, n, hn, fun k _ => low k, rfl⟩, fun k => absurd h k⟩⟩

theorem clear_to {s : State} {p : Place} (h : s.occupied p.sensor = false) : s.WayClear (some p) := fun _ e => by
  cases e; exact h

/-- A board at the pre-inspection station with one OPEN hold. -/
def held1 : Traveler := { atPre with holds := [heldOpen] }

theorem waits_pre (m : LineMode) (r : Traveler) (hg : r.stage = .preInspect) (hp : r.place = .present) :
    (inMode m (station .pre ended r)).Waits .pre 1 r :=
  ⟨⟨ended, rfl, rfl, nofun⟩, rfl, hg, hp, nofun⟩

theorem inMode_traveler (m : LineMode) (s : State) (n : Nat) : (inMode m s).traveler n = s.traveler n := rfl

theorem station_traveler (x : Station) (i : Inspection) (r : Traveler) (n : Nat) :
    (station x i r).traveler n = (with1 lab r).traveler n := rfl

theorem witness_StartAndDrainSetMode_waiting :
    (let s := station .pre ended atPre
     s.Takes onB 1 ∧ s.mode = .idle ∧ s.io.estop = false ∧ s.cure.geometry ≠ none ∧ s.engine.limits ≠ none ∧
       (inMode .drain s).Takes onB 1 ∧ (inMode .run s).Takes onB 1 ∧ s.occupied .cellArrival = false) ∧
    (∀ m, (inMode m (station .pre ended atPre)).Waits .pre 1 atPre ∧
      (inMode m (station .pre ended held1)).Waits .pre 1 held1) ∧
    (let s := station .pre ended atPre
     DiverterSends .pre .run s.holds.shelf (s.vacant .cell = true) atPre.holds (some .cell) ∧
       DiverterSends .pre .drain s.holds.shelf (s.vacant .cell = true) atPre.holds (some .cell)) ∧
    (let s := inMode .run (station .pre ended held1)
     DiverterSends .pre .drain s.holds.shelf (s.vacant .cell = true) held1.holds (some (.shelf 1)) ∧
       s.WayClear (some (.shelf 1)) ∧ ∀ n y, n ≠ 1 → s.traveler n ≠ some y) :=
  ⟨by decide +kernel, fun m => ⟨waits_pre m _ rfl rfl, waits_pre m _ rfl rfl⟩,
    ⟨pre_cell (.inl rfl) (by decide +kernel) (by decide +kernel), pre_cell (.inr rfl) (by decide +kernel) (by decide +kernel)⟩,
    pre_shelf 1 (.inr rfl) (by decide) (by decide +kernel) (by decide +kernel) (by decide +kernel),
    clear_to (by decide +kernel), fun n y h k => by
      rw [inMode_traveler, station_traveler, gone1 held1 h] at k; exact nomatch k⟩

/-- The posts of a board that nothing stops, of one that two raises meet, and the same at POST. -/
def fit1 : Traveler := { atPre with sites := [.notFitted], fiducial := some (.offset 20 (-20)) }
def unfit1 : Traveler := { atPre with sites := [.absent], fiducial := some (.offset 21 0), holds := [heldOnce] }
def splashed : Traveler := { atPost with coverage := [.covered, .splash, .void] }

/-- The state in which the inspection of `r` at station `x` is OPEN and due. -/
def judged (x : Station) (m : LineMode) (r : Traveler) : State :=
  inMode m (sited (station x { inspecting with deadline := some 5000#32 } r))

def raised2 : List Hold :=
  [newHold lab 5000#32 .maskMissing .maskVerification .preInspect (.site 1),
   newHold lab 5000#32 .fiducial .maskVerification .preInspect (.fiducial .limit)]

def raised1 : List Hold := [newHold lab 5000#32 .coverage .maskVerification .postInspect (.coverage 2 .splash)]

def timedOut (x : Station) : Hold := newHold lab 5000#32 .inspectTimeout .maskVerification (stationStage x) (.station x)

theorem witness_InspectionsEnd :
    ([(.pre, .run, fit1), (.pre, .drain, unfit1), (.pre, .idle, unfit1), (.post, .idle, atPost), (.post, .run, splashed),
      (.post, .halt, splashed)] : List (Station × LineMode × Traveler)).all (fun c =>
      let s := judged c.1 c.2.1 c.2.2
      s.Takes onC 2 ∧ s.tagged tagB1 = some (1, c.2.2) ∧ c.2.2.claim = some onC.link ∧ s.stationOf 1 = some c.1 ∧
        s.record c.1 = some { inspecting with deadline := some 5000#32 } ∧ s.traveler 1 = some c.2.2 ∧
        c.2.2.stage = stationStage c.1 ∧ c.2.2.place = .present ∧ s.table.transfers = [] ∧
        reached s.io.seconds 5000#32 = true) = true ∧
    (reached lab.io.seconds 5001#32 = false ∧ ended.phase ≠ .isOpen) := by
  decide +kernel

theorem witness_InspectionsEnd_raises :
    EvaluationRaises (judged .pre .run fit1) .pre fit1 [] ∧ EvaluationRaises (judged .pre .drain unfit1) .pre unfit1 raised2 ∧
      EvaluationRaises (judged .post .idle atPost) .post atPost [] ∧
      EvaluationRaises (judged .post .run splashed) .post splashed raised1 ∧
      (∀ o c, (o, c) ∈ [(none, FiducialCause.notPosted), (some .notFound, .notFound), (some (.offset 0 (-21)), .limit)] →
        EvaluationRaises (judged .pre .run fit1) .pre { fit1 with fiducial := o }
          [newHold lab 5000#32 .fiducial .maskVerification .preInspect (.fiducial c)]) ∧
      HoldsInOrder unfit1.holds ∧ HoldsInOrder splashed.holds :=
  ⟨⟨[], .inl ⟨by decide +kernel, rfl⟩, by decide +kernel⟩,
    ⟨raised2.take 1, .inr ⟨[], _, [], rfl, nofun, by decide +kernel, by decide +kernel⟩, by decide +kernel⟩,
    .inl ⟨by decide, rfl⟩, .inr ⟨[.covered], .splash, [.void], rfl, by decide, by decide, by decide +kernel⟩,
    fun o c h => by
      simp only [List.mem_cons, Prod.mk.injEq, List.not_mem_nil, or_false] at h
      rcases h with ⟨rfl, rfl⟩ | ⟨rfl, rfl⟩ | ⟨rfl, rfl⟩ <;> exact ⟨[], .inl ⟨by decide +kernel, rfl⟩, by decide +kernel⟩,
    List.pairwise_singleton _ _, List.Pairwise.nil⟩

/-- Where those boards go: with every slot free, with the holds that Complete and the expiry leave. -/
theorem witness_InspectionsEnd_sends :
    (let s := judged .pre .run fit1
     DiverterSends .pre s.mode s.holds.shelf (s.vacant .cell = true) (holdsAfterRaises fit1.holds []) (some .cell) ∧
       s.WayClear (some .cell)) ∧
    (let s := judged .pre .drain unfit1
     DiverterSends .pre s.mode s.holds.shelf (s.vacant .cell = true) (holdsAfterRaises unfit1.holds raised2)
         (some (.shelf 1)) ∧
       DiverterSends .pre s.mode s.holds.shelf (s.vacant .cell = true)
         (holdsAfterRaises unfit1.holds (timedOut .pre :: raised2)) (some (.shelf 1)) ∧ s.WayClear (some (.shelf 1))) ∧
    (let s := judged .post .idle atPost
     DiverterSends .post s.mode s.holds.shelf (s.vacant .cell = true) (holdsAfterRaises atPost.holds []) (some .outfeed) ∧
       s.WayClear (some .outfeed)) ∧
    (let s := judged .post .run splashed
     DiverterSends .post s.mode s.holds.shelf (s.vacant .cell = true)
         (holdsAfterRaises splashed.holds (timedOut .post :: raised1)) (some (.shelf 1)) ∧ s.WayClear (some (.shelf 1))) :=
  ⟨⟨pre_cell (by decide +kernel) (by decide +kernel) (by decide +kernel), clear_to (by decide +kernel)⟩,
    ⟨pre_shelf 1 (by decide +kernel) (by decide +kernel) (by decide +kernel) (by decide +kernel) (by decide +kernel),
      pre_shelf 1 (by decide +kernel) (by decide +kernel) (by decide +kernel) (by decide +kernel) (by decide +kernel),
      clear_to (by decide +kernel)⟩,
    ⟨post_out (by decide +kernel) (by decide +kernel), clear_to (by decide +kernel)⟩,
    post_shelf 1 (by decide +kernel) (by decide +kernel) (by decide +kernel) (by decide +kernel) (by decide +kernel),
    clear_to (by decide +kernel)⟩

/-! ### Transfers that end, by sensor or by Recover -/

/-- `r` on its way from `source` to `dest` in `m`, the destination sensor reading occupied; the records `pre` and `post`
stand at the stations. -/
def arriving (m : LineMode) (source dest : Place) (pre post : Option Inspection) (r : Traveler) : State :=
  (sees dest.sensor (moving source dest 5008#32 (inMode m (with1 lab { r with stage := dest.stage, place := .arriving })))).onMask
    fun _ => { pre := pre, post := post }

def passed : Inspection := { ended with phase := .ended .passed }

/-- Boards that leave a station with their record there, and those that reach one while a record stands at the other. -/
theorem witness_TransferEndsAtSensor_station :
    ([(.preStation, .cell, some ended, none), (.preStation, .shelf 1, some ended, some { inspecting with traveler := 2 }),
      (.postStation, .shelf 16, some { ended with traveler := 2 }, some ended), (.postStation, .outfeed, none, some ended),
      (.accumulator, .postStation, some { ended with traveler := 2 }, none),
      (.cell, .flashBelt, some { inspecting with traveler := 2 }, none)] :
        List (Place × Place × Option Inspection × Option Inspection)).all (fun c =>
      let s := arriving .run c.1 c.2.1 c.2.2.1 c.2.2.2 board
      s.transferOf 1 = some { traveler := 1, source := c.1, dest := c.2.1, deadline := some 5008#32 } ∧
        s.traveler 1 = some { board with stage := c.2.1.stage, place := .arriving } ∧ s.mode ≠ .halt ∧
        s.occupied c.2.1.sensor = true ∧ s.mask.pre = c.2.2.1 ∧ s.mask.post = c.2.2.2 ∧ s.engine.board ≠ some 1 ∧
        1 ∉ s.cure.flash ∧ 1 ∉ s.cure.overdue ∧ 1 ∉ s.cure.exit ∧ s.cure.oven = [] ∧
        ShelfSlot.assigned 1 ∉ s.holds.shelf ∧ ShelfSlot.resting 1 ∉ s.holds.shelf) = true := by
  decide +kernel

/-- A RE_CURE board that arrives. -/
def reCured : State := arriving .run .queue .preStation none none { board with route := .reCure }

/-- A board on its way out of the cell while traveler 2 waits at the pre-inspection station. -/
def next2 : Traveler := { atPre with tag := tagB2 }

def leavingCell : State :=
  (arriving .drain .cell .flashBelt (some { ended with traveler := 2 }) none board).onTable fun b =>
    { b with records := putNth b.records 2 (some next2) }

/-- What the spray cell vacant means in the statement. -/
def CellLeft (s : State) : Prop :=
  (∀ n y, n ≠ 1 → s.traveler n = some y → y.stage = .spray → y.place ≠ .present) ∧
    ∀ x ∈ s.table.transfers.filter fun x => x.traveler != 1, x.source ≠ .cell ∧ x.dest ≠ .cell

theorem reCured_cell : CellLeft reCured :=
  ⟨fun _ _ h e => absurd ((gone1 _ h).symm.trans e) nofun, by decide +kernel⟩

theorem leavingCell_cell : CellLeft leavingCell := by
  refine ⟨fun n y h e => ?_, by decide +kernel⟩
  have other : ∀ n, n ≠ 2 → leavingCell.traveler n = _ := fun n k =>
    congrArg Option.join (nth_putNth_other (with1 lab { board with stage := .flash, place := .arriving }).table.records 2 n _ k)
  by_cases k : n = 2
  · subst k
    have : leavingCell.traveler 2 = some next2 := by decide +kernel
    rw [this] at e; cases e; decide
  · rw [other n k] at e; exact nomatch (gone1 _ h).symm.trans e

theorem witness_TransferEndsAtSensor_decides :
    (reCured.mode = .run ∧ reCured.occupied .preArrival = true ∧ reCured.occupied .cellArrival = false ∧
      reCured.transferOf 1 = some { traveler := 1, source := .queue, dest := .preStation, deadline := some 5008#32 } ∧
      (reCured.traveler 1).map (·.route) = some .reCure ∧
      (reCured.table.transfers.filter fun x => x.traveler != 1) = []) ∧
    DiverterSends .pre .run reCured.holds.shelf (CellLeft reCured) [] (some .cell) ∧
    (leavingCell.mode = .drain ∧ leavingCell.traveler 2 = some next2 ∧
      leavingCell.record .pre = some { ended with traveler := 2 } ∧ next2.stage = stationStage .pre ∧
      next2.place = .present ∧ leavingCell.occupied .flashEntry = true ∧ leavingCell.occupied .cellArrival = false ∧
      leavingCell.transferOf 1 = some { traveler := 1, source := .cell, dest := .flashBelt, deadline := some 5008#32 } ∧
      leavingCell.table.transfers.all (fun e => e.source ≠ .preStation ∧ e.dest ≠ .preStation ∧ e.traveler ≠ 2) = true) ∧
    DiverterSends .pre .drain leavingCell.holds.shelf (CellLeft leavingCell) next2.holds (some .cell) :=
  ⟨by decide +kernel, pre_cell (.inl rfl) reCured_cell (by decide), by decide +kernel,
    pre_cell (.inr rfl) leavingCell_cell (by decide)⟩

/-- What Recover meets with a transfer in flight: arrived, back at its source, or seen by neither sensor. -/
theorem witness_RecoverLeavesHalt_transfer :
    ([(.queue, .preStation), (.preStation, .cell), (.cell, .flashBelt), (.accumulator, .postStation),
      (.preStation, .shelf 1), (.postStation, .shelf 16), (.postStation, .outfeed)] : List (Place × Place)).all (fun c =>
      let r : Traveler := { board with stage := c.2.stage, place := .arriving }
      let post : Option Inspection := if c.1 = .postStation then some ended else none
      let e : Transfer := { traveler := 1, source := c.1, dest := c.2, deadline := some 5008#32 }
      let s := (halted (moving c.1 c.2 5008#32 (with1 lab r))).onMask fun m => { m with post := post }
      s.Takes onB 1 ∧ s.mode = .halt ∧ s.io.estop = false ∧ s.table.transfers = [e] ∧ s.traveler 1 = some r ∧
        s.engine.limits = some lims ∧ s.cure.oven = [] ∧ s.cure.flash = [] ∧ s.cure.exit = [] ∧ s.mask.post = post ∧
        ended.traveler = 1 ∧ s.occupied c.2.sensor = false ∧ s.occupied c.1.sensor = false ∧
        (sees c.2.sensor s).occupied c.2.sensor = true ∧ (sees c.1.sensor s).occupied c.1.sensor = true ∧
        (sees c.1.sensor s).occupied c.2.sensor = false) = true ∧
    (inMode .halt (station .post ended atPost)).occupied .outfeedExit = false := by
  decide +kernel

theorem witness_RecoverLeavesHalt_post :
    let held : Traveler := { atPost with holds := [heldOpen] }
    let s := halted (station .post ended atPost)
    let full := ((halted (labOven (inMiddle 40000 99))).onCure fun c => { c with exit := [2, 3] })
    (s.Takes onB 1 ∧ s.mode = .halt ∧ s.io.estop = false ∧ s.table.transfers = [] ∧ s.engine.limits = some lims ∧
      s.record .post = some ended ∧ s.traveler 1 = some atPost ∧ s.occupied .outfeedExit = false ∧
      s.occupied (.shelf 1) = false) ∧
    DiverterSends .post .idle s.holds.shelf True atPost.holds (some .outfeed) ∧
    DiverterSends .post .idle s.holds.shelf True held.holds (some (.shelf 1)) ∧
    (full.Takes onB 1 ∧ full.mode = .halt ∧ full.mask.post = none ∧ full.exitCount = 2 ∧ full.cure.stalled = false ∧
      full.cure.oven.head? = some ovenEntry ∧ full.traveler 1 = some (inMiddle 40000 99) ∧
      full.cure.geometry = some geo ∧ (inMiddle 40000 99).lead = some geo.length) :=
  ⟨by decide +kernel, post_out (by decide) (by decide),
    post_shelf 1 (by decide) (by decide) (by decide +kernel) (by decide +kernel) (by decide +kernel), by decide +kernel⟩

/-! ### The gantry's answers to a dry stroke, an aborted board and an empty cell -/

theorem witness_ArrivedGoesOn_along :
    let b : Point := ⟨1610, 220, 270⟩
    let w := work none .along
    let s (r : Traveler) := awaits (.move 1 b 2000) (some b) w r
    let last : Traveler := { running with passCursor := 3 }
    let gone := (awaits (.move 1 b 2000) (some b) w running).onEngine fun e =>
      { e with cell := .vacant, board := none, work := none }
    let park := (awaits (.move 0 lims.park 500) (some lims.park) w { running with program := .aborted }).onEngine fun e =>
      { e with cell := .parking, work := none }
    ([running, last].all (fun r =>
      (s r).engine.port = .waiting ⟨.move 1 b 2000, some b, 1000, 10⟩ ∧ (s r).engine.cell = .running ∧
        (s r).engine.board = some 1 ∧ (s r).traveler 1 = some r ∧ (s r).engine.work = some w ∧ w.phase = .along ∧
        w.results = none ∧ (s r).engine.limits = some lims ∧ (s r).engine.valve = none) = true) ∧
    (w.passes[running.passCursor + 1]? = some (⟨1610, 330, 270⟩, ⟨110, 330, 270⟩) ∧ w.passes.length = last.passCursor + 1 ∧
      (s last).lastStroke 1 = w.stroke) ∧
    (gone.engine.port = .waiting ⟨.move 1 b 2000, some b, 1000, 10⟩ ∧ gone.engine.cell = .vacant) ∧
    (park.engine.port = .waiting ⟨.move 0 lims.park 500, some lims.park, 1000, 10⟩ ∧ park.engine.cell = .parking ∧
      park.traveler 1 = some { running with program := .aborted }) := by
  decide +kernel

/-- ARRIVED to the second MOVE of the last pass of dry stroke 1 of two, the next one dry. -/
theorem witness_PassDoneEndsPass_arrived :
    let b : Point := ⟨1610, 220, 270⟩
    let w := work none .along
    let r : Traveler := { running with passCursor := 3 }
    let s := (awaits (.move 1 b 2000) (some b) w r).onRecipes fun x =>
      { x with slots := putNth x.slots 1 { slot1 with strokes := [dryStroke, dryStroke] } }
    (s.engine.port = .waiting ⟨.move 1 b 2000, some b, 1000, 10⟩ ∧ s.engine.valve = none ∧ s.engine.cell = .running ∧
      s.engine.board = some 1 ∧ s.traveler 1 = some r ∧ s.engine.work = some w ∧ w.phase = .along ∧
      w.passes.length = r.passCursor + 1 ∧ w.stroke < s.lastStroke 1 ∧
      nth (s.recipeOf r).strokes (w.stroke + 1) = some dryStroke ∧ s.engine.limits = some lims ∧
      (machinePasses lims r.shift dryStroke)[0]? = some (⟨110, 220, 270⟩, ⟨1610, 220, 270⟩)) ∧
    StrokePasses s r dryStroke headCfg lims none r.lotsUsed :=
  ⟨by decide +kernel, rfl, by decide, by decide, by decide +kernel, .inl ⟨rfl, rfl, rfl⟩⟩

/-! ### Hold sets in which a raise opens, opens again or counts -/

/-- A hold set in reason order, its record of `reason` in the state given. -/
def holdsWith (reason : HoldReason) (state : HoldState) : List Hold :=
  [heldBy .maskMissing .released 1, heldBy reason state 2, heldBy .operator .isOpen 2]

theorem witness_HaltEntriesStopLine_holds :
    ([.isOpen, .released] : List HoldState).all (fun x =>
      let r : Traveler := { running with holds := holdsWith .sprayInterrupted x }
      let s := awaits (.pass 1 1610 220 1183) (some ⟨1610, 220, 270⟩) (work (some plan) .along) r
      s.mode ≠ .halt ∧ s.Takes onC 2 ∧ s.engine.cell = .running ∧ s.engine.board = some 1 ∧ s.traveler 1 = some r ∧
        s.leaving 1 = false ∧ (r.holds.map (·.reason.code)) = [0, 6, 13] ∧
        (openHold .sprayInterrupted r.holds).isSome = (x == .isOpen)) = true ∧
    HoldsInOrder (holdsWith .sprayInterrupted .isOpen) ∧ HoldsInOrder (holdsWith .sprayInterrupted .released) :=
  ⟨by decide +kernel, by unfold HoldsInOrder; decide +kernel, by unfold HoldsInOrder; decide +kernel⟩

theorem witness_OvenAdmissionForms_holds :
    ([.isOpen, .released] : List HoldState).all (fun x =>
      let r : Traveler := { dry with holds := holdsWith .cureUnverified x }
      let s := (atFlashEnd r).onRecipes fun y => { y with profiles := [none, none, none, none] }
      s.mode ≠ .halt ∧ s.cure.flash = [1] ∧ s.traveler 1 = some r ∧ s.profileOf r = none ∧ s.leaving 1 = false ∧
        s.entryClear geo = true) = true ∧
    HoldsInOrder (holdsWith .cureUnverified .isOpen) ∧ HoldsInOrder (holdsWith .cureUnverified .released) :=
  ⟨by decide +kernel, by unfold HoldsInOrder; decide +kernel, by unfold HoldsInOrder; decide +kernel⟩

/-- A head of the flash list one second short of its flash minimum, and a tail board 0.1 mm short of the gap. -/
theorem witness_OvenAdmissionForms_waits :
    let early : Traveler := { dry with sprayEnd := some 4941#32 }
    let s := atFlashEnd early
    let near := labOven (inMiddle 2999 0)
    (s.cure.flash.head? = some 1 ∧ s.traveler 1 = some early ∧ (s.recipeOf early).header = some hdr ∧
      early.route ≠ .reCure ∧ (s.io.seconds - 4941#32).toNat + 1 = hdr.flashMin) ∧
    (near.cure.geometry = some geo ∧ near.cure.oven.getLast? = some ovenEntry ∧ near.traveler 1 = some (inMiddle 2999 0) ∧
      (near.recipeOf (inMiddle 2999 0)).header = some hdr ∧ (2999 : Int) - hdr.length + 1 = geo.gap) := by
  decide +kernel

/-- Two boards in the oven: traveler 1 forced OVERDUE, its lifetime dose about to exceed Dlife; traveler 2 forced
PROFILE. -/
def ticked1 : Traveler := { inMiddle 11000 195 with lifeDose := 396 }
def ticked2 : Traveler := { inMiddle 1500 1000 with tag := tagB2, lifeDose := 1000 }

def ovenOfTwo : State :=
  ((labOven ticked1).onTable fun b => { b with records := putNth b.records 2 (some ticked2) }).onCure fun c =>
    { c with oven := [{ ovenEntry with form := .overdue }, { ovenEntry with traveler := 2, form := .profile, range := none }] }

/-- The hold that traveler 1's doses raise. -/
def overLife : Hold := newHold lab 5001#32 .overCure .cureMonitor .cure (.overCure .life 200 401)

def tickOutcome1 : TickOutcome :=
  { record := { ticked1 with passDose := 200, lifeDose := 401, holds := [overLife] }
    notices := [.holdRaised tagB1 1 .overCure .cureMonitor .cure overLife.level overLife.detail,
      .overcure tagB1 1 200 401 .life]
    marked := true }

def tickOutcome2 : TickOutcome :=
  { record := { ticked2 with passDose := 1001, lifeDose := 1001 }, notices := [], marked := false }

theorem witness_SecondTickAccruesDose_boards :
    (ovenOfTwo.cure.oven.map (·.traveler)).Nodup ∧
      List.Forall₂ (TickGives ovenOfTwo) ovenOfTwo.cure.oven [tickOutcome1, tickOutcome2] :=
  ⟨by decide +kernel, .cons
    ⟨ticked1, { ticked1 with passDose := 200, lifeDose := 401 }, [], _, by decide +kernel, by decide +kernel,
      List.Pairwise.nil,
      ⟨geo, 11000, hdr, by decide +kernel, by decide +kernel, by decide +kernel,
        .inr ⟨2, 20000, warm, by decide +kernel, by decide +kernel, by decide +kernel, by decide +kernel,
          fun j y h1 h2 h => by
            obtain rfl : j = 1 := by omega
            cases h; decide +kernel,
          by decide +kernel, .inr ⟨by decide +kernel, 120, 5, by decide +kernel, nofun,
            fun _ => ⟨prof, by decide +kernel, by decide +kernel, by decide +kernel⟩, by decide +kernel, rfl⟩⟩⟩,
      .inr ⟨by decide +kernel, by decide +kernel, prof, .life, by decide +kernel, .inr ⟨by decide +kernel, by decide +kernel, rfl⟩,
        by decide +kernel, rfl, rfl⟩, by decide +kernel⟩
    (.cons
      ⟨ticked2, { ticked2 with passDose := 1001, lifeDose := 1001 }, [], [], by decide +kernel, by decide +kernel,
        List.Pairwise.nil,
        ⟨geo, 1500, hdr, by decide +kernel, by decide +kernel, by decide +kernel,
          .inr ⟨1, 10000, warm, by decide +kernel, by decide +kernel, by decide +kernel, by decide +kernel,
            fun j y h1 h2 _ => by omega,
            by decide +kernel, .inr ⟨by decide +kernel, 120, 1, by decide +kernel, fun _ => rfl,
              fun h => absurd rfl h, by decide +kernel, rfl⟩⟩⟩,
        .inl ⟨.inl rfl, rfl, rfl, rfl⟩, by decide +kernel⟩ .nil)⟩

/-- A board over a FAILED zone with CURE_UNVERIFIED counted, and one whose pass dose already exceeds. -/
theorem witness_SecondTickAccruesDose_failed :
    let r : Traveler := { inMiddle 21000 10 with holds := holdsWith .cureUnverified .isOpen }
    let s := (labOven r).onCure fun c => { c with zones := [warm, warm, { warm with state := .failed }] }
    s.traveler 1 = some r ∧ s.leaving 1 = false ∧ nth s.cure.zones 3 = some { warm with state := .failed } ∧
      nth geo.bounds 3 = some 40000 ∧ ((21000 : Nat) : Int) - (hdr.length / 2 : Nat) = 20000 ∧
      (r.holds.map (·.reason.code)) = [0, 11, 13] ∧ prof.passMax < (inMiddle 11000 196).passDose + 5 := by
  decide +kernel

/-- At the oven end: each forced form at the required dose and below it, PROFILE, and a hold that counts. -/
theorem witness_OvenExitMoveJudgesDose_forms :
    ([(.none, 99), (.overdue, 99), (.dwell, 100), (.profile, 0)] : List (ForcedForm × Nat)).all (fun c =>
      let r : Traveler := { inMiddle 40000 c.2 with holds := holdsWith .underCure .isOpen }
      let s := (labOven r).onCure fun y => { y with oven := [{ ovenEntry with form := c.1 }], exit := [2] }
      s.cure.oven = [{ ovenEntry with form := c.1 }] ∧ s.traveler 1 = some r ∧ r.lead = some geo.length ∧ s.mode ≠ .halt ∧
        s.exitCount < 2 ∧ s.leaving 1 = false ∧ s.profileOf r = some prof ∧ prof.required = 100) = true ∧
    HoldsInOrder (holdsWith .underCure .isOpen) :=
  ⟨by decide +kernel, by unfold HoldsInOrder; decide +kernel⟩

/-! ### Recipes -/

/-- A LOADING slot of three windows, two with a mask site, that passes every check of FinishRecipe. -/
theorem witness_RecipeOpensAndValidates_sites :
    let x : RecipeSlot := { slot1 with
      state := .loading, windows := [win, { win with mask := 2 }, { win with mask := 1 }]
      sites := [corner, ⟨.boot, .required, 0, 0⟩]
      strokes := [strk, { strk with window := 3 }, { dryStroke with head := 2, height := 9999, startX := -5 }] }
    let s := labSlot x
    s.Takes onA 0 ∧ s.recipes.slots.length = 8 ∧ nth s.recipes.slots 1 = some x ∧ x.header = some hdr ∧ x.windows ≠ [] ∧
      x.strokes ≠ [] ∧
      (x.windows.all fun w => 0 ≤ w.x0 ∧ w.x1 ≤ hdr.length ∧ 0 ≤ w.y0 ∧ w.y1 ≤ hdr.width ∧ w.mask ≤ x.sites.length) ∧
      (x.sites.all fun y => 0 ≤ y.x ∧ y.x ≤ hdr.length ∧ 0 ≤ y.y ∧ y.y ≤ hdr.width) ∧
      (x.strokes.all fun k => k.head ≤ s.lots.heads.length ∧ k.window ≤ x.windows.length ∧
        (k.window = 0 → k.valveOn = false) ∧ (k.startX ≠ k.endX ∨ k.startY ≠ k.endY)) ∧
      nth s.lots.heads 2 = some none ∧ (List.range 4).all (fun n =>
        (0 : Int) ≤ strk.startX + n * strk.stepX ∧ strk.startX + n * strk.stepX ≤ 2000 ∧
        0 ≤ strk.startY + n * strk.stepY ∧ strk.startY + n * strk.stepY ≤ 1500 ∧ strk.endX + n * strk.stepX ≤ 2000 ∧
        strk.endY + n * strk.stepY ≤ 1500) = true := by
  decide +kernel

/-- Site and stroke records that are not well formed, and lists without room for the records sent. -/
theorem witness_PutRecordsAppendOrRefuse_refused :
    let site : SiteFields := { kind := 2, policy := 1, x := -32768, y := 32767 }
    let k : StrokeFields := ⟨2, 16, 0, 0, 5, 0, 30, 64, 0, 0, 1, 1⟩
    let x : RecipeSlot := { loading [win] (List.replicate 96 strk) with sites := List.replicate 12 corner }
    ((SiteFields.read site).isSome = true ∧ (SiteFields.read { site with kind := 9 }).isSome = false ∧
      (StrokeFields.read k).isSome = true ∧ (StrokeFields.read { k with head := 0 }).isSome = false) ∧
    ((labSlot x).Takes onA 0 ∧ nth (labSlot x).recipes.slots 1 = some x ∧ x.state = .loading ∧ 12 < x.sites.length + 1 ∧
      96 < x.strokes.length + 1) ∧
    nth (labSlot x).recipes.slots 2 = some emptySlot := by
  decide +kernel

/-! ### One step of each family, by the manual's worked examples and rules -/

/-- R4: the first board gets traveler 1, joins the queue and is answered with its number. -/
theorem test_induct :
    shows (exec (.induct onB tagB1 1) lab) (fun u =>
      u.table.queue = [1] ∧ u.table.index = [(tagB1, 1)] ∧ (u.link .b).answers = [⟨1, 1, 7#8, .ok, [.int 1 1]⟩]) := by
  decide +kernel

/-- R8 and R174: START in DRAIN posts MODE_CHANGED; a link that listens and has trigger 1 is called. -/
theorem test_start_notice :
    after (exec (.start onB) (noticed 0)) (fun u =>
      (u.mode, (u.link .b).queue.map (·.kind), (u.link .b).attention, u.io.outputs.green)) =
    some (.run, [.modeChanged .drain .run], true, .steady) := by
  decide +kernel

/-- R10: a transfer timer that runs out halts the line with cause JAM and the board. -/
theorem test_transfer_timeout :
    after (exec (.transferTimerExpiry 1) (moving .queue .preStation 5000#32 (inMode .run (with1 lab board)))) (fun u =>
      (u.mode, u.table.cause, u.table.detail, u.cure.output, u.io.outputs.red)) =
    some (.halt, some .jam, some (.board tagB1 1), 0, .blinking) := by
  decide +kernel

/-- R17 and R56: a board that reaches the pre-inspection station closes the gate and opens its inspection. -/
theorem test_arrival_opens_inspection :
    let s := (sees .preArrival (moving .queue .preStation 5008#32 (inMode .run (with1 lab
      { board with stage := .preInspect, place := .arriving })))).onOutputs fun o => { o with infeedGate := true }
    after (exec (.transferEnd 1) s) (fun u =>
      (u.table.transfers, u.io.outputs.infeedGate, u.mask.pre.map (fun i => (i.phase, i.deadline)))) =
    some ([], false, some (.isOpen, some 5030#32)) := by
  decide +kernel

/-- The gantry and head of the worked example of chapter 5; stroke 1 is dry, from (50, 50) to (100, 200). -/
def cell5 (c : CellState) (r : Traveler) (w : Option StrokeWork) (p : PortState) (reference : Option Point) : State :=
  let dryStroke : Stroke :=
    { strk with window := 0, startX := 50, startY := 50, endX := 100, endY := 200, passes := 1, valveOn := false }
  { inMode .run (with1 lab r) with
    recipes := { slots := putNth lab.recipes.slots 1 { slot1 with strokes := [dryStroke, strk] },
                 profiles := lab.recipes.profiles }
    lots := { lab.lots with heads := [some { headCfg with transit := 3000 }, none] }
    engine := { lab.engine with
      cell := c, board := some 1, reference := reference, work := w, port := p
      limits := some
        { xMin := 0, xMax := 100000, yMin := 0, yMax := 60000, zMin := 0, zMax := 5000, origin := ⟨50000, 20000, 1000⟩,
          park := ⟨50000, 20000, 3000⟩, parkSpeed := 3000 } } }

def board5 : Traveler := { sprayBoard with fiducial := some (.offset 12 (-7)) }

/-- 05, worked example: the first MOVE goes to (50062, 20043, 1240) at transit speed, expected in 588 ms, its deadline
1088 ms after sending. -/
theorem test_first_move :
    after (exec .programStart (cell5 .ready board5 none .quiet (some ⟨50000, 20000, 3000⟩))) (fun u =>
      (u.engine.cell, u.engine.port, (u.traveler 1).map (fun r => (r.program, r.strokeCursor)))) =
    some (.running, .waiting ⟨.move 1 ⟨50062, 20043, 1240⟩ 3000, some ⟨50062, 20043, 1240⟩, 1088, 0⟩, some (.running, 1)) := by
  decide +kernel

/-- 05, worked example of an E-stop 640 ms into a pass: the draw is 142 × 640 nL. -/
theorem test_estop_draw :
    let s := lab.onEngine fun e => { e with valve := some { head := 1, flow := 142, duration := 1268, openMs := 640 } }
    after (exec .estopAssertion s) (fun u =>
      (u.engine.valve, (nth u.lots.records 1).join.map (fun m => (m.remaining, m.dispensed)), u.io.estop, u.mode)) =
    some (none, some (2909120, 1090880), true, .idle) := by
  decide +kernel

/-- The same example: taken by the table, the assertion halts the line, sends STOP, aborts the program and raises
SPRAY_INTERRUPTED with the stroke and pass. -/
theorem test_estop_aborts :
    let r : Traveler := { board5 with program := .running, strokeCursor := 2, passCursor := 1 }
    let p : PortState := .waiting ⟨.pass 1 0 0 1183, none, 1768, 640⟩
    let s := (cell5 .running r (some (work (some plan) .along)) p none).onIo fun io =>
      { io with estop := true, estopHanded := true }
    shows (exec .estopTaken s) (fun u =>
      u.mode = .halt ∧ u.table.cause = some .estop ∧ u.engine.cell = .aborted ∧
        u.engine.port = .waiting ⟨.stop, none, 500, 0⟩ ∧
        (u.traveler 1).any (fun r => r.program = .aborted ∧ r.sprayEnd = some 5000#32 ∧
          r.holds.map (·.reason) = [.sprayInterrupted] ∧ r.holds.map (·.detail) = [some (.cursors 2 1)])) := by
  decide +kernel

/-- The same example: Recover sends the park MOVE, timed over the diagonal, its deadline 39,409 ms after sending. -/
theorem test_recover_parks :
    after (exec (.recover onB) (halted (cell5 .aborted board5 none .quiet none))) (fun u =>
      (u.mode, u.engine.cell, u.engine.port)) =
    some (.idle, .parking, .waiting ⟨.move 0 ⟨50000, 20000, 3000⟩ 3000, some ⟨50000, 20000, 3000⟩, 39409, 0⟩) := by
  decide +kernel

/-- 05, worked example: PASS_DONE at 1262 ms closes the valve and draws 142 × 1262 nL; the MOVE to the next pass covers
110 in 37 ms. -/
theorem test_pass_done_early :
    let r : Traveler := { board5 with program := .running, strokeCursor := 2, passCursor := 2 }
    let w : StrokeWork :=
      { stroke := 2, head := 1, transit := 3000, results := some plan, phase := .along,
        passes := machinePasses { lims with origin := ⟨50000, 20000, 1000⟩ } (12, -7) strk }
    let p : PortState := .waiting ⟨.pass 1 51612 20413 1183, some ⟨51612, 20413, 1240⟩, 1768, 1262⟩
    let s := (cell5 .running r (some w) p none).onEngine fun e =>
      { e with valve := some { head := 1, flow := 142, duration := 1268, openMs := 1262 } }
    after (exec .passDone s) (fun u =>
      ((nth u.lots.records 1).join.map (·.dispensed), (u.traveler 1).map (·.passCursor), u.engine.port)) =
    some (some 1179204, some 3, .waiting ⟨.move 1 ⟨51612, 20523, 1240⟩ 3000, some ⟨51612, 20523, 1240⟩, 537, 0⟩) := by
  decide +kernel

/-- 03, worked example: mounted at line second 10,000 with age 60, the mix stamp is 6,400. -/
theorem test_mount_lot :
    let s := (lotsOf [none, some lot1, none, some (gone 0x4E#8)] [4]).onIo fun io => { io with seconds := 10000#32 }
    after (exec (.mountLot onA 1 ⟨tagB1, 4, 2000, 60, 240, 20, 600⟩) s) (fun u =>
      (u.lots.map, (nth u.lots.records 1).join.map (fun m => (m.state, m.remaining, m.mixStamp)), u.lots.unmount)) =
    some ([some 1, none], some (.mounted, 2000000, 6400), [4]) := by
  decide +kernel

/-- 03, worked example: an EXPIRED lot on a head refuses a mount; unmounted, it joins the order behind record 4. -/
theorem test_mount_over_expired :
    let m : Lot := { lot1 with state := .expired }
    let s := lab.onLots fun b => { b with records := [some m, none, none, some (gone 0x4E#8)], unmount := [4] }
    after (exec (.mountLot onA 1 ⟨tagB1, 4, 2000, 60, 240, 20, 600⟩) s) (statuses .a) = some [.inUse] ∧
      after (exec (.unmountLot onA 1) s) (fun u => (u.lots.unmount, u.lots.map)) = some ([4, 1], [none, none]) := by
  decide +kernel

/-- 07, worked example: board A is admitted ordinary, I narrows to its range and the setpoint moves to 858;
its output is 5 mV per mm/min (R180). -/
theorem test_admission :
    let h : Header := { hdr with flashMin := 120, dwellMin := 300, dwellMax := 420 }
    let s := ((atFlashEnd { dry with sprayEnd := some 4880#32 }).onRecipes fun x =>
        { x with slots := putNth x.slots 1 { slot1 with header := some h } }).onCure fun c =>
      { c with geometry := some { geo with length := 60000 }, setpoint := 0, output := 0 }
    shows (exec .ovenAdmission s) (fun u =>
      u.cure.rangeLow = 858 ∧ u.cure.rangeHigh = 1200 ∧ u.cure.setpoint = 858 ∧ u.cure.output = 858 ∧
        u.cure.millivolts = 4290 ∧ u.cure.stopUp = false ∧ u.cure.flash = [] ∧ u.cure.oven.map (·.form) = [.none]) := by
  decide +kernel

/-- 08, worked example: the tick at line second 4531 takes the pass dose from 11,990 to 12,020, over a Dmax of
12,000. -/
theorem test_over_cure :
    let p : Profile :=
      { base := 60, weights := [1, 2, 3, 4, 6, 8, 10, 12, 15, 18, 21, 24, 27, 30, 30, 30], required := 8000,
        passMax := 12000, lifeMax := 20000 }
    let s := ((labOven (inMiddle 11000 11990)).onRecipes fun x => { x with profiles := [some p, none, none, none] }).onCure
      fun c => { c with zones := [warm, { warm with last := some 125 }, warm] }
    after (exec .secondTick s) (fun u =>
      (u.cure.overCured, (u.traveler 1).map (fun r => (r.passDose, r.lifeDose, r.holds.map (·.reason))))) =
    some ([1], some (12020, 12020, [.overCure])) := by
  decide +kernel

/-- 08, worked example: a board at the oven end with the exit count at 2 stalls the belt, the setpoint kept. -/
theorem test_stall :
    after (exec .beltAdvance ((labOven (inMiddle 39999 150)).onCure fun c => { c with exit := [2, 3] })) (fun u =>
      (u.cure.stalled, u.cure.output, u.cure.setpoint, u.io.outputs.amber)) =
    some (true, 0, 1000, .blinking) := by
  decide +kernel

/-- R125: the twentieth invalid sample in a row fails a zone; the fourth valid one restores it. R124: the fraction is
dropped toward zero only after the range test. -/
theorem test_sampling :
    let s := lab.onCure fun c =>
      { c with zones := [{ warm with state := .holding, invalidRun := 19 }, { warm with state := .failed, validRun := 3 },
                         { warm with state := .holding, invalidRun := 18 }] }
    let shows (x : Rat) : ChannelSignals := ⟨true, true, false, x⟩
    after (exec (.samplingRound [⟨true, true, true, 100⟩, shows 450, shows (1801 / 4)]) s) (fun u =>
        u.cure.zones.map (fun z => (z.state, z.last))) =
      some [(.failed, some 120), (.normal, some 450), (.holding, some 120)] ∧
    [(1799 : Rat) / 4, -1 / 2, -50, -101 / 2, 1801 / 4].map (fun x => channelSample (shows x)) =
      [some 449, some 0, some (-50), none, none] := by
  decide +kernel

/-- R73 and R140: one free slot is the exit diverter's; the pre diverter leaves the board waiting. -/
theorem test_exit_reserve :
    let pre := shelved 15 (inMode .run (station .pre ended { atPre with holds := [heldOpen] }))
    let post := shelved 15 (inMode .run (station .post ended { atPost with holds := [heldOpen] }))
    after (exec .preDiverterDecision pre) (fun u => (u.table.transfers.length, u.io.outputs.preDiverter)) =
        some (0, .rest) ∧
      after (exec .exitDiverterDecision post) (fun u => (u.io.outputs.exitDiverter, u.io.outputs.slotSelect)) =
        some (.shelf, 16) := by
  decide +kernel

/-- R74: a release in RUN hands the board to the pre diverter, which sends it to the cell. -/
theorem test_release_sends_board :
    let s := inMode .run (station .pre ended { atPre with holds := [heldOpen] })
    after (exec (.releaseHold onC tagB1 0) s) (fun u =>
      (statuses .c u, u.engine.cell, u.io.outputs.preDiverter, (u.traveler 1).map (·.stage))) =
    some ([.ok], .loading, .line, some .spray) := by
  decide +kernel

/-- R66: in RUN, Complete of an unchecked REQUIRED site and no offset raises two holds, and the shelf takes the board. -/
theorem test_complete_raises :
    let s := inMode .run (sited (station .pre inspecting { atPre with sites := [.unchecked] }))
    after (exec (.complete onC tagB1) s) (fun u =>
      ((u.link .c).answers.map (fun a => (a.status, a.fields)), (u.traveler 1).map (fun r => (r.holds.map (·.reason), r.stage)))) =
    some ([(.ok, [.int 1 2])], some ([.maskMissing, .fiducial], .shelved)) := by
  decide +kernel

/-- R157: TOUCH_UP over the recipe's one stroke brings the board back to the queue; a stroke beyond it is INVALID. -/
theorem test_dispose_touch_up :
    after (exec (.dispose onC tagB1 (.touchUp 1 1)) (onShelf resting)) (fun u =>
        (statuses .c u, u.table.queue, (u.traveler 1).map (fun r => (r.route, r.stage, r.lifeDose)))) =
      some ([.ok], [1], some (.touchUp 1 1, .queued, 50)) ∧
    after (exec (.dispose onC tagB1 (.touchUp 1 2)) (onShelf resting)) (statuses .c) = some [.invalid] := by
  decide +kernel

/-- R172: TAKE of two of three. -/
theorem test_take :
    after (exec (.take onB 2) (noticed 3)) (fun u => ((u.link .b).queue.length, statuses .b u)) = some (1, [.ok]) := by
  decide +kernel

/-- R163: the bytes of a Peek on link A, received one after another, complete it. -/
theorem test_reception :
    (((frameBytes 39 0 7#8 []).drop 1).foldl
        (fun (x : Reception × List Instr) b =>
          ((receiveByte .a x.1 b).1, x.2 ++ (receiveByte .a x.1 b).2.toList)) (.inFrame [] 0, [])) =
      (.searching, [.peek onA]) := by
  decide +kernel

/-- R183: every strap pin grounded gives level 0 on every link, two heads and three zones. -/
theorem test_straps_grounded :
    after (exec (.resetPin ⟨false, false, false, false, false, false, false, false, false⟩) lab) (fun u =>
      (u.io.straps, u.mode, u.io.seconds)) =
    some ({ levelA := 0, levelB := 0, levelC := 0, heads := 2, zones := 3 }, .idle, 0#32) := by
  decide +kernel

/-- No row spells a word, so the decoder reads none and the queue stands. -/
theorem test_no_word : decodeTableWord 32 0 = none ∧ (lab.withFetchWord 32 0).pending = [] := by decide +kernel

end Sys2Proof.Tests
end

section
/-! PROOF of the family of recipes: a request that writes one recipe slot, a request answered LEVEL, and DropRecipe
with the two requests that find the slot empty afterwards (R4, R26, R37). -/

namespace Sys2Proof.Machine

/-! ### Numbers in and out of a range -/

theorem nth_outside {α : Type} {l : List α} {n : Nat} (h : n = 0 ∨ l.length < n) : nth l n = none :=
  Option.eq_none_iff_forall_ne_some.2 fun _ hs => by
    have hin := nth_some hs
    omega

theorem within_iff {lo hi n : Nat} : within lo hi n = true ↔ lo ≤ n ∧ n ≤ hi := by
  simp [within]

/-! ### Two updates of one link, and updates that agree on it -/

theorem onLink_onLink (s : State) (l : Link) (f g : LinkState → LinkState) :
    (s.onLink l f).onLink l g = s.onLink l fun x => g (f x) := by cases l <;> rfl

theorem onLink_congr {s : State} {l : Link} {f g : LinkState → LinkState} (h : f (s.link l) = g (s.link l)) :
    s.onLink l f = s.onLink l g := by
  cases l <;> simp only [State.link, LinkInterfaces.link] at h <;>
    simp only [State.onLink, State.onLinks, LinkInterfaces.onLink, h]

/-! ### A frame whose effective level is too weak (R166) -/

/-- The branch of the service that a frame with room, no request in service and a level field of 0 to 3 takes when its
effective level is weaker than needed. -/
theorem serve_level {s : State} {q : Req} {need : Nat} (code : Nat) (owner : Nat → State → State × Reply)
    (h : s.Takes q 3) (hw : need < s.effective q) :
    s.serve q code need owner = s.onLink q.link fun l => l.frameEnded.answer
      { code := code, level := s.effective q, corr := q.corr, status := .level, fields := [u1 need] } := by
  obtain ⟨hroom, hidle, halone, hlevel, -⟩ := h
  have hlink : (s.onLink q.link LinkState.frameEnded).link q.link = (s.link q.link).frameEnded := by
    simp [State.link]
  have hfree : (s.link q.link).frameEnded.answersFull = false := by
    simp [LinkState.answersFull, LinkState.placesTaken, LinkState.frameEnded, hidle, hroom]
  have hidle' : (s.link q.link).frameEnded.inService = false := hidle
  have heff : (s.onLink q.link LinkState.frameEnded).effective q = s.effective q := rfl
  simp [State.serve, hlink, hfree, hidle', halone, Nat.not_lt.2 hlevel, heff, hw, onLink_onLink]

/-- The interface's LEVEL answer is the one an owner open to every level gives when it refuses LEVEL: a service that
is over leaves no trace. -/
theorem serve_weak {s : State} {q : Req} {need : Nat} (code : Nat) (owner : Nat → State → State × Reply)
    (h : s.Takes q 3) (hw : need < s.effective q) :
    s.serve q code need owner = s.serve q code 3 fun _ t => refuse t .level [u1 need] := by
  have hidle : (s.link q.link).inService = false := h.2.1
  rw [serve_level code owner h hw, serve_accepted s q code 3 _ (takes_accepts h)]
  simp only [refuse, onLink_onLink]
  refine onLink_congr ?_
  simp [LinkState.answer, LinkState.finish, LinkState.frameEnded, hidle]

/-- A request whose effective level is too weak is answered LEVEL with the level it needs, and nothing else changes
(R166). -/
theorem request_weak {s : State} {q : Req} {need : Nat} (code : Nat) (owner : Nat → State → State × Reply)
    (h : s.Takes q 3) (hw : need < max (s.strapped q.link) q.level) :
    ∃ u, request q code need owner s = .next u ∧ Done s u q code .level [u1 need] [] [] := by
  have hr : request q code need owner s = request q code 3 (fun _ t => refuse t .level [u1 need]) s := by
    unfold request
    rw [serve_weak code owner h hw]
  rw [hr]
  exact refused code h rfl

/-! ### A request that writes one recipe slot -/

/-- A taken request whose owner accepts with one recipe slot written: that slot becomes `y`, and no notice is posted. -/
theorem request_setSlot {s : State} {q : Req} {need slot : Nat} {x y : RecipeSlot} (code : Nat)
    {owner : Nat → State → State × Reply} {fields : List Field} (h : s.Takes q need)
    (hx : nth s.recipes.slots slot = some x)
    (ho : owner (max (s.strapped q.link) q.level) (s.inServiceOf q) =
      accept ((s.inServiceOf q).setSlot slot y) fields) :
    ∃ u, request q code need owner s = .next u ∧ Done s u q code .ok fields [] [.recipes] ∧
      SlotBecomes s u slot y := by
  obtain ⟨hu, hdone⟩ := request_done code h ho (happened_onRecipes _ _)
  exact ⟨_, hu, hdone, nth_putNth_live y hx, fun n hn => nth_putNth_other _ _ _ _ hn, rfl⟩

/-! ### DropRecipe (R37) -/

theorem exec_dropRecipe (q : Req) (slot : Nat) (s : State) :
    exec (.dropRecipe q slot) s = request q 15 0 (fun _ => ownDropRecipe slot) s := rfl

theorem ownDropRecipe_outside {s : State} {slot : Nat} (h : nth s.recipes.slots slot = none) :
    ownDropRecipe slot s = refuse s .invalid := by
  simp [ownDropRecipe, h]

theorem ownDropRecipe_inUse {s : State} {slot : Nat} {x : RecipeSlot} (hx : nth s.recipes.slots slot = some x)
    (h : x.useCount ≠ 0) : ownDropRecipe slot s = refuse s .inUse := by
  simp [ownDropRecipe, hx, h]

theorem ownDropRecipe_unused {s : State} {slot : Nat} {x : RecipeSlot} (hx : nth s.recipes.slots slot = some x)
    (h : x.useCount = 0) : ownDropRecipe slot s = accept (s.setSlot slot emptySlot) := by
  simp [ownDropRecipe, hx, h]

/-! ### The slot that DropRecipe leaves, as Induct and OpenRecipe find it -/

theorem exec_induct (q : Req) (tag : Text) (slot : Nat) (s : State) :
    exec (.induct q tag slot) s = request q 1 1 (fun _ => ownInduct tag slot) s := rfl

theorem exec_openRecipe (q : Req) (slot : Nat) (h : Header) (s : State) :
    exec (.openRecipe q slot h) s = request q 10 0 (fun _ => ownOpenRecipe slot h) s := rfl

/-- Induct of a new tag refuses a slot that is not READY (R4). -/
theorem ownInduct_notReady {s : State} {tag : Text} {slot : Nat} {x : RecipeSlot} (hm : s.mode ≠ .drain)
    (hf : tagForm tag = true) (hs : within 1 Config.recipeCount slot = true) (ht : s.tagged tag = none)
    (hx : nth s.recipes.slots slot = some x) (hr : x.state ≠ .ready) :
    ownInduct tag slot s = refuse s .notReady := by
  simp [ownInduct, hm, hf, hs, ht, hx, hr]

/-- OpenRecipe of a well-formed header opens a slot that is neither LOADING nor in use (R26). -/
theorem ownOpenRecipe_opens {s : State} {slot : Nat} {h : Header} {x : RecipeSlot}
    (hf : firstAtFault (headerChecks slot h) = none) (hx : nth s.recipes.slots slot = some x)
    (hl : x.state ≠ .loading) (hu : x.useCount = 0) :
    ownOpenRecipe slot h s = accept (s.setSlot slot
      { x with state := .loading, header := some h, windows := [], sites := [], strokes := [] }) := by
  simp [ownOpenRecipe, hf, hx, hl, hu]

/-- Induct on an EMPTY slot of the table is refused NOT_READY. -/
theorem induct_emptySlot {s : State} {q : Req} {tag : Text} {slot : Nat}
    (hslot : within 1 Config.recipeCount slot = true) (he : nth s.recipes.slots slot = some emptySlot)
    (h : s.Takes q 1) (hm : s.mode ≠ .drain) (hf : tagForm tag = true) (ht : s.tagged tag = none) :
    ∃ u, exec (.induct q tag slot) s = .next u ∧ Done s u q 1 .notReady [] [] [] := by
  rw [exec_induct]
  exact refused 1 h (ownInduct_notReady (s := s.inServiceOf q) hm hf hslot ht he (by decide))

/-- OpenRecipe with a well-formed header opens an EMPTY slot. -/
theorem openRecipe_emptySlot {s : State} {q : Req} {slot : Nat} {h : Header}
    (he : nth s.recipes.slots slot = some emptySlot) (hq : s.Takes q 0)
    (hf : firstAtFault (headerChecks slot h) = none) :
    ∃ u, exec (.openRecipe q slot h) s = .next u ∧ Done s u q 10 .ok [] [] [.recipes] ∧
      SlotBecomes s u slot { emptySlot with state := .loading, header := some h } := by
  rw [exec_openRecipe]
  exact request_setSlot 10 hq he (ownOpenRecipe_opens (s := s.inServiceOf q) hf he (by decide) rfl)

/-- Settles O25, by DropRecipe's answers LEVEL, INVALID, IN_USE and OK and, after the drop, by what Induct and OpenRecipe
make of an EMPTY slot. -/
theorem dropRecipeEmptiesSlot : Obligations.DropRecipeEmptiesSlot := by
  unfold Obligations.DropRecipeEmptiesSlot
  intro s q slot hlen
  rw [exec_dropRecipe]
  refine ⟨fun hq hw => request_weak 15 _ hq hw, fun hq hout => ?invalid,
    fun x hq hx => ⟨fun hn => ?inUse, fun h0 => ?drop⟩⟩
  case invalid =>
    have hnone : nth s.recipes.slots slot = none := nth_outside (hlen.symm ▸ hout)
    exact refused 15 hq (ownDropRecipe_outside (s := s.inServiceOf q) hnone)
  case inUse => exact refused 15 hq (ownDropRecipe_inUse (s := s.inServiceOf q) hx hn)
  case drop =>
    obtain ⟨u, hu, hdone, hslot⟩ :=
      request_setSlot 15 (owner := fun _ => ownDropRecipe slot) hq hx (ownDropRecipe_unused hx h0)
    have hwithin : within 1 Config.recipeCount slot = true :=
      within_iff.2 ((show _ = Config.recipeCount from hlen) ▸ nth_some hx)
    have hempty : nth u.recipes.slots slot = some emptySlot := hslot.1
    exact ⟨u, hu, hdone, hslot, fun p tag hp hm hf ht => induct_emptySlot hwithin hempty hp hm hf ht,
      fun p h hp hf => openRecipe_emptySlot hempty hp hf⟩

end Sys2Proof.Machine
end

section
/-! PROOF of the family of line I/O, time base and straps: a reset latches the straps from its pins, and every other
command leaves them (R183). The straps stand in line I/O, of which a calm stretch changes the outputs alone; so each
operation has one lemma, from its calm stretch where it has one, and each command cites those of its operations. -/

namespace Sys2Proof.Machine

/-! ### Straps over the shared operations -/

theorem Calm.straps {s u : State} (h : Calm s u) : u.io.straps = s.io.straps := by rw [h.io]

/-- A fold whose steps leave the straps leaves them. -/
theorem foldl_straps {α : Type} {f : State → α → State} (h : ∀ s a, (f s a).io.straps = s.io.straps)
    (l : List α) (s : State) : (l.foldl f s).io.straps = s.io.straps :=
  List.foldlRecOn l f (motive := fun u => u.io.straps = s.io.straps) rfl fun u hu a _ => (h u a).trans hu

section

variable (s : State)

@[simp] theorem setMode_io (m : LineMode) (c : Option HaltCause) (d : Option HaltDetail) :
    (s.setMode m c d).io = s.io := rfl
@[simp] theorem driveOutput_io : s.driveOutput.io = s.io := rfl
@[simp] theorem setLot_io (n : Nat) (m : Lot) : (s.setLot n m).io = s.io := rfl
@[simp] theorem setSlot_io (n : Nat) (x : RecipeSlot) : (s.setSlot n x).io = s.io := rfl
@[simp] theorem setProfile_io (n : Nat) (p : Option Profile) : (s.setProfile n p).io = s.io := rfl
@[simp] theorem quiet_io (p : Option Point) : (s.quiet p).io = s.io := rfl

/-! ### The start and the end of a transfer -/

@[simp] theorem leaveSource_straps (t : Nat) (a : Place) : (s.leaveSource t a).io.straps = s.io.straps := by
  cases a <;> rfl

@[simp] theorem expect_straps (t : Nat) (d : Place) : (s.expect t d).io.straps = s.io.straps :=
  (calm_expect s t d).straps

@[simp] theorem beginTransfer_straps (t : Nat) (a d : Place) : (s.beginTransfer t a d).io.straps = s.io.straps := by
  have hexamine (u : State) : u.examineFlash.io.straps = u.io.straps := (calm_examineFlash u).straps
  have hselect (u : State) : u.reselect.io.straps = u.io.straps := rfl
  unfold State.beginTransfer
  dsimp only
  split
  · simp [hexamine, hselect]
  · simp [hselect]

@[simp] theorem finishTransfer_straps (e : Transfer) : (s.finishTransfer e).io.straps = s.io.straps :=
  (calm_finishTransfer s e).straps

@[simp] theorem startTransfer_straps (t : Nat) (a d : Place) : (s.startTransfer t a d).io.straps = s.io.straps := by
  unfold State.startTransfer
  dsimp only
  split
  · exact beginTransfer_straps s t a d
  · rw [finishTransfer_straps, beginTransfer_straps]

@[simp] theorem retire_straps (t : Nat) (o : RetireOutcome) : (s.retire t o).io.straps = s.io.straps :=
  (calm_retire s t o).straps

@[simp] theorem freeSlot_straps (t : Nat) : (s.freeSlot t).io.straps = s.io.straps := (calm_freeSlot s t).straps

/-! ### The diverters and the inspections -/

@[simp] theorem decidePre_straps : s.decidePre.io.straps = s.io.straps := (calm_decidePre s).straps
@[simp] theorem decideExit_straps : s.decideExit.io.straps = s.io.straps := (calm_decideExit s).straps
@[simp] theorem decideFor_straps (t : Nat) : (s.decideFor t).io.straps = s.io.straps := (calm_decideFor s t).straps
@[simp] theorem decideBoth_straps : s.decideBoth.io.straps = s.io.straps := (calm_decideBoth s).straps
@[simp] theorem handArrival_straps (d : Place) : (s.handArrival d).io.straps = s.io.straps :=
  (calm_handArrival s d).straps
@[simp] theorem decideAt_straps (x : Station) : (s.decideAt x).io.straps = s.io.straps := (calm_decideAt s x).straps

@[simp] theorem inspectAt_straps (t : Nat) (d : Place) : (s.inspectAt t d).io.straps = s.io.straps :=
  (calm_inspectAt s t d).straps
@[simp] theorem endInspection_straps (x : Station) (i : Inspection) (c : EndCause) :
    (s.endInspection x i c).io.straps = s.io.straps := (calm_endInspection s x i c).straps
@[simp] theorem evaluate_straps (x : Station) (t : Nat) : (s.evaluate x t).1.io.straps = s.io.straps :=
  (calm_evaluate s x t).straps
@[simp] theorem expireInspection_straps (x : Station) (i : Inspection) :
    (s.expireInspection x i).io.straps = s.io.straps := (calm_expireInspection s x i).straps

/-! ### The spray cell and the lots -/

@[simp] theorem warnLow_straps (n : Nat) : (s.warnLow n).io.straps = s.io.straps := (calm_warnLow s n).straps
@[simp] theorem closeValve_straps : s.closeValve.io.straps = s.io.straps := (calm_closeValve s).straps
@[simp] theorem parked_straps : s.parked.io.straps = s.io.straps := (calm_parked s).straps
@[simp] theorem parkAgain_straps : s.parkAgain.io.straps = s.io.straps := (calm_parkAgain s).straps
@[simp] theorem endPass_straps (t : Nat) (w : StrokeWork) : (s.endPass t w).io.straps = s.io.straps :=
  (calm_endPass s t w).straps
@[simp] theorem startProgram_straps (t : Nat) : (s.startProgram t).io.straps = s.io.straps :=
  (calm_startProgram s t).straps
@[simp] theorem arrivedInProgram_straps : s.arrivedInProgram.io.straps = s.io.straps :=
  (calm_arrivedInProgram s).straps
@[simp] theorem faultInProgram_straps (code : Nat) : (s.faultInProgram code).io.straps = s.io.straps :=
  (calm_faultInProgram s code).straps
@[simp] theorem faultAtPark_straps (code : Nat) : (s.faultAtPark code).io.straps = s.io.straps :=
  (calm_faultAtPark s code).straps

@[simp] theorem mount_straps (n head : Nat) (m : LotFields) : (s.mount n head m).io.straps = s.io.straps := by
  simp [State.mount]

/-! ### The cure monitor -/

@[simp] theorem examineOverdue_straps (t : Nat) : (s.examineOverdue t).io.straps = s.io.straps :=
  (calm_examineOverdue s t).straps
@[simp] theorem sampleFrom_straps (k n : Nat) (l : List ChannelSignals) :
    (State.sampleFrom k n l s).io.straps = s.io.straps := (calm_sampleFrom k n l s).straps

@[simp] theorem setSpeed_straps (v : Nat) (c : SpeedCause) : (s.setSpeed v c).io.straps = s.io.straps := by
  unfold State.setSpeed
  dsimp only
  split <;> simp

@[simp] theorem admitBoard_straps (a : Admission) : (s.admitBoard a).io.straps = s.io.straps := by
  have hforced : (s.raiseForced a.traveler a.form).io.straps = s.io.straps := (calm_raiseForced s _ _).straps
  simp [State.admitBoard, hforced]

@[simp] theorem examineStall_straps : s.examineStall.io.straps = s.io.straps := by
  unfold State.examineStall
  split
  · rfl
  · split <;> simp

@[simp] theorem endStall_straps (t : Nat) : (s.endStall t).io.straps = s.io.straps := by
  unfold State.endStall
  split <;> simp

@[simp] theorem moveOut_straps (e : OvenEntry) : (s.moveOut e).io.straps = s.io.straps := by
  have hverdict (u : State) : (u.exitVerdict e).io.straps = u.io.straps := (calm_exitVerdict u e).straps
  simp [State.moveOut, hverdict]

/-! ### The line modes -/

@[simp] theorem enterHalt_straps (c : HaltCause) (d : Option HaltDetail) :
    (s.enterHalt c d).io.straps = s.io.straps := by
  have hengine (u : State) : u.haltEngine.io.straps = u.io.straps := (calm_haltEngine u).straps
  have htransfers (u : State) : u.haltTransfers.io.straps = u.io.straps := (calm_haltTransfers u).straps
  unfold State.enterHalt
  split
  · rfl
  · simp [hengine, htransfers]

@[simp] theorem drainDone_straps : s.drainDone.io.straps = s.io.straps := by
  unfold State.drainDone
  split <;> simp

@[simp] theorem returnBoard_straps (e : Transfer) : (s.returnBoard e).io.straps = s.io.straps := by
  simp only [State.returnBoard, moveStage_io]
  cases e.source <;> cases e.dest <;> simp

@[simp] theorem resolve_straps (e : Transfer) : (s.resolve e).io.straps = s.io.straps := by
  have hremove (t : Nat) : (s.removeTransfer t).io.straps = s.io.straps := (calm_removeTransfer s t).straps
  have hsettle (u : State) : (u.settle e).io.straps = u.io.straps := (calm_settle u e).straps
  unfold State.resolve
  dsimp only
  split
  · rw [hsettle, hremove]
  · split <;> simp [hremove]

@[simp] theorem inspectFound_straps (e : Transfer) : (s.inspectFound e).io.straps = s.io.straps := by
  unfold State.inspectFound
  split <;> simp

@[simp] theorem recoverLine_straps : s.recoverLine.io.straps = s.io.straps := by
  have hleave (u : State) : u.leaveHaltEngine.io.straps = u.io.straps := (calm_leaveHaltEngine u).straps
  simp [State.recoverLine, hleave, foldl_straps resolve_straps, foldl_straps inspectFound_straps]

@[simp] theorem run_straps : s.run.io.straps = s.io.straps := by simp [State.run]

@[simp] theorem clear_straps : s.clear.io.straps = s.io.straps := rfl

@[simp] theorem inductBoard_straps (t : Nat) (rest : List Nat) (tag : Text) (slot : Nat) (x : RecipeSlot) :
    (s.inductBoard t rest tag slot x).io.straps = s.io.straps := rfl

/-! ### Re-entry and the links -/

@[simp] theorem reenter_straps (t : Nat) (r : Traveler) (route : Route) :
    (s.reenter t r route).io.straps = s.io.straps := by
  simp [State.reenter]

@[simp] theorem dropClaim_straps (l : Link) (x : Station) : (s.dropClaim l x).io.straps = s.io.straps := by
  unfold State.dropClaim
  split <;> simp

@[simp] theorem badFrame_straps (q : Req) (code : Nat) : (s.badFrame q code).io.straps = s.io.straps := by
  unfold State.badFrame
  dsimp only
  split <;> simp

end

/-! ### Owners that leave the straps

An owner refuses with the state as it came, or accepts with the state that its operation leaves; so its lemma follows
its branches, and at each of them the lemma of the operation answers. -/

@[simp] theorem accept_fst (s : State) (fields : List Field) : (accept s fields).1 = s := rfl
@[simp] theorem refuse_fst (s : State) (w : Status) (fields : List Field) : (refuse s w fields).1 = s := rfl

/-- An owner's judgement of a request leaves the straps. -/
def KeepsStraps (f : State → State × Reply) : Prop := ∀ s, (f s).1.io.straps = s.io.straps

theorem keepsStraps_reads (f : State → Reply) : KeepsStraps (reads f) := fun _ => rfl

/-- A request on a traveler leaves the straps where its judgement of the traveler does. -/
theorem keepsStraps_withTag (tag : Text) {k : Nat → Traveler → State → State × Reply}
    (h : ∀ t r, KeepsStraps (k t r)) : KeepsStraps (withTag tag k) := by
  intro s
  unfold withTag
  split
  · rfl
  · split
    · rfl
    · exact h _ _ s

theorem keepsStraps_withClaim (l : Link) (tag : Text) {k : Nat → Traveler → State → State × Reply}
    (h : ∀ t r, KeepsStraps (k t r)) : KeepsStraps (withClaim l tag k) := by
  refine keepsStraps_withTag tag fun t r s => ?_
  split
  · exact h t r s
  · rfl

theorem keepsStraps_atStation (x : Station) {k : Nat → Traveler → State → State × Reply}
    (h : ∀ t r, KeepsStraps (k t r)) (t : Nat) (r : Traveler) : KeepsStraps (atStation x k t r) := by
  intro s
  unfold atStation
  split
  · exact h t r s
  · rfl

theorem keepsStraps_ownInduct (tag : Text) (slot : Nat) : KeepsStraps (ownInduct tag slot) := by
  intro s
  unfold ownInduct
  repeat' split
  all_goals simp

theorem keepsStraps_ownStart : KeepsStraps ownStart := by
  intro s
  unfold ownStart
  repeat' split
  all_goals simp

theorem keepsStraps_ownDrain : KeepsStraps ownDrain := by
  intro s
  unfold ownDrain
  split <;> simp

theorem keepsStraps_ownRecover : KeepsStraps ownRecover := by
  intro s
  unfold ownRecover
  repeat' split
  all_goals simp

theorem keepsStraps_ownClearLine : KeepsStraps ownClearLine := by
  intro s
  unfold ownClearLine
  split <;> simp

theorem keepsStraps_ownListTravelers (stage first : Nat) : KeepsStraps (ownListTravelers stage first) := by
  intro s
  unfold ownListTravelers
  split <;> simp

theorem keepsStraps_ownOpenRecipe (slot : Nat) (h : Header) : KeepsStraps (ownOpenRecipe slot h) := by
  intro s
  unfold ownOpenRecipe
  repeat' split
  all_goals simp

theorem keepsStraps_ownPut {α β : Type} (read : α → Option β) (capacity : Nat) (get : RecipeSlot → List β)
    (put : RecipeSlot → List β → RecipeSlot) (slot : Nat) (records : List α) :
    KeepsStraps (ownPut read capacity get put slot records) := by
  intro s
  unfold ownPut
  repeat' split
  all_goals simp

theorem keepsStraps_ownFinishRecipe (slot : Nat) : KeepsStraps (ownFinishRecipe slot) := by
  intro s
  unfold ownFinishRecipe
  repeat' split
  all_goals simp

theorem keepsStraps_ownDropRecipe (slot : Nat) : KeepsStraps (ownDropRecipe slot) := by
  intro s
  unfold ownDropRecipe
  repeat' split
  all_goals simp

theorem keepsStraps_ownGetRecipe (slot part first : Nat) : KeepsStraps (ownGetRecipe slot part first) := by
  intro s
  unfold ownGetRecipe
  dsimp only
  repeat' split
  all_goals simp

theorem keepsStraps_ownGetRecipeProfile (index : Nat) : KeepsStraps (ownGetRecipeProfile index) := by
  intro s
  unfold ownGetRecipeProfile
  split <;> simp

theorem keepsStraps_ownPutCureProfile (index : Nat) (p : Profile) : KeepsStraps (ownPutCureProfile index p) := by
  intro s
  unfold ownPutCureProfile
  repeat' split
  all_goals simp

theorem keepsStraps_ownDropCureProfile (index : Nat) : KeepsStraps (ownDropCureProfile index) := by
  intro s
  unfold ownDropCureProfile
  repeat' split
  all_goals simp

theorem keepsStraps_ownSetHead (head : Nat) (c : HeadConfig) : KeepsStraps (ownSetHead head c) := by
  intro s
  unfold ownSetHead
  repeat' split
  all_goals simp

theorem keepsStraps_ownMountLot (head : Nat) (m : LotFields) : KeepsStraps (ownMountLot head m) := by
  intro s
  unfold ownMountLot
  repeat' split
  all_goals simp

theorem keepsStraps_ownUnmountLot (head : Nat) : KeepsStraps (ownUnmountLot head) := by
  intro s
  unfold ownUnmountLot
  repeat' split
  all_goals simp

theorem keepsStraps_ownClaim (l : Link) (tag : Text) (station : Nat) : KeepsStraps (ownClaim l tag station) := by
  intro s
  unfold ownClaim
  dsimp only
  repeat' split
  all_goals simp

theorem keepsStraps_ownPostFiducials (l : Link) (tag : Text) (found : Nat) (dx dy : Int) :
    KeepsStraps (ownPostFiducials l tag found dx dy) := by
  intro s
  unfold ownPostFiducials
  split
  · rfl
  · exact keepsStraps_withClaim _ _ (keepsStraps_atStation _ fun _ _ _ => rfl) s

theorem keepsStraps_ownPostSite (l : Link) (tag : Text) (site verdict : Nat) :
    KeepsStraps (ownPostSite l tag site verdict) := by
  intro s
  unfold ownPostSite
  split
  · refine keepsStraps_withClaim _ _ (keepsStraps_atStation _ fun t r u => ?_) s
    split <;> simp
  · rfl

theorem keepsStraps_ownPostCoverage (l : Link) (tag : Text) (window verdict : Nat) :
    KeepsStraps (ownPostCoverage l tag window verdict) := by
  intro s
  unfold ownPostCoverage
  split
  · refine keepsStraps_withClaim _ _ (keepsStraps_atStation _ fun t r u => ?_) s
    split <;> simp
  · rfl

theorem keepsStraps_ownComplete (l : Link) (tag : Text) : KeepsStraps (ownComplete l tag) := by
  refine keepsStraps_withClaim l tag fun t r s => ?_
  repeat' split
  all_goals simp

theorem keepsStraps_ownSetGantryLimits (l : GantryLimits) : KeepsStraps (ownSetGantryLimits l) := by
  intro s
  unfold ownSetGantryLimits
  repeat' split
  all_goals simp

theorem keepsStraps_ownSetOvenGeometry (length : Nat) (bounds : List Nat) (gap : Nat) :
    KeepsStraps (ownSetOvenGeometry length bounds gap) := by
  intro s
  unfold ownSetOvenGeometry
  repeat' split
  all_goals simp

theorem keepsStraps_ownSetOvenSpeed (v : Nat) : KeepsStraps (ownSetOvenSpeed v) := by
  intro s
  unfold ownSetOvenSpeed
  split
  · rfl
  · split
    · rfl
    · exact setSpeed_straps s _ _

theorem keepsStraps_ownSetReleaseLevel (reason level : Nat) : KeepsStraps (ownSetReleaseLevel reason level) := by
  intro s
  unfold ownSetReleaseLevel
  split <;> simp

theorem keepsStraps_ownPlaceHold (l : Link) (tag : Text) (note : Nat) : KeepsStraps (ownPlaceHold l tag note) := by
  intro s
  unfold ownPlaceHold
  split
  · rfl
  · refine keepsStraps_withTag tag (fun t r u => ?_) s
    dsimp only
    repeat' split
    all_goals simp

theorem keepsStraps_ownReleaseHold (l : Link) (eff : Nat) (tag : Text) (reason : Nat) :
    KeepsStraps (ownReleaseHold l eff tag reason) := by
  intro s
  unfold ownReleaseHold
  split
  · rfl
  · refine keepsStraps_withTag tag (fun t r u => ?_) s
    repeat' split
    all_goals simp

theorem keepsStraps_ownReleaseHoldAll (l : Link) (eff : Nat) (tag : Text) :
    KeepsStraps (ownReleaseHoldAll l eff tag) := by
  refine keepsStraps_withTag tag fun t r s => ?_
  have hrelease (u : State) (h : Hold) : (u.releaseRecord t h l eff).io.straps = u.io.straps := by simp
  dsimp only
  repeat' split
  all_goals simp [foldl_straps hrelease]

theorem keepsStraps_ownDispose (eff : Nat) (tag : Text) (d : DispositionField) :
    KeepsStraps (ownDispose eff tag d) := by
  intro s
  unfold ownDispose
  split
  · rfl
  · refine keepsStraps_withTag tag (fun t r u => ?_) s
    repeat' split
    all_goals simp

theorem keepsStraps_ownSubscribe (l : Link) (mode : Nat) (classes : List Nat) :
    KeepsStraps (ownSubscribe l mode classes) := by
  intro s
  unfold ownSubscribe
  repeat' split
  all_goals simp

theorem keepsStraps_ownTake (l : Link) (n : Nat) : KeepsStraps (ownTake l n) := by
  intro s
  unfold ownTake
  split <;> simp

theorem keepsStraps_ownSetTrigger (l : Link) (k : Nat) : KeepsStraps (ownSetTrigger l k) := by
  intro s
  unfold ownSetTrigger
  split <;> simp

theorem keepsStraps_ownRestart (l : Link) : KeepsStraps (ownRestart l) := by
  intro s
  simp [ownRestart]

theorem keepsStraps_ownSetTimeouts (t : Timeouts) : KeepsStraps (ownSetTimeouts t) := by
  intro s
  unfold ownSetTimeouts
  split <;> simp

/-! ### Commands that leave the straps -/

/-- A step's outcome leaves the straps of `s`. -/
def StrapsStand (s : State) (o : Host.Outcome State Fault Refusal) : Prop :=
  ∀ u, o = .next u → u.io.straps = s.io.straps

theorem strapsStand_event {s t : State} (h : t.io.straps = s.io.straps) : StrapsStand s (event t) := by
  rintro u ⟨⟩
  exact h

/-- The service of a request touches nothing but links besides what the owner does (R163 to R167). -/
theorem serve_straps (s : State) (q : Req) (code need : Nat) {owner : Nat → State → State × Reply}
    (h : ∀ eff, KeepsStraps (owner eff)) : (s.serve q code need owner).io.straps = s.io.straps := by
  unfold State.serve
  dsimp only
  repeat' split
  all_goals simp [h _ _]

theorem strapsStand_request (s : State) (q : Req) (code need : Nat) {owner : Nat → State → State × Reply}
    (h : ∀ eff, KeepsStraps (owner eff)) : StrapsStand s (request q code need owner s) := by
  rintro u ⟨⟩
  exact serve_straps s q code need h

/-! ### Events that leave the straps -/

theorem strapsStand_secondTick (s : State) : StrapsStand s (execSecondTick s) := by
  have haccrue (u : State) (l : List OvenEntry) : (l.foldl State.accrue u).io.straps = u.io.straps :=
    (calm_accrueAll l u).straps
  exact strapsStand_event (haccrue _ _)

theorem strapsStand_lotExpiry (n : Nat) (s : State) : StrapsStand s (execLotExpiry n s) :=
  strapsStand_event (by split <;> simp)

theorem strapsStand_sensorChange (x : Sensor) (occupied : Bool) (s : State) :
    StrapsStand s (execSensorChange x occupied s) := by
  refine strapsStand_event ?_
  split
  · rfl
  · dsimp only
    split <;> rfl

theorem strapsStand_transferEnd (t : Nat) (s : State) : StrapsStand s (execTransferEnd t s) :=
  strapsStand_event (by split <;> simp)

theorem strapsStand_transferTimerExpiry (t : Nat) (s : State) : StrapsStand s (execTransferTimerExpiry t s) :=
  strapsStand_event (by split <;> simp)

theorem strapsStand_inspectionTimerExpiry (x : Station) (s : State) :
    StrapsStand s (execInspectionTimerExpiry x s) :=
  strapsStand_event (by split <;> simp)

theorem strapsStand_valveTimerExpiry (s : State) : StrapsStand s (execValveTimerExpiry s) :=
  strapsStand_event (by split <;> simp)

theorem strapsStand_gantryPortTimeout (s : State) : StrapsStand s (execGantryPortTimeout s) :=
  strapsStand_event (by split <;> simp)

/-- ARRIVED goes on with the park or with the program where a MOVE is outstanding, and is discarded otherwise (R92). -/
theorem strapsStand_arrived (s : State) : StrapsStand s (execArrived s) := by
  refine strapsStand_event ?_
  split
  · split
    · dsimp only
      split <;> simp
    · rfl
    · rfl
  · rfl
  · rfl

/-- PASS_DONE closes the valve and ends the pass where a PASS is outstanding, and is discarded otherwise (R92). -/
theorem strapsStand_passDone (s : State) : StrapsStand s (execPassDone s) := by
  refine strapsStand_event ?_
  split
  · split
    · dsimp only
      split <;> simp
    · rfl
    · rfl
  · rfl
  · rfl

theorem strapsStand_stopped (s : State) : StrapsStand s (execStopped s) := by
  refine strapsStand_event ?_
  split
  · split <;> simp
  · rfl
  · rfl

/-- FAULT is recorded in any port state; it parks the cell, or is counted at the park or in the program (R92). -/
theorem strapsStand_gantryFault (code : Nat) (s : State) : StrapsStand s (execGantryFault code s) := by
  refine strapsStand_event ?_
  dsimp only
  split
  · split
    · simp
    · split <;> simp
  · rfl
  · rfl

theorem strapsStand_estopAssertion (s : State) : StrapsStand s (execEstopAssertion s) :=
  strapsStand_event (by split <;> simp)

theorem strapsStand_estopTaken (s : State) : StrapsStand s (execEstopTaken s) :=
  strapsStand_event (by split <;> simp)

theorem strapsStand_estopRelease (s : State) : StrapsStand s (execEstopRelease s) :=
  strapsStand_event (by split <;> simp)

theorem strapsStand_queueRelease (s : State) : StrapsStand s (execQueueRelease s) :=
  strapsStand_event (by split <;> simp)

theorem strapsStand_programStart (s : State) : StrapsStand s (execProgramStart s) :=
  strapsStand_event (by split <;> simp)

theorem strapsStand_flashTransferStart (s : State) : StrapsStand s (execFlashTransferStart s) := by
  refine strapsStand_event ?_
  split
  · rfl
  · dsimp only
    split <;> simp

theorem strapsStand_ovenAdmission (s : State) : StrapsStand s (execOvenAdmission s) :=
  strapsStand_event (by split <;> simp)

theorem strapsStand_ovenExitMove (s : State) : StrapsStand s (execOvenExitMove s) :=
  strapsStand_event (by split <;> simp)

theorem strapsStand_exitTransferStart (s : State) : StrapsStand s (execExitTransferStart s) :=
  strapsStand_event (by split <;> simp)

/-! ### Every command -/

/-- No command but the two resets changes the straps. -/
theorem exec_straps (s : State) (i : Instr) (hi : ∀ p, i ≠ .powerOnReset p ∧ i ≠ .resetPin p) :
    StrapsStand s (exec i s) := by
  cases i with
  | powerOnReset p => exact absurd rfl (hi p).1
  | resetPin p => exact absurd rfl (hi p).2
  | induct q tag slot => exact strapsStand_request s q _ _ fun _ => keepsStraps_ownInduct tag slot
  | start q => exact strapsStand_request s q _ _ fun _ => keepsStraps_ownStart
  | drain q => exact strapsStand_request s q _ _ fun _ => keepsStraps_ownDrain
  | halt q => exact strapsStand_request s q _ _ fun _ u => enterHalt_straps u _ _
  | recover q => exact strapsStand_request s q _ _ fun _ => keepsStraps_ownRecover
  | clearLine q => exact strapsStand_request s q _ _ fun _ => keepsStraps_ownClearLine
  | getLine q => exact strapsStand_request s q _ _ fun _ => keepsStraps_reads _
  | getTraveler q tag => exact strapsStand_request s q _ _ fun _ => keepsStraps_withTag tag fun _ _ _ => rfl
  | listTravelers q stage first =>
    exact strapsStand_request s q _ _ fun _ => keepsStraps_ownListTravelers stage first
  | openRecipe q slot header => exact strapsStand_request s q _ _ fun _ => keepsStraps_ownOpenRecipe slot header
  | putWindows q slot records => exact strapsStand_request s q _ _ fun _ => keepsStraps_ownPut _ _ _ _ slot records
  | putSites q slot records => exact strapsStand_request s q _ _ fun _ => keepsStraps_ownPut _ _ _ _ slot records
  | putStrokes q slot records => exact strapsStand_request s q _ _ fun _ => keepsStraps_ownPut _ _ _ _ slot records
  | finishRecipe q slot => exact strapsStand_request s q _ _ fun _ => keepsStraps_ownFinishRecipe slot
  | dropRecipe q slot => exact strapsStand_request s q _ _ fun _ => keepsStraps_ownDropRecipe slot
  | getRecipe q slot part first =>
    exact strapsStand_request s q _ _ fun _ => keepsStraps_ownGetRecipe slot part first
  | getRecipeProfile q index first =>
    exact strapsStand_request s q _ _ fun _ => keepsStraps_ownGetRecipeProfile index
  | putCureProfile q index profile =>
    exact strapsStand_request s q _ _ fun _ => keepsStraps_ownPutCureProfile index profile
  | dropCureProfile q index => exact strapsStand_request s q _ _ fun _ => keepsStraps_ownDropCureProfile index
  | setHead q head config => exact strapsStand_request s q _ _ fun _ => keepsStraps_ownSetHead head config
  | mountLot q head lot => exact strapsStand_request s q _ _ fun _ => keepsStraps_ownMountLot head lot
  | unmountLot q head => exact strapsStand_request s q _ _ fun _ => keepsStraps_ownUnmountLot head
  | getLot q => exact strapsStand_request s q _ _ fun _ => keepsStraps_reads _
  | claim q tag station => exact strapsStand_request s q _ _ fun _ => keepsStraps_ownClaim q.link tag station
  | unclaim q tag => exact strapsStand_request s q _ _ fun _ => keepsStraps_withClaim q.link tag fun _ _ _ => rfl
  | postFiducials q tag found dx dy =>
    exact strapsStand_request s q _ _ fun _ => keepsStraps_ownPostFiducials q.link tag found dx dy
  | postSite q tag site verdict =>
    exact strapsStand_request s q _ _ fun _ => keepsStraps_ownPostSite q.link tag site verdict
  | postCoverage q tag window verdict =>
    exact strapsStand_request s q _ _ fun _ => keepsStraps_ownPostCoverage q.link tag window verdict
  | complete q tag => exact strapsStand_request s q _ _ fun _ => keepsStraps_ownComplete q.link tag
  | setGantryLimits q limits => exact strapsStand_request s q _ _ fun _ => keepsStraps_ownSetGantryLimits limits
  | setOvenGeometry q length bounds gap =>
    exact strapsStand_request s q _ _ fun _ => keepsStraps_ownSetOvenGeometry length bounds gap
  | setOvenSpeed q speed => exact strapsStand_request s q _ _ fun _ => keepsStraps_ownSetOvenSpeed speed
  | getOven q => exact strapsStand_request s q _ _ fun _ => keepsStraps_reads _
  | setReleaseLevel q reason level =>
    exact strapsStand_request s q _ _ fun _ => keepsStraps_ownSetReleaseLevel reason level
  | placeHold q tag note => exact strapsStand_request s q _ _ fun _ => keepsStraps_ownPlaceHold q.link tag note
  | releaseHold q tag reason =>
    exact strapsStand_request s q _ _ fun eff => keepsStraps_ownReleaseHold q.link eff tag reason
  | releaseHoldAll q tag => exact strapsStand_request s q _ _ fun eff => keepsStraps_ownReleaseHoldAll q.link eff tag
  | dispose q tag disposition =>
    exact strapsStand_request s q _ _ fun eff => keepsStraps_ownDispose eff tag disposition
  | subscribe q mode classes =>
    exact strapsStand_request s q _ _ fun _ => keepsStraps_ownSubscribe q.link mode classes
  | take q count => exact strapsStand_request s q _ _ fun _ => keepsStraps_ownTake q.link count
  | peek q => exact strapsStand_request s q _ _ fun _ => keepsStraps_reads _
  | setTrigger q level => exact strapsStand_request s q _ _ fun _ => keepsStraps_ownSetTrigger q.link level
  | restart q => exact strapsStand_request s q _ _ fun _ => keepsStraps_ownRestart q.link
  | getConfig q => exact strapsStand_request s q _ _ fun eff => keepsStraps_reads (configReply eff)
  | setTimeouts q timeouts => exact strapsStand_request s q _ _ fun _ => keepsStraps_ownSetTimeouts timeouts
  | badFrame q code => exact strapsStand_event (badFrame_straps s q code)
  | frameDiscarded | interByteTimeout | startMarkReceived | answerSent | blinkToggle =>
    exact strapsStand_event rfl
  | secondTick => exact strapsStand_secondTick s
  | lotExpiry n => exact strapsStand_lotExpiry n s
  | flashOverdue t => exact strapsStand_event (examineOverdue_straps s t)
  | samplingRound channels => exact strapsStand_event (sampleFrom_straps s _ _ channels)
  | beltAdvance => exact strapsStand_event (examineStall_straps _)
  | sensorChange x occupied => exact strapsStand_sensorChange x occupied s
  | transferEnd t => exact strapsStand_transferEnd t s
  | transferTimerExpiry t => exact strapsStand_transferTimerExpiry t s
  | inspectionTimerExpiry x => exact strapsStand_inspectionTimerExpiry x s
  | valveTimerExpiry => exact strapsStand_valveTimerExpiry s
  | gantryPortTimeout => exact strapsStand_gantryPortTimeout s
  | arrived => exact strapsStand_arrived s
  | passDone => exact strapsStand_passDone s
  | stopped => exact strapsStand_stopped s
  | gantryFault code => exact strapsStand_gantryFault code s
  | estopAssertion => exact strapsStand_estopAssertion s
  | estopTaken => exact strapsStand_estopTaken s
  | estopRelease => exact strapsStand_estopRelease s
  | queueRelease => exact strapsStand_queueRelease s
  | preDiverterDecision => exact strapsStand_event (decidePre_straps s)
  | exitDiverterDecision => exact strapsStand_event (decideExit_straps s)
  | programStart => exact strapsStand_programStart s
  | flashTransferStart => exact strapsStand_flashTransferStart s
  | ovenAdmission => exact strapsStand_ovenAdmission s
  | ovenExitMove => exact strapsStand_ovenExitMove s
  | exitTransferStart => exact strapsStand_exitTransferStart s
  | drainComplete => exact strapsStand_event (drainDone_straps s)

/-! ### The two resets -/

/-- Both resets put every block at its reset values with the straps latched from the pins (R23, R183). -/
theorem exec_reset (s : State) (p : StrapPins) (i : Instr) (hi : i = .powerOnReset p ∨ i = .resetPin p) :
    exec i s = .next (s.resetBlocks p).relight := by
  rcases hi with rfl | rfl <;> rfl

@[simp] theorem resetBlocks_straps (s : State) (p : StrapPins) : (s.resetBlocks p).io.straps = latchStraps p := rfl

@[simp] theorem resetBlocks_heads (s : State) (p : StrapPins) :
    (s.resetBlocks p).lots.heads.length = (latchStraps p).heads := List.length_replicate

@[simp] theorem resetBlocks_zones (s : State) (p : StrapPins) :
    (s.resetBlocks p).cure.zones.length = (latchStraps p).zones := List.length_replicate

/-- Settles O4: a reset puts the straps at the values latched from its pins, with as many heads and zones, and every
other command leaves them. -/
theorem resetLatchesStraps : Obligations.ResetLatchesStraps := by
  unfold Obligations.ResetLatchesStraps
  refine ⟨fun s p i hi => ?reset, fun i s u hi => ?other⟩
  case reset =>
    exact ⟨_, exec_reset s p i hi, resetBlocks_straps s p, resetBlocks_heads s p, resetBlocks_zones s p⟩
  case other => exact exec_straps s i hi u

end Sys2Proof.Machine
end

section
/-! PROOF of the invariants, first part: what a step can do. `Effect` lists what the owner of a request does to the block,
`Happening` what an event does, each with the conditions it is met under; `step_cases` says that a step is one of them,
a link's own answer, or an idle moment. Each invariant is then shown over these lists. -/

namespace Sys2Proof.Machine

/-! ### What the owner of a request can do -/

/-- A record with the same tag, stage, place, holds and doses. -/
structure Alike (r r' : Traveler) : Prop where
  tag   : r'.tag = r.tag
  stage : r'.stage = r.stage
  place : r'.place = r.place
  holds : r'.holds = r.holds
  pass  : r'.passDose = r.passDose
  life  : r'.lifeDose = r.lifeDose

/-- An update of a link that leaves its frames and keeps it within its capacities, its attention output as judged. -/
structure Settles (f : LinkState → LinkState) : Prop where
  reception : ∀ x, (f x).reception = x.reception
  inService : ∀ x, (f x).inService = x.inService
  answers   : ∀ x, (f x).answers = x.answers
  ok        : ∀ x : LinkState, x.Ok → (f x).Ok

/-- What a request in service does to the block: nothing where its owner refuses it, else one of its owner's effects. -/
inductive Effect (s : State) : State → Prop
  | nothing : Effect s s
  | induct {t : Nat} {rest : List Nat} {tag : Text} {slot : Nat} {x : RecipeSlot} (free : s.table.free = t :: rest)
      (new : s.tagged tag = none) (room : s.occupancy < Config.queueCapacity) :
      Effect s (s.inductBoard t rest tag slot x)
  | run (mode : s.mode = .idle ∨ s.mode = .drain) : Effect s s.run
  | drain (mode : s.mode = .run) : Effect s ((s.setMode .drain none none).decidePre).drainDone
  | halt (l : Link) : Effect s (s.enterHalt .request (some (.link l)))
  | recover (mode : s.mode = .halt) : Effect s s.recoverLine
  | clear (mode : s.mode = .idle ∨ s.mode = .halt) : Effect s s.clear
  | slot (n : Nat) (x : RecipeSlot) : Effect s (s.setSlot n x)
  | profile (n : Nat) (p : Option Profile) : Effect s (s.setProfile n p)
  | head (n : Nat) (c : HeadConfig) : Effect s (s.onLots fun b => { b with heads := putNth b.heads n (some c) })
  | mount (n head : Nat) (m : LotFields) : Effect s (s.mount n head m)
  | unmount {n head : Nat} {m : Lot} (mounted : s.lots.mountedOn head = some (n, m)) :
      Effect s ((s.setLot n { m with state := .unmounted }).onLots fun b =>
        { b with map := putNth b.map head none, unmount := b.unmount ++ [n] })
  | record {t : Nat} {r r' : Traveler} (live : s.traveler t = some r) (alike : Alike r r') :
      Effect s (s.setTraveler t r')
  | complete (x : Station) (i : Inspection) (t : Nat) :
      Effect s (((s.endInspection x i .completed).evaluate x t).1.decideAt x)
  | limits (l : GantryLimits) : Effect s (s.onEngine fun e => { e with limits := some l })
  | geometry (g : OvenGeometry) : Effect s (s.onCure fun c => { c with geometry := some g })
  | speed {v : Nat} (range : within Config.beltMin Config.beltMax v = true) :
      Effect s (s.setSpeed (clamp s.cure.rangeLow s.cure.rangeHigh v) .request)
  | levels (r : HoldReason) (n : Nat) : Effect s (s.onHolds fun m => { m with levels := m.levels.set r.code n })
  | raise (t : Nat) (k : HoldReason) (w : Raiser) (g : Stage) (d : Option HoldDetail) :
      Effect s (s.raiseHold t k w g d)
  | raiseDecide (t : Nat) (k : HoldReason) (w : Raiser) (g : Stage) (d : Option HoldDetail) :
      Effect s ((s.raiseHold t k w g d).decideFor t)
  | release (t : Nat) (h : Hold) (l : Link) (n : Nat) : Effect s ((s.releaseRecord t h l n).decideFor t)
  | releaseAll (t : Nat) (hs : List Hold) (l : Link) (n : Nat) :
      Effect s ((hs.foldl (fun s h => s.releaseRecord t h l n) s).decideFor t)
  | reenter {t : Nat} {r : Traveler} (route : Route) (live : s.traveler t = some r) (stage : r.stage = .shelved)
      (place : r.place = .present) (room : s.occupancy < Config.queueCapacity) : Effect s (s.reenter t r route)
  | retire {t : Nat} {r : Traveler} (o : RetireOutcome) (live : s.traveler t = some r) (stage : r.stage = .shelved)
      (place : r.place = .present) : Effect s (s.retire t o).decideBoth
  | settings (l : Link) {f : LinkState → LinkState} (settles : Settles f) : Effect s (s.onLink l f)
  | restart (l : Link) : Effect s (((s.onLink l LinkState.restart).dropClaim l .pre).dropClaim l .post)
  | timeouts (t : Timeouts) : Effect s (s.onIo fun io => { io with timeouts := t })

/-- An owner's function that does one of the effects. -/
def Effects (f : State → State × Reply) : Prop := ∀ s, Effect s (f s).1

theorem effects_reads (f : State → Reply) : Effects (reads f) := fun _ => .nothing

/-- A request on a tag does what its owner does to the live traveler of that tag. -/
theorem effects_withTag {tag : Text} {k : Nat → Traveler → State → State × Reply}
    (h : ∀ s t r, s.traveler t = some r → Effect s (k t r s).1) : Effects (withTag tag k) := by
  intro s
  unfold withTag
  split
  · exact .nothing
  · split
    · exact .nothing
    · exact h s _ _ (tagged_live ‹_›)

theorem effects_withClaim {l : Link} {tag : Text} {k : Nat → Traveler → State → State × Reply}
    (h : ∀ s t r, s.traveler t = some r → Effect s (k t r s).1) : Effects (withClaim l tag k) := by
  refine effects_withTag fun s t r hr => ?_
  split
  · exact h s t r hr
  · exact .nothing

theorem effect_atStation {x : Station} {k : Nat → Traveler → State → State × Reply} {s : State} {t : Nat}
    {r : Traveler} (h : Effect s (k t r s).1) : Effect s (atStation x k t r s).1 := by
  unfold atStation
  split
  · exact h
  · exact .nothing

/-! ### The owners, one by one -/

theorem effects_ownInduct (tag : Text) (slot : Nat) : Effects (ownInduct tag slot) := by
  intro s
  unfold ownInduct
  split
  · exact .nothing
  split
  · exact .nothing
  split
  · exact .nothing
  rename_i hnew
  split
  · exact .nothing
  split
  · exact .nothing
  split
  · exact .nothing
  split
  · exact .nothing
  · exact .induct ‹_› (by simpa using hnew) (Nat.lt_of_not_le ‹_›)

theorem effects_ownStart : Effects ownStart := by
  intro s
  unfold ownStart
  split
  case h_1 hm =>
    split
    · exact .nothing
    split
    · exact .nothing
    · exact .run (.inl hm)
  case h_2 hm => exact .run (.inr hm)
  all_goals exact .nothing

theorem effects_ownDrain : Effects ownDrain := by
  intro s
  unfold ownDrain
  split
  case h_1 hm => exact .drain hm
  all_goals exact .nothing

theorem effects_ownRecover : Effects ownRecover := by
  intro s
  unfold ownRecover
  split
  · exact .nothing
  split
  · exact .nothing
  · exact .recover (not_not.1 ‹_›)

theorem effects_ownClearLine : Effects ownClearLine := by
  intro s
  unfold ownClearLine
  split
  case h_1 hm => exact .clear (.inl hm)
  case h_2 hm => exact .clear (.inr hm)
  all_goals exact .nothing

theorem effects_ownListTravelers (stage first : Nat) : Effects (ownListTravelers stage first) := by
  intro s
  unfold ownListTravelers
  split <;> exact .nothing

theorem effects_ownOpenRecipe (slot : Nat) (h : Header) : Effects (ownOpenRecipe slot h) := by
  intro s
  unfold ownOpenRecipe
  split
  · exact .nothing
  split
  · exact .nothing
  split
  · exact .nothing
  split
  · exact .nothing
  · exact .slot _ _

theorem effects_ownPut {α β : Type} (read : α → Option β) (capacity : Nat) (get : RecipeSlot → List β)
    (put : RecipeSlot → List β → RecipeSlot) (slot : Nat) (records : List α) :
    Effects (ownPut read capacity get put slot records) := by
  intro s
  unfold ownPut
  split
  · exact .nothing
  split
  · exact .nothing
  split
  · exact .nothing
  split
  · exact .nothing
  split
  · exact .nothing
  · exact .slot _ _

theorem effects_ownFinishRecipe (slot : Nat) : Effects (ownFinishRecipe slot) := by
  intro s
  unfold ownFinishRecipe
  split
  · exact .nothing
  split
  · split <;> exact .slot _ _
  · exact .nothing

theorem effects_ownDropRecipe (slot : Nat) : Effects (ownDropRecipe slot) := by
  intro s
  unfold ownDropRecipe
  split
  · exact .nothing
  split
  · exact .nothing
  · exact .slot _ _

theorem effects_ownGetRecipe (slot part first : Nat) : Effects (ownGetRecipe slot part first) := by
  intro s
  unfold ownGetRecipe
  split
  · exact .nothing
  split
  · exact .nothing
  · dsimp only
    split <;> exact .nothing

theorem effects_ownGetRecipeProfile (index : Nat) : Effects (ownGetRecipeProfile index) := by
  intro s
  unfold ownGetRecipeProfile
  split <;> exact .nothing

theorem effects_ownPutCureProfile (index : Nat) (p : Profile) : Effects (ownPutCureProfile index p) := by
  intro s
  unfold ownPutCureProfile
  split
  · exact .nothing
  split
  · exact .nothing
  · exact .profile _ _

theorem effects_ownDropCureProfile (index : Nat) : Effects (ownDropCureProfile index) := by
  intro s
  unfold ownDropCureProfile
  split
  · exact .nothing
  split
  · exact .nothing
  · exact .profile _ _

theorem effects_ownSetHead (head : Nat) (c : HeadConfig) : Effects (ownSetHead head c) := by
  intro s
  unfold ownSetHead
  split
  · exact .nothing
  split
  · exact .nothing
  split
  · exact .nothing
  · exact .head _ _

theorem effects_ownMountLot (head : Nat) (m : LotFields) : Effects (ownMountLot head m) := by
  intro s
  unfold ownMountLot
  split
  · exact .nothing
  split
  · exact .nothing
  split
  · exact .nothing
  split
  · exact .nothing
  split
  · exact .nothing
  · exact .mount _ _ _

theorem effects_ownUnmountLot (head : Nat) : Effects (ownUnmountLot head) := by
  intro s
  unfold ownUnmountLot
  split
  · exact .nothing
  split
  · exact .nothing
  split
  · exact .nothing
  · exact .unmount ‹_›

theorem effects_ownClaim (l : Link) (tag : Text) (station : Nat) : Effects (ownClaim l tag station) := by
  intro s
  unfold ownClaim
  split
  · split
    · exact .nothing
    · rename_i ht
      split
      · exact .nothing
      split
      · exact .nothing
      · dsimp only
        split
        · split <;> exact .nothing
        · exact .record (tagged_live ht) ⟨rfl, rfl, rfl, rfl, rfl, rfl⟩
  · exact .nothing

theorem effects_ownUnclaim (l : Link) (tag : Text) :
    Effects (withClaim l tag fun t r s => accept (s.setTraveler t { r with claim := none })) :=
  effects_withClaim fun _ _ _ hr => .record hr ⟨rfl, rfl, rfl, rfl, rfl, rfl⟩

theorem effects_ownPostFiducials (l : Link) (tag : Text) (found : Nat) (dx dy : Int) :
    Effects (ownPostFiducials l tag found dx dy) := by
  intro s
  unfold ownPostFiducials
  split
  · exact .nothing
  · refine effects_withClaim (fun s t r hr => effect_atStation ?_) s
    exact .record hr ⟨rfl, rfl, rfl, rfl, rfl, rfl⟩

theorem effects_ownPostSite (l : Link) (tag : Text) (site verdict : Nat) :
    Effects (ownPostSite l tag site verdict) := by
  intro s
  unfold ownPostSite
  split
  · refine effects_withClaim (fun s t r hr => effect_atStation ?_) s
    split
    · exact .nothing
    · exact .record hr ⟨rfl, rfl, rfl, rfl, rfl, rfl⟩
  · exact .nothing

theorem effects_ownPostCoverage (l : Link) (tag : Text) (window verdict : Nat) :
    Effects (ownPostCoverage l tag window verdict) := by
  intro s
  unfold ownPostCoverage
  split
  · refine effects_withClaim (fun s t r hr => effect_atStation ?_) s
    split
    · exact .nothing
    · exact .record hr ⟨rfl, rfl, rfl, rfl, rfl, rfl⟩
  · exact .nothing

theorem effects_ownComplete (l : Link) (tag : Text) : Effects (ownComplete l tag) := by
  refine effects_withClaim fun s t r hr => ?_
  split
  · exact .nothing
  split
  · exact .nothing
  · exact .complete _ _ _

theorem effects_ownSetGantryLimits (l : GantryLimits) : Effects (ownSetGantryLimits l) := by
  intro s
  unfold ownSetGantryLimits
  split
  · exact .nothing
  split
  all_goals first | exact .nothing | exact .limits l

theorem effects_ownSetOvenGeometry (length : Nat) (bounds : List Nat) (gap : Nat) :
    Effects (ownSetOvenGeometry length bounds gap) := by
  intro s
  unfold ownSetOvenGeometry
  split
  · exact .nothing
  split
  · exact .nothing
  · exact .geometry _

theorem effects_ownSetOvenSpeed (v : Nat) : Effects (ownSetOvenSpeed v) := by
  intro s
  unfold ownSetOvenSpeed
  split
  · exact .nothing
  split
  · exact .nothing
  · exact .speed (by simp_all)

theorem effects_ownSetReleaseLevel (reason level : Nat) : Effects (ownSetReleaseLevel reason level) := by
  intro s
  unfold ownSetReleaseLevel
  split
  · exact .levels _ _
  · exact .nothing

theorem effects_ownPlaceHold (l : Link) (tag : Text) (note : Nat) : Effects (ownPlaceHold l tag note) := by
  intro s
  unfold ownPlaceHold
  split
  · exact .nothing
  · refine effects_withTag (fun s t r _ => ?_) s
    dsimp only
    split
    · exact .nothing
    split
    · exact .raise _ _ _ _ _
    · exact .raiseDecide _ _ _ _ _

theorem effects_ownReleaseHold (l : Link) (eff : Nat) (tag : Text) (reason : Nat) :
    Effects (ownReleaseHold l eff tag reason) := by
  intro s
  unfold ownReleaseHold
  split
  · exact .nothing
  · refine effects_withTag (fun s t r _ => ?_) s
    split
    · exact .nothing
    split
    · exact .nothing
    · exact .release _ _ _ _

theorem effects_ownReleaseHoldAll (l : Link) (eff : Nat) (tag : Text) : Effects (ownReleaseHoldAll l eff tag) := by
  refine effects_withTag fun s t r _ => ?_
  dsimp only
  split
  · exact .nothing
  split
  · exact .nothing
  · exact .releaseAll _ _ _ _

theorem effects_ownDispose (eff : Nat) (tag : Text) (d : DispositionField) : Effects (ownDispose eff tag d) := by
  intro s
  unfold ownDispose
  split
  · exact .nothing
  refine effects_withTag (fun s t r hr => ?_) s
  split
  · exact .nothing
  split
  · exact .nothing
  rename_i hat
  obtain ⟨hstage, hplace⟩ : r.stage = .shelved ∧ r.place = .present := by simpa using hat
  split
  · exact .nothing
  split
  · exact .nothing
  split
  · split
    · exact .nothing
    split
    · exact .nothing
    · exact .reenter _ hr hstage hplace (Nat.lt_of_not_le ‹_›)
  · exact .retire _ hr hstage hplace

theorem settles_subs (l : List NoticeClass) : Settles fun x => { x with subs := l } :=
  ⟨fun _ => rfl, fun _ => rfl, fun _ => rfl, fun _ h => h⟩

theorem settles_trigger (k : Nat) : Settles fun x => LinkState.judge { x with trigger := k } :=
  ⟨fun _ => rfl, fun _ => rfl, fun _ => rfl, fun _ h => ⟨h.1, h.2.1, rfl⟩⟩

theorem settles_take (k : Nat) :
    Settles fun x => LinkState.judge { x with queue := x.queue.drop k, overrun := false } :=
  ⟨fun _ => rfl, fun _ => rfl, fun _ => rfl, fun x h =>
    ⟨Nat.le_trans (by simp [LinkState.judge]) h.1, h.2.1, rfl⟩⟩

theorem settles_restart : Settles LinkState.restart :=
  ⟨fun _ => rfl, fun _ => rfl, fun _ => rfl, fun _ h => ⟨Nat.zero_le _, h.2.1, rfl⟩⟩

theorem effects_ownSubscribe (l : Link) (mode : Nat) (classes : List Nat) : Effects (ownSubscribe l mode classes) := by
  intro s
  unfold ownSubscribe
  split
  · exact .nothing
  split
  · exact .nothing
  split
  · exact .nothing
  · exact .settings l (settles_subs _)

theorem effects_ownTake (l : Link) (n : Nat) : Effects (ownTake l n) := by
  intro s
  unfold ownTake
  split
  · exact .nothing
  · exact .settings l (settles_take _)

theorem effects_ownSetTrigger (l : Link) (k : Nat) : Effects (ownSetTrigger l k) := by
  intro s
  unfold ownSetTrigger
  split
  · exact .nothing
  · exact .settings l (settles_trigger k)

theorem effects_ownSetTimeouts (t : Timeouts) : Effects (ownSetTimeouts t) := by
  intro s
  unfold ownSetTimeouts
  split
  · exact .nothing
  · exact .timeouts t

/-- The owner of every request does one of the effects. -/
theorem request_effects {i : Instr} {q : Req} {code : Nat} {body : List Field}
    (h : requestParts i = some (q, code, body)) :
    ∃ need owner, (∀ s, exec i s = request q code need owner s) ∧ ∀ n, Effects (owner n) := by
  cases i <;> simp only [requestParts, Option.some.injEq, Prod.mk.injEq, reduceCtorEq] at h <;>
    obtain ⟨rfl, rfl, rfl⟩ := h <;> refine ⟨_, _, fun _ => rfl, fun n => ?_⟩
  case induct => exact effects_ownInduct _ _
  case start => exact effects_ownStart
  case drain => exact effects_ownDrain
  case halt => exact fun _ => .halt _
  case recover => exact effects_ownRecover
  case clearLine => exact effects_ownClearLine
  case getLine => exact effects_reads _
  case getTraveler => exact effects_withTag fun _ _ _ _ => .nothing
  case listTravelers => exact effects_ownListTravelers _ _
  case openRecipe => exact effects_ownOpenRecipe _ _
  case putWindows => exact effects_ownPut _ _ _ _ _ _
  case putSites => exact effects_ownPut _ _ _ _ _ _
  case putStrokes => exact effects_ownPut _ _ _ _ _ _
  case finishRecipe => exact effects_ownFinishRecipe _
  case dropRecipe => exact effects_ownDropRecipe _
  case getRecipe => exact effects_ownGetRecipe _ _ _
  case getRecipeProfile => exact effects_ownGetRecipeProfile _
  case putCureProfile => exact effects_ownPutCureProfile _ _
  case dropCureProfile => exact effects_ownDropCureProfile _
  case setHead => exact effects_ownSetHead _ _
  case mountLot => exact effects_ownMountLot _ _
  case unmountLot => exact effects_ownUnmountLot _
  case getLot => exact effects_reads _
  case claim => exact effects_ownClaim _ _ _
  case unclaim => exact effects_ownUnclaim _ _
  case postFiducials => exact effects_ownPostFiducials _ _ _ _ _
  case postSite => exact effects_ownPostSite _ _ _ _
  case postCoverage => exact effects_ownPostCoverage _ _ _ _
  case complete => exact effects_ownComplete _ _
  case setGantryLimits => exact effects_ownSetGantryLimits _
  case setOvenGeometry => exact effects_ownSetOvenGeometry _ _ _
  case setOvenSpeed => exact effects_ownSetOvenSpeed _
  case getOven => exact effects_reads _
  case setReleaseLevel => exact effects_ownSetReleaseLevel _ _
  case placeHold => exact effects_ownPlaceHold _ _ _
  case releaseHold => exact effects_ownReleaseHold _ _ _ _
  case releaseHoldAll => exact effects_ownReleaseHoldAll _ _ _
  case dispose => exact effects_ownDispose _ _ _
  case subscribe => exact effects_ownSubscribe _ _ _
  case take => exact effects_ownTake _ _
  case peek => exact effects_reads _
  case setTrigger => exact effects_ownSetTrigger _ _
  case restart => exact fun _ => .restart _
  case getConfig => exact effects_reads _
  case setTimeouts => exact effects_ownSetTimeouts _

/-! ### What an event can do -/

/-- What a command that is no request does to the block, the lamps apart: nothing where its conditions fail, else the
effect of its row. -/
inductive Happening (s : State) : State → Prop
  | nothing : Happening s s
  | link (l : Link) {f : LinkState → LinkState} (ok : ∀ x : LinkState, x.Ok → (f x).Ok) : Happening s (s.onLink l f)
  | reset (p : StrapPins) : Happening s (s.resetBlocks p)
  | secondTick : Happening s
      (s.cure.oven.foldl State.accrue (s.onIo fun io => { io with seconds := io.seconds + 1 }))
  | lotExpiry {n : Nat} {m : Lot} (due : s.lotExpires n = some m) :
      Happening s ((s.setLot n { m with state := .expired }).post (.lotExpired m.head n m.id))
  | flashOverdue (t : Nat) : Happening s (s.examineOverdue t)
  | sampling (k n : Nat) (l : List ChannelSignals) : Happening s (State.sampleFrom k n l s)
  | blink : Happening s (s.onIo fun io => { io with blinkOn := !io.blinkOn })
  | belt : Happening s (((s.onCure fun c => { c with prescaler := s.io.timeouts.reload }).onTable fun b =>
      { b with records := b.records.map advanceLead }).examineStall)
  | sensor (x : Sensor) (occupied : Bool) : Happening s (s.onIo (·.setSensor x occupied))
  | flashEndVacant (x : Sensor) (occupied : Bool) :
      Happening s ((s.onIo (·.setSensor x occupied)).onCure fun c => { c with stopUp := true })
  | transferEnd {t : Nat} {e : Transfer} (due : s.transferEnds t = some e) :
      Happening s ((s.finishTransfer e).handArrival e.dest)
  | jam (tag : Text) (t : Nat) : Happening s (s.enterHalt .jam (some (.board tag t)))
  | inspection {x : Station} {i : Inspection} (due : s.inspectionExpired x = some i) :
      Happening s (s.expireInspection x i)
  | valveTimer {v : OpenValve} (valve : s.engine.valve = some v) :
      Happening s (s.onEngine fun e => { e with valve := some { v with openMs := v.duration } }).closeValve
  | portTimeout {o : Outstanding} (port : s.engine.port = .waiting o) : Happening s
      (((s.closeValve).onEngine fun e => { e with port := .lost, reference := none }).enterHalt .gantry none)
  | parked {o : Outstanding} {h : Nat} {p : Point} {v : Nat} (port : s.engine.port = .waiting o)
      (message : o.message = .move h p v) : Happening s (s.quiet o.target).parked
  | arrived {o : Outstanding} {h : Nat} {p : Point} {v : Nat} (port : s.engine.port = .waiting o)
      (message : o.message = .move h p v) : Happening s (s.quiet o.target).arrivedInProgram
  | passDone {o : Outstanding} {t : Nat} {w : StrokeWork} (port : s.engine.port = .waiting o)
      (cell : s.engine.cell = .running) (board : s.engine.board = some t) :
      Happening s ((s.quiet o.target).closeValve.endPass t w)
  | passOver {o : Outstanding} (port : s.engine.port = .waiting o) : Happening s (s.quiet o.target).closeValve
  | stopped {o : Outstanding} (port : s.engine.port = .waiting o) (message : o.message = .stop) :
      Happening s (s.quiet none).parkAgain
  | faultCode (code : Nat) : Happening s (s.onEngine fun e => { e with lastFault := some code })
  | faultAtStop (code : Nat) {o : Outstanding} (port : s.engine.port = .waiting o) (message : o.message = .stop) :
      Happening s (((s.onEngine fun e => { e with lastFault := some code }).quiet none).parkAgain)
  | faultAtPark (code : Nat) {o : Outstanding} (port : s.engine.port = .waiting o) (message : o.message.isPark = true) :
      Happening s (((s.onEngine fun e => { e with lastFault := some code }).quiet none).faultAtPark code)
  | faultInProgram (code : Nat) {o : Outstanding} (port : s.engine.port = .waiting o) (message : o.message ≠ .stop) :
      Happening s (((s.onEngine fun e => { e with lastFault := some code }).quiet none).faultInProgram code)
  | estopAsserted : Happening s
      (s.onIo fun io =>
        { io with estop := true, estopHanded := true, estopRun := 0,
                  inputs := { io.inputs with estopLow := true } }).closeValve
  | estopTaken : Happening s ((s.onIo fun io => { io with estopHanded := false }).enterHalt .estop none)
  | estopReleased : Happening s (s.onIo fun io =>
      { io with estop := false, estopRun := 0, inputs := { io.inputs with estopLow := false } })
  | queueRelease {t : Nat} (due : s.queueReady = some t) :
      Happening s ((s.startTransfer t .queue .preStation).handArrival .preStation)
  | decidePre : Happening s s.decidePre
  | decideExit : Happening s s.decideExit
  | programStart {t : Nat} (due : s.programReady = some t) : Happening s (s.startProgram t)
  | flashStart {t : Nat} (due : s.flashReady = some t) : Happening s (s.startTransfer t .cell .flashBelt)
  | flashStartDecide {t : Nat} (due : s.flashReady = some t) :
      Happening s (s.startTransfer t .cell .flashBelt).decidePre
  | admission {a : Admission} (due : s.admission = some a) : Happening s (s.admitBoard a)
  | exitMove {e : OvenEntry} (due : s.exitMove = some e) : Happening s (s.moveOut e)
  | exitStart {t : Nat} (due : s.exitReady = some t) : Happening s (s.startTransfer t .accumulator .postStation)
  | drainDone : Happening s s.drainDone

/-- An outcome that is what an event can do, with the stack light set again. -/
def IsHappening (s : State) (o : Host.Outcome State Fault Refusal) : Prop := ∃ v, Happening s v ∧ o = .next v.relight

theorem isHappening_event {s v : State} (h : Happening s v) : IsHappening s (event v) := ⟨v, h, rfl⟩

theorem frameEnded_ok (x : LinkState) (h : x.Ok) : x.frameEnded.Ok := h

/-! ### The events, one by one -/

theorem placesTaken_lt {x : LinkState} (h : ¬ x.answersFull = true) : x.placesTaken < Config.answerCapacity :=
  Nat.lt_of_not_le fun hle => h (decide_eq_true hle)

theorem placesTaken_idle {x : LinkState} (h : x.inService = false) : x.placesTaken = x.answers.length := by
  simp [LinkState.placesTaken, h]

/-- An answer of the interface itself, where there is room for it, keeps the link within its capacity (R165). -/
theorem answer_ok {x : LinkState} (a : Answer) (h : x.Ok) (hroom : ¬ x.answersFull = true) :
    (x.frameEnded.answer a).Ok := by
  refine ⟨h.1, ?_, h.2.2⟩
  have hplaces := placesTaken_lt hroom
  have hone : (x.frameEnded.answer a).placesTaken = x.placesTaken + 1 := by
    simp only [LinkState.placesTaken, LinkState.answer, LinkState.frameEnded, List.length_append,
      List.length_singleton]
    exact Nat.add_right_comm _ _ _
  omega

/-- The update by which an interface answers a frame itself where it has room. -/
def answeredAlone (a : Answer) (x : LinkState) : LinkState := if x.answersFull then x else x.frameEnded.answer a

theorem answeredAlone_ok (a : Answer) (x : LinkState) (h : x.Ok) : (answeredAlone a x).Ok := by
  unfold answeredAlone
  split
  · exact h
  · exact answer_ok a h ‹_›

/-- A frame that ended and is answered by its interface, which has room. -/
theorem onLink_answeredAlone {s : State} {l : Link} (a : Answer) (hroom : ¬ (s.link l).answersFull = true) :
    (s.onLink l LinkState.frameEnded).onLink l (·.answer a) = s.onLink l (answeredAlone a) := by
  rw [onLink_onLink]
  exact onLink_congr (by simp [answeredAlone, hroom])

theorem link_frameEnded (s : State) (l : Link) :
    (s.onLink l LinkState.frameEnded).link l = (s.link l).frameEnded := by simp [State.link]

theorem happening_badFrame (q : Req) (code : Nat) (s : State) : Happening s (s.badFrame q code) := by
  unfold State.badFrame
  dsimp only
  rw [link_frameEnded]
  split
  · exact .link q.link frameEnded_ok
  · rename_i hroom
    rw [onLink_answeredAlone _ hroom]
    exact .link q.link (answeredAlone_ok _)

theorem happening_startMark (l : Link) (s : State) : IsHappening s (execStartMarkReceived l s) :=
  isHappening_event (.link l fun x hx => by split <;> exact hx)

theorem happening_answerSent (l : Link) (s : State) : IsHappening s (execAnswerSent l s) := by
  refine isHappening_event (.link l fun x hx => ?_)
  split
  · exact hx
  · refine ⟨hx.1, Nat.le_trans ?_ hx.2.1, hx.2.2⟩
    simp [LinkState.placesTaken]

theorem happening_lotExpiry (n : Nat) (s : State) : IsHappening s (execLotExpiry n s) := by
  refine isHappening_event ?_
  split
  · exact .nothing
  · exact .lotExpiry ‹_›

theorem happening_sensorChange (x : Sensor) (occupied : Bool) (s : State) :
    IsHappening s (execSensorChange x occupied s) := by
  refine isHappening_event ?_
  split
  · exact .nothing
  dsimp only
  split
  · exact .flashEndVacant x occupied
  · exact .sensor x occupied

theorem happening_transferEnd (t : Nat) (s : State) : IsHappening s (execTransferEnd t s) := by
  refine isHappening_event ?_
  split
  · exact .nothing
  · exact .transferEnd ‹_›

theorem happening_transferTimerExpiry (t : Nat) (s : State) : IsHappening s (execTransferTimerExpiry t s) := by
  refine isHappening_event ?_
  split
  · exact .jam _ _
  · exact .nothing

theorem happening_inspectionTimerExpiry (x : Station) (s : State) :
    IsHappening s (execInspectionTimerExpiry x s) := by
  refine isHappening_event ?_
  split
  · exact .nothing
  · exact .inspection ‹_›

theorem happening_valveTimerExpiry (s : State) : IsHappening s (execValveTimerExpiry s) := by
  refine isHappening_event ?_
  split
  · exact .nothing
  · exact .valveTimer ‹_›

theorem happening_gantryPortTimeout (s : State) : IsHappening s (execGantryPortTimeout s) := by
  refine isHappening_event ?_
  split
  · exact .portTimeout ‹_›
  all_goals exact .nothing

theorem happening_arrived (s : State) : IsHappening s (execArrived s) := by
  refine isHappening_event ?_
  split
  · split
    · dsimp only
      split
      · exact .parked ‹_› ‹_›
      · exact .arrived ‹_› ‹_›
    all_goals exact .nothing
  all_goals exact .nothing

theorem quiet_closeValve_engine (s : State) (p : Option Point) :
    (s.quiet p).closeValve.engine.cell = s.engine.cell ∧ (s.quiet p).closeValve.engine.board = s.engine.board := by
  rw [closeValve_engine]
  exact ⟨rfl, rfl⟩

theorem happening_passDone (s : State) : IsHappening s (execPassDone s) := by
  refine isHappening_event ?_
  split
  · split
    · dsimp only
      split
      · rename_i hcell hboard _
        rw [(quiet_closeValve_engine _ _).1] at hcell
        rw [(quiet_closeValve_engine _ _).2] at hboard
        exact .passDone ‹_› hcell hboard
      · exact .passOver ‹_›
    all_goals exact .nothing
  all_goals exact .nothing

theorem happening_stopped (s : State) : IsHappening s (execStopped s) := by
  refine isHappening_event ?_
  split
  · split
    · exact .stopped ‹_› ‹_›
    · exact .nothing
  all_goals exact .nothing

theorem happening_gantryFault (code : Nat) (s : State) : IsHappening s (execGantryFault code s) := by
  refine isHappening_event ?_
  dsimp only
  split
  · rename_i o hport
    split
    · exact .faultAtStop code (o := o) hport ‹_›
    · split
      · exact .faultAtPark code (o := o) hport ‹_›
      · exact .faultInProgram code (o := o) hport ‹_›
  all_goals exact .faultCode code

theorem happening_estopAssertion (s : State) : IsHappening s (execEstopAssertion s) := by
  refine isHappening_event ?_
  split
  · exact .nothing
  · exact .estopAsserted

theorem happening_estopTaken (s : State) : IsHappening s (execEstopTaken s) := by
  refine isHappening_event ?_
  split
  · exact .estopTaken
  · exact .nothing

theorem happening_estopRelease (s : State) : IsHappening s (execEstopRelease s) := by
  refine isHappening_event ?_
  split
  · exact .estopReleased
  · exact .nothing

theorem happening_queueRelease (s : State) : IsHappening s (execQueueRelease s) := by
  refine isHappening_event ?_
  split
  · exact .nothing
  · exact .queueRelease ‹_›

theorem happening_programStart (s : State) : IsHappening s (execProgramStart s) := by
  refine isHappening_event ?_
  split
  · exact .nothing
  · exact .programStart ‹_›

theorem handArrival_flashBelt (s : State) : s.handArrival .flashBelt = s.decidePre := rfl

theorem happening_flashTransferStart (s : State) : IsHappening s (execFlashTransferStart s) := by
  refine isHappening_event ?_
  split
  · exact .nothing
  · rename_i t ht
    dsimp only
    split
    · rw [handArrival_flashBelt]
      exact .flashStartDecide ht
    · exact .flashStart ht

theorem happening_ovenAdmission (s : State) : IsHappening s (execOvenAdmission s) := by
  refine isHappening_event ?_
  split
  · exact .nothing
  · exact .admission ‹_›

theorem happening_ovenExitMove (s : State) : IsHappening s (execOvenExitMove s) := by
  refine isHappening_event ?_
  split
  · exact .nothing
  · exact .exitMove ‹_›

theorem happening_exitTransferStart (s : State) : IsHappening s (execExitTransferStart s) := by
  refine isHappening_event ?_
  split
  · exact .nothing
  · exact .exitStart ‹_›

/-- A command that is no request does one of the events' effects. -/
theorem exec_happening {i : Instr} (h : requestParts i = none) (s : State) : IsHappening s (exec i s) := by
  cases i <;> simp only [requestParts, reduceCtorEq] at h
  case badFrame q code => exact isHappening_event (happening_badFrame q code s)
  case frameDiscarded l c => exact isHappening_event (.link l frameEnded_ok)
  case interByteTimeout l => exact isHappening_event (.link l frameEnded_ok)
  case powerOnReset p => exact isHappening_event (.reset p)
  case resetPin p => exact isHappening_event (.reset p)
  case secondTick => exact isHappening_event .secondTick
  case lotExpiry n => exact happening_lotExpiry n s
  case flashOverdue t => exact isHappening_event (.flashOverdue t)
  case samplingRound l => exact isHappening_event (.sampling _ _ l)
  case blinkToggle => exact isHappening_event .blink
  case beltAdvance => exact isHappening_event .belt
  case sensorChange x o => exact happening_sensorChange x o s
  case transferEnd t => exact happening_transferEnd t s
  case transferTimerExpiry t => exact happening_transferTimerExpiry t s
  case inspectionTimerExpiry x => exact happening_inspectionTimerExpiry x s
  case valveTimerExpiry => exact happening_valveTimerExpiry s
  case gantryPortTimeout => exact happening_gantryPortTimeout s
  case arrived => exact happening_arrived s
  case passDone => exact happening_passDone s
  case stopped => exact happening_stopped s
  case gantryFault code => exact happening_gantryFault code s
  case estopAssertion => exact happening_estopAssertion s
  case estopTaken => exact happening_estopTaken s
  case estopRelease => exact happening_estopRelease s
  case queueRelease => exact happening_queueRelease s
  case preDiverterDecision => exact isHappening_event .decidePre
  case programStart => exact happening_programStart s
  case flashTransferStart => exact happening_flashTransferStart s
  case ovenAdmission => exact happening_ovenAdmission s
  case ovenExitMove => exact happening_ovenExitMove s
  case exitTransferStart => exact happening_exitTransferStart s
  case exitDiverterDecision => exact isHappening_event .decideExit
  case drainComplete => exact isHappening_event .drainDone
  case startMarkReceived l => exact happening_startMark l s
  case answerSent l => exact happening_answerSent l s

/-! ### The service of a request -/

/-- What the service of a request leaves: its link alone changed, or its owner's effect between the entry into service and
the answer. -/
inductive Service (s : State) (q : Req) : State → Prop
  | untaken {f : LinkState → LinkState} (ok : ∀ x : LinkState, x.Ok → (f x).Ok) : Service s q (s.onLink q.link f)
  | taken {v : State} (a : Answer) (room : (s.link q.link).answers.length < Config.answerCapacity)
      (idle : (s.link q.link).inService = false) (effect : Effect (s.inServiceOf q) v) :
      Service s q (v.onLink q.link (·.finish a))

theorem service_serve {s : State} {q : Req} (code need : Nat) {owner : Nat → State → State × Reply}
    (h : ∀ n, Effects (owner n)) : Service s q (s.serve q code need owner) := by
  unfold State.serve
  dsimp only
  rw [link_frameEnded]
  split
  · exact .untaken frameEnded_ok
  rename_i hroom
  have untaken (a : Answer) :
      Service s q ((s.onLink q.link LinkState.frameEnded).onLink q.link (·.answer a)) := by
    rw [onLink_answeredAlone a hroom]
    exact .untaken (answeredAlone_ok a)
  split
  · exact untaken _
  rename_i hbusy
  split
  · exact untaken _
  split
  · exact untaken _
  obtain ⟨hidle, -⟩ : (s.link q.link).inService = false ∧ q.overlaps = false := by
    simpa [LinkState.frameEnded] using hbusy
  refine .taken _ ?_ hidle ?_
  · have := placesTaken_lt (x := s.link q.link) hroom
    rwa [placesTaken_idle hidle] at this
  · rw [onLink_onLink]
    exact h _ _

/-! ### The idle moment -/

/-- What an idle moment leaves of the block: it counts in the engine, the links, the prescaler and the time base, and
queues rows. -/
structure Idles (s u : State) : Prop where
  table     : u.table = s.table
  recipes   : u.recipes = s.recipes
  lots      : u.lots = s.lots
  mask      : u.mask = s.mask
  holds     : u.holds = s.holds
  cure      : u.cure = { s.cure with prescaler := u.cure.prescaler }
  cell      : u.engine.cell = s.engine.cell
  board     : u.engine.board = s.engine.board
  port      : u.engine.port = s.engine.port ∨ u.engine.port = s.engine.port.tick
  valve     : u.engine.valve = s.engine.valve ∨
    u.engine.valve = s.engine.valve.map fun v => { v with openMs := v.openMs + 1 }
  estop     : u.io.estop = s.io.estop
  straps    : u.io.straps = s.io.straps
  sensors   : s.io.sensors.length = s.io.inputs.sensors.length → u.io.sensors.length = s.io.sensors.length
  inputs    : u.io.inputs.sensors = s.io.inputs.sensors
  links     : s.LinksOk → u.LinksOk

theorem Idles.refl (s : State) : Idles s s :=
  ⟨rfl, rfl, rfl, rfl, rfl, rfl, rfl, rfl, .inl rfl, .inl rfl, rfl, rfl, fun _ => rfl, rfl, id⟩

theorem idles_pending (s : State) (l : List Instr) : Idles s { s with pending := l } := { Idles.refl s with }

theorem linksOk_onLink {s : State} (l : Link) {f : LinkState → LinkState} (hf : ∀ x : LinkState, x.Ok → (f x).Ok)
    (h : s.LinksOk) : (s.onLink l f).LinksOk := by
  intro k
  by_cases hk : k = l
  · subst hk
    simpa [State.link] using hf _ (h k)
  · simpa [State.link, hk] using h k

@[simp] theorem setRx_sensors (x : Inputs) (l : Link) (bytes : List Byte) : (x.setRx l bytes).sensors = x.sensors := by
  cases l <;> rfl

theorem idles_takeByte (s : State) (l : Link) (b : Byte) (rest : List Byte) : Idles s (s.takeByte l b rest) := by
  refine { Idles.refl s with inputs := setRx_sensors _ _ _, links := fun h => ?_ }
  exact linksOk_onLink (s := s.onIo fun io => { io with inputs := io.inputs.setRx l rest }) l (fun _ hx => hx) h

theorem idles_countPulse (s : State) : Idles s s.countPulse := by
  unfold State.countPulse
  dsimp only
  split
  · exact { Idles.refl s with }
  · exact { Idles.refl s with cure := rfl }

theorem idles_tick (s : State) : Idles s s.tick := by
  refine { Idles.refl s with
    port := .inr rfl, valve := .inr rfl, sensors := fun h => ?_, links := fun h l => ?_ }
  · show (List.zipWith SensorState.tick s.io.sensors s.io.inputs.sensors).length = _
    rw [List.length_zipWith, ← h, Nat.min_self]
  · have := h l
    cases l <;> exact this

theorem idles_idle (s : State) : Idles s s.idle := by
  unfold State.idle
  split
  · exact idles_pending s _
  split
  · exact idles_takeByte s _ _ _
  split
  · exact idles_countPulse s
  split
  · exact idles_tick s
  · exact Idles.refl s

/-! ### Every step -/

/-- What a step can do: an idle moment, an event, or the service of a request. -/
inductive Steps (s : State) : State → Prop
  | idle {u : State} (h : Idles s u) : Steps s u
  | event {rest : List Instr} {v : State} (h : Happening (s.withPending rest) v) : Steps s v.relight
  | request {rest : List Instr} {q : Req} {v : State} (h : Service (s.withPending rest) q v) : Steps s v.relight

theorem step_cases {s u : State} (h : step s = .next u) : Steps s u := by
  unfold step at h
  split at h
  · cases h
    exact .idle (idles_idle s)
  · rename_i i rest _
    cases hi : requestParts i with
    | none =>
      obtain ⟨v, hv, he⟩ := exec_happening hi (s.withPending rest)
      rw [he] at h
      cases h
      exact .event hv
    | some x =>
      obtain ⟨q, code, body⟩ := x
      obtain ⟨need, owner, he, ho⟩ := request_effects hi
      rw [he] at h
      cases h
      exact .request (service_serve code need ho)

/-- An invariant of the block that does not speak of the links, the lamps and the waiting commands is kept by every step
that keeps it through each effect, each event and each idle moment. -/
theorem step_keeps {J : State → Prop} (hlink : ∀ (s : State) l f, J s → J (s.onLink l f))
    (hlight : ∀ s : State, J s → J s.relight) (hpending : ∀ (s : State) l, J s → J (s.withPending l))
    (heffect : ∀ {s u}, Effect s u → J s → J u) (hevent : ∀ {s u}, Happening s u → J s → J u)
    (hidle : ∀ {s u}, Idles s u → J s → J u) {s u : State} (hs : J s) (h : step s = .next u) : J u := by
  cases step_cases h with
  | idle hi => exact hidle hi hs
  | event he => exact hlight _ (hevent he (hpending _ _ hs))
  | request hq =>
    refine hlight _ ?_
    cases hq with
    | untaken => exact hlink _ _ _ (hpending _ _ hs)
    | taken a _ _ he => exact hlink _ _ _ (heffect he (hlink _ _ _ (hpending _ _ hs)))

end Sys2Proof.Machine
end

section
/-! PROOF of the invariants, second part: the links, the belt's output, the halt cause, the volumes, the doses, the queue's
occupancy and the table sizes (O6, O7's first half, O8 to O11, O12's first third). Most effects are calm; the others
change the line mode, the belt, the queue or the inputs, and have a lemma each. -/

namespace Sys2Proof.Machine

/-- A stretch that keeps the invariants that a calm stretch keeps, without being calm. -/
structure Sound (s u : State) : Prop where
  links   : s.LinksOk → u.LinksOk
  belt    : s.BeltOk → u.BeltOk
  halt    : s.HaltOk → u.HaltOk
  volumes : s.VolumesOk → u.VolumesOk
  doses   : s.DosesOk → u.DosesOk
  queue   : s.QueueOk → u.QueueOk
  shaped  : s.Shaped → u.Shaped

namespace Sound

theorem refl (s : State) : Sound s s := ⟨id, id, id, id, id, id, id⟩

theorem trans {s t u : State} (h : Sound s t) (k : Sound t u) : Sound s u :=
  ⟨k.links ∘ h.links, k.belt ∘ h.belt, k.halt ∘ h.halt, k.volumes ∘ h.volumes, k.doses ∘ h.doses, k.queue ∘ h.queue,
    k.shaped ∘ h.shaped⟩

end Sound

theorem beltOk_congr {s u : State} (hm : u.table.mode = s.table.mode) (ho : u.cure.output = s.cure.output)
    (hst : u.cure.stalled = s.cure.stalled) (hp : u.cure.setpoint = s.cure.setpoint) (h : s.BeltOk) : u.BeltOk := by
  unfold State.BeltOk State.mode at *
  rw [hm, ho, hst, hp, h]

theorem haltOk_congr {s u : State} (hm : u.table.mode = s.table.mode) (hc : u.table.cause = s.table.cause)
    (hd : u.table.detail = s.table.detail) (h : s.HaltOk) : u.HaltOk := by
  unfold State.HaltOk at *
  rw [hm, hc, hd]
  exact h

theorem Calm.sound {s u : State} (h : Calm s u) : Sound s u where
  links := h.links
  belt := beltOk_congr h.mode h.output h.stalled h.setpoint
  halt := haltOk_congr h.mode h.cause h.detail
  volumes := h.volumes
  doses := h.doses
  queue := Nat.le_trans h.room
  shaped := h.shaped

/-- A stretch of a request: sound, and every link's frames as they were. -/
structure SoundFrames (s u : State) : Prop extends Sound s u where
  frames : FramesKept s u

theorem Calm.soundFrames {s u : State} (h : Calm s u) : SoundFrames s u := ⟨h.sound, h.frames⟩

theorem SoundFrames.trans {s t u : State} (h : SoundFrames s t) (k : SoundFrames t u) : SoundFrames s u :=
  ⟨h.toSound.trans k.toSound, h.frames.trans k.frames⟩

/-! ### The line mode -/

theorem driveOutput_belt (s : State) : s.driveOutput.BeltOk := by
  simp only [State.BeltOk, State.driveOutput, onCure_cure]
  rfl

/-- Driving the output keeps all but the belt's invariant, which it makes hold (R115). -/
theorem sound_driveOutput (s : State) : SoundFrames s s.driveOutput where
  links := id
  belt := fun _ => driveOutput_belt s
  halt := id
  volumes := id
  doses := id
  queue := id
  shaped := id
  frames := fun _ => ⟨rfl, rfl, rfl⟩

/-- Outside HALT the halt cause is sound where there is none (R7). -/
theorem haltOk_of_none {s : State} (hm : s.table.mode ≠ .halt) (hc : s.table.cause = none)
    (hd : s.table.detail = none) : s.HaltOk := by
  unfold State.HaltOk
  rw [hc, hd]
  cases h : s.table.mode
  case halt => exact absurd h hm
  all_goals trivial

/-- A change of line mode outside HALT, whose belt output stands. -/
theorem sound_setMode (s : State) (m : LineMode) (hs : s.mode ≠ .halt) (hm : m ≠ .halt) :
    SoundFrames s (s.setMode m none none) where
  links := fun h => (calm_post (s.onTable _) _).links h
  belt := fun h => by
    have hs' : s.table.mode ≠ .halt := hs
    have hcure : (s.setMode m none none).cure = s.cure := rfl
    have hmode : (s.setMode m none none).table.mode = m := rfl
    simpa only [State.BeltOk, State.mode, hcure, hmode, hm, hs', false_or] using h
  halt := fun _ => haltOk_of_none (s := s.setMode m none none) hm rfl rfl
  volumes := id
  doses := id
  queue := id
  shaped := id
  frames := frames_setMode s m none none

theorem sound_run {s : State} (hm : s.mode = .idle ∨ s.mode = .drain) : SoundFrames s s.run :=
  (sound_setMode s .run (by rcases hm with h | h <;> rw [h] <;> nofun) nofun).trans (calm_decidePre _).soundFrames

theorem sound_drainDone (s : State) : SoundFrames s s.drainDone := by
  unfold State.drainDone
  split
  · rename_i h
    exact sound_setMode s .idle (by rw [h.1]; nofun) nofun
  · exact (Calm.refl s).soundFrames

theorem sound_drain {s : State} (hm : s.mode = .run) :
    SoundFrames s ((s.setMode .drain none none).decidePre).drainDone :=
  ((sound_setMode s .drain (by rw [hm]; nofun) nofun).trans (calm_decidePre _).soundFrames).trans (sound_drainDone _)

/-- The cause and the detail that an entry into HALT may carry (R7). -/
def HaltForm : HaltCause → Option HaltDetail → Prop
  | .estop, none | .gantry, none | .request, some (.link _) | .jam, some (.board _ _) => True
  | _, _ => False

theorem haltOk_of_form {s : State} {c : HaltCause} {d : Option HaltDetail} (hm : s.table.mode = .halt)
    (hc : s.table.cause = some c) (hd : s.table.detail = d) (h : HaltForm c d) : s.HaltOk := by
  unfold State.HaltOk
  rw [hm, hc, hd]
  cases c <;> rcases d with _ | (_ | _) <;> simp [HaltForm] at h ⊢

theorem sound_enterHalt (s : State) {c : HaltCause} {d : Option HaltDetail} (hf : HaltForm c d) :
    SoundFrames s (s.enterHalt c d) := by
  by_cases hm : s.mode = .halt
  · rw [enterHalt_same s c d hm]
    exact (Calm.refl s).soundFrames
  let v := (s.setMode .halt (some c) d).post (.halted c d)
  have hu : s.enterHalt c d = v.haltEngine.driveOutput.haltTransfers := if_neg hm
  have hv : Calm v v.haltEngine := calm_haltEngine v
  have hlast : Calm v.haltEngine.driveOutput (s.enterHalt c d) := hu ▸ calm_haltTransfers _
  obtain ⟨hmode, hcause, hdetail, -⟩ := enterHalt_spec s c d hm
  exact
    { links := fun h => hlast.links (hv.links ((calm_post _ _).links ((calm_post (s.onTable _) _).links h)))
      belt := fun _ => hlast.sound.belt (driveOutput_belt _)
      halt := fun _ => haltOk_of_form hmode hcause hdetail hf
      volumes := fun h => hlast.volumes (hv.volumes h)
      doses := fun h => hlast.doses (hv.doses h)
      queue := fun h => Nat.le_trans hlast.room (Nat.le_trans hv.room h)
      shaped := fun h => hlast.shaped (hv.shaped h)
      frames := frames_enterHalt s c d }

/-! ### Recover and line clear -/

/-- A stall begins with the belt stopped (R134). -/
theorem sound_examineStall (s : State) : SoundFrames s s.examineStall := by
  unfold State.examineStall
  split
  · exact (Calm.refl s).soundFrames
  split
  · have hstall : SoundFrames s (s.onCure fun c => { c with stalled := true }).driveOutput :=
      ⟨⟨id, fun _ => driveOutput_belt _, id, id, id, id, id⟩, fun _ => ⟨rfl, rfl, rfl⟩⟩
    exact hstall.trans (calm_post _ _).soundFrames
  · exact (Calm.refl s).soundFrames

/-- The infeed queue grows no longer and the transfer list gains no entry. -/
structure Shrinks (s u : State) : Prop where
  queue     : u.table.queue.length ≤ s.table.queue.length
  transfers : ∀ e ∈ u.table.transfers, e ∈ s.table.transfers

theorem Shrinks.of_table {s u : State} (h : u.table = s.table) : Shrinks s u :=
  ⟨by rw [h], fun _ he => h ▸ he⟩

theorem Shrinks.of_records {s u : State} (h : RecordsOnly s u) : Shrinks s u := by
  obtain ⟨ht, hq, -⟩ := recordsOnly_fields h
  exact ⟨by rw [hq], fun _ he => ht ▸ he⟩

theorem Shrinks.trans {s t u : State} (h : Shrinks s t) (k : Shrinks t u) : Shrinks s u :=
  ⟨Nat.le_trans k.queue h.queue, fun e he => h.transfers e (k.transfers e he)⟩

theorem retire_table (s : State) {t : Nat} {r : Traveler} (o : RetireOutcome) (h : s.traveler t = some r) :
    (s.retire t o).table = { s.table with
      records := putNth s.table.records t none, free := s.table.free ++ [t],
      index := s.table.index.filter (fun e => e.2 != t), queue := s.table.queue.filter (· != t),
      transfers := s.table.transfers.filter (fun e => e.traveler != t) } := by
  unfold State.retire
  simp only [h]
  rfl

theorem retire_dead {s : State} {t : Nat} (o : RetireOutcome) (h : s.traveler t = none) : s.retire t o = s := by
  simp [State.retire, h]

theorem shrinks_retire (s : State) (t : Nat) (o : RetireOutcome) : Shrinks s (s.retire t o) := by
  cases h : s.traveler t with
  | none => rw [retire_dead o h]; exact .of_table rfl
  | some r =>
    constructor
    · rw [retire_table s o h]
      exact List.length_filter_le _ _
    · rw [retire_table s o h]
      exact fun e he => (List.mem_filter.1 he).1

@[simp] theorem receive_table (s : State) (t : Nat) (d : Place) : (s.receive t d).table = s.table := by
  cases d <;> rfl

@[simp] theorem leaveStation_table (s : State) (a : Place) : (s.leaveStation a).table = s.table := by
  cases a <;> rfl

theorem shrinks_settle (s : State) (e : Transfer) : Shrinks s (s.settle e) := by
  unfold State.settle
  split
  · exact shrinks_retire s _ _
  · exact (Shrinks.of_records (recordsOnly_moveStage s _ _ _)).trans (.of_table (by rw [receive_table, leaveStation_table]))

/-- What giving back the slot, the cell or the mark of an unfinished transfer leaves. -/
def State.giveBack (s : State) (e : Transfer) : State :=
  match e.dest with
  | .shelf _ => s.freeSlot e.traveler
  | .cell => s.onEngine StrokeEngine.vacate
  | .flashBelt => s.onCure fun c => { c with overdue := c.overdue.filter (· != e.traveler) }
  | _ => s

/-- A board put back at the head of the list its transfer started from. -/
def State.rejoin (s : State) (e : Transfer) : State :=
  match e.source with
  | .queue => s.onTable fun b => { b with queue := e.traveler :: b.queue }
  | .accumulator => s.onCure fun c => { c with exit := e.traveler :: c.exit }
  | _ => s

theorem returnBoard_eq (s : State) (e : Transfer) :
    s.returnBoard e = ((s.giveBack e).rejoin e).moveStage e.traveler e.source.stage .present := rfl

theorem calm_giveBack (s : State) (e : Transfer) : Calm s (s.giveBack e) := by
  unfold State.giveBack
  split
  · exact calm_freeSlot s _
  · exact calm_onEngine s _
  · exact calm_onCure s _ rfl rfl rfl rfl
  · exact Calm.refl s

theorem recordsOnly_giveBack (s : State) (e : Transfer) : RecordsOnly s (s.giveBack e) := by
  unfold State.giveBack
  split
  · exact RecordsOnly.trans (t := s.onHolds _) rfl (recordsOnly_onTraveler _ _ _)
  all_goals rfl

/-- All that a calm stretch keeps but the occupancy: the infeed queue gains up to `n` boards, and no entry of the
travelers `ts` is left (R5, R13). -/
structure Resolved (s u : State) (n : Nat) (ts : List Nat) : Prop where
  frames  : FramesKept s u
  links   : s.LinksOk → u.LinksOk
  volumes : s.VolumesOk → u.VolumesOk
  doses   : s.DosesOk → u.DosesOk
  shaped  : s.Shaped → u.Shaped
  queue   : u.table.queue.length ≤ s.table.queue.length + n
  entries : ∀ x ∈ u.table.transfers, x ∈ s.table.transfers ∧ x.traveler ∉ ts

theorem Resolved.trans {s t u : State} {m n : Nat} {a b : List Nat} (h : Resolved s t m a) (k : Resolved t u n b) :
    Resolved s u (m + n) (a ++ b) where
  frames := h.frames.trans k.frames
  links := k.links ∘ h.links
  volumes := k.volumes ∘ h.volumes
  doses := k.doses ∘ h.doses
  shaped := k.shaped ∘ h.shaped
  queue := by have := h.queue; have := k.queue; omega
  entries := fun x hx => by
    obtain ⟨hx', hb⟩ := k.entries x hx
    obtain ⟨hs, ha⟩ := h.entries x hx'
    exact ⟨hs, fun he => (List.mem_append.1 he).elim ha hb⟩

theorem Calm.resolved {s u : State} (h : Calm s u) (k : Shrinks s u) : Resolved s u 0 [] where
  frames := h.frames
  links := h.links
  volumes := h.volumes
  doses := h.doses
  shaped := h.shaped
  queue := k.queue
  entries := fun x hx => ⟨k.transfers x hx, nofun⟩

theorem resolved_removeTransfer (s : State) (t : Nat) : Resolved s (s.removeTransfer t) 0 [t] :=
  { (calm_removeTransfer s t) with
    queue := Nat.le_refl _
    entries := fun x hx => by
      have hx' : x ∈ s.table.transfers.filter fun y => y.traveler != t := hx
      simpa using hx' }

/-- The boards that an entry returns to the infeed queue. -/
def rejoinCount (e : Transfer) : Nat := if e.source = .queue then 1 else 0

theorem resolved_rejoin (s : State) (e : Transfer) : Resolved s (s.rejoin e) (rejoinCount e) [] := by
  unfold State.rejoin
  split
  · rename_i hs
    exact { (Calm.refl s) with
      queue := by simp [rejoinCount, hs]
      entries := fun x hx => ⟨hx, nofun⟩ }
  · exact { (calm_onCure s (fun c => { c with exit := e.traveler :: c.exit }) rfl rfl rfl rfl) with
      queue := Nat.le_add_right _ _
      entries := fun x hx => ⟨hx, nofun⟩ }
  · exact { (Calm.refl s) with
      queue := Nat.le_add_right _ _
      entries := fun x hx => ⟨hx, nofun⟩ }

theorem resolved_returnBoard (s : State) (e : Transfer) : Resolved s (s.returnBoard e) (rejoinCount e) [] := by
  rw [returnBoard_eq]
  have hgive := (calm_giveBack s e).resolved (.of_records (recordsOnly_giveBack s e))
  have hmove := (calm_moveStage ((s.giveBack e).rejoin e) e.traveler e.source.stage .present).resolved
    (.of_records (recordsOnly_moveStage _ _ _ _))
  simpa using (hgive.trans (resolved_rejoin _ e)).trans hmove

theorem resolved_resolve (s : State) (e : Transfer) : Resolved s (s.resolve e) (rejoinCount e) [e.traveler] := by
  have hremove := resolved_removeTransfer s e.traveler
  have grow {u : State} (h : Resolved (s.removeTransfer e.traveler) u 0 []) :
      Resolved s u (rejoinCount e) [e.traveler] := by
    have := hremove.trans h
    exact { this with queue := Nat.le_trans this.queue (by omega) }
  unfold State.resolve
  dsimp only
  split
  · exact grow ((calm_settle _ e).resolved (shrinks_settle _ e))
  split
  · simpa using hremove.trans (resolved_returnBoard _ e)
  · exact grow ((calm_retire _ _ _).resolved (shrinks_retire _ _ _))

theorem resolved_foldl (es : List Transfer) (s : State) :
    Resolved s (es.foldl State.resolve s) (es.countP (·.source == .queue)) (es.map (·.traveler)) := by
  induction es generalizing s with
  | nil => exact (Calm.refl s).resolved (.of_table rfl)
  | cons e es ih =>
    have h := (resolved_resolve s e).trans (ih (s.resolve e))
    have hcount : rejoinCount e + es.countP (·.source == .queue) = (e :: es).countP (·.source == .queue) := by
      simp [rejoinCount, List.countP_cons, Nat.add_comm]
    rw [hcount] at h
    exact h

/-- With every entry resolved the occupancy has not risen (R5, R13). -/
theorem resolved_all (s : State) :
    (s.table.transfers.foldl State.resolve s).occupancy ≤ s.occupancy := by
  have h := resolved_foldl s.table.transfers s
  have hnone : (s.table.transfers.foldl State.resolve s).table.transfers = [] :=
    List.eq_nil_iff_forall_not_mem.2 fun x hx => by
      obtain ⟨hs, hn⟩ := h.entries x hx
      exact hn (List.mem_map_of_mem hs)
  unfold State.occupancy
  rw [hnone]
  exact h.queue

theorem calm_inspectFound (s : State) (e : Transfer) : Calm s (s.inspectFound e) := by
  unfold State.inspectFound
  split
  · exact calm_inspectAt s _ _
  · exact Calm.refl s

theorem calm_foldl {α : Type} {f : State → α → State} (h : ∀ s a, Calm s (f s a)) (l : List α) (s : State) :
    Calm s (l.foldl f s) := by
  induction l generalizing s with
  | nil => exact Calm.refl s
  | cons a l ih => exact (h s a).trans (ih _)

/-- Recover leads to IDLE, where no cause stands and the belt is driven (R12). -/
theorem sound_recoverLine (s : State) : SoundFrames s s.recoverLine := by
  let v := s.table.transfers.foldl State.resolve s
  let w := s.table.transfers.foldl State.inspectFound (v.setMode .idle none none)
  have hu : s.recoverLine = w.driveOutput.examineStall.leaveHaltEngine.decideExit := rfl
  have hv := resolved_foldl s.table.transfers s
  have hw : Calm (v.setMode .idle none none) w := calm_foldl calm_inspectFound _ _
  have hlast : SoundFrames w.driveOutput s.recoverLine := hu ▸
    (sound_examineStall _).trans ((calm_leaveHaltEngine _).trans (calm_decideExit _)).soundFrames
  exact
    { links := fun h => hlast.links (hw.links ((calm_post (v.onTable _) _).links (hv.links h)))
      belt := fun _ => hlast.belt (driveOutput_belt w)
      halt := fun _ => hlast.halt (hw.sound.halt (haltOk_of_none (by nofun) rfl rfl))
      volumes := fun h => hlast.volumes (hw.volumes (hv.volumes h))
      doses := fun h => hlast.doses (hw.doses (hv.doses h))
      queue := fun h => hlast.queue (Nat.le_trans hw.room (Nat.le_trans (resolved_all s) h))
      shaped := fun h => hlast.shaped (hw.shaped (hv.shaped h))
      frames := ((hv.frames.trans (frames_setMode v _ _ _)).trans hw.frames).trans hlast.frames }

theorem sound_clear {s : State} : SoundFrames s s.clear where
  links := fun h => (calm_post _ _).links h
  belt := fun _ => driveOutput_belt _
  halt := id
  volumes := id
  doses := fun _ r hr => by
    have hr' : some r ∈ List.replicate Config.travelerCount none := hr
    simp at hr'
  queue := fun _ => by
    show 0 + 0 ≤ _
    exact Nat.zero_le _
  shaped := fun ⟨_, hslots, hprofiles, hlots, hheads, hmap, hzones, hlevels, hshelf, hsensors, hinputs⟩ =>
    ⟨List.length_replicate, (List.length_map _).trans hslots, hprofiles, hlots, hheads, hmap, hzones, hlevels,
      (List.length_map _).trans hshelf, hsensors, hinputs⟩
  frames := (calm_post _ _).frames

/-! ### The other effects that are not calm -/

/-- The board inducted makes the occupancy one more, where it was below 4 (R4, R5). -/
theorem sound_inductBoard {s : State} (t : Nat) (rest : List Nat) (tag : Text) (slot : Nat) (x : RecipeSlot)
    (room : s.occupancy < Config.queueCapacity) : SoundFrames s (s.inductBoard t rest tag slot x) where
  links := fun h => (calm_post _ _).links h
  belt := id
  halt := id
  volumes := id
  doses := fun h r hr => by
    rcases mem_putNth hr with hr | hr
    · cases hr
      exact ⟨Nat.le_refl _, Nat.zero_le _⟩
    · exact h r hr
  queue := fun _ => by
    have : (s.inductBoard t rest tag slot x).occupancy = s.occupancy + 1 := by
      have hq : (s.inductBoard t rest tag slot x).table.queue = s.table.queue ++ [t] := rfl
      have ht : (s.inductBoard t rest tag slot x).table.transfers = s.table.transfers := rfl
      simp only [State.occupancy, hq, ht, List.length_append, List.length_singleton]
      omega
    unfold State.QueueOk
    omega
  shaped := fun ⟨hrecords, hslots, h⟩ => ⟨(length_putNth _ _ _).trans hrecords, (length_putNth _ _ _).trans hslots, h⟩
  frames := (calm_post _ _).frames

theorem calm_mount (s : State) (n head : Nat) (m : LotFields) : Calm s (s.mount n head m) := by
  have hlots : Calm s (s.onLots fun b => { b with
      records := putNth b.records n (some (freshLot s.now head m)), map := putNth b.map head (some n),
      unmount := b.unmount.filter (· != n) }) := by
    refine calm_onLots s _ (fun h x hx => ?_) rfl (length_putNth _ _ _) (length_putNth _ _ _)
    rcases mem_putNth hx with hx | hx
    · cases hx
      simp [freshLot]
    · exact h x hx
  exact (hlots.trans (calm_post _ _)).trans (calm_warnLow _ n)

theorem calm_unmount {s : State} {n head : Nat} {m : Lot} (h : s.lots.mountedOn head = some (n, m)) :
    Calm s ((s.setLot n { m with state := .unmounted }).onLots fun b =>
      { b with map := putNth b.map head none, unmount := b.unmount ++ [n] }) :=
  (calm_setLot s n { m with state := .unmounted } fun hs => hs m (lot_mem (mountedOn_record h).2)).trans
    (calm_onLots _ _ id rfl (length_putNth _ _ _) rfl)

/-- The setpoint given a value, with the output after it (R115). -/
theorem sound_setSpeed (s : State) (v : Nat) (c : SpeedCause) : SoundFrames s (s.setSpeed v c) := by
  have hset : SoundFrames s (s.onCure fun c => { c with setpoint := v }).driveOutput :=
    ⟨⟨id, fun _ => driveOutput_belt _, id, id, id, id, id⟩, fun _ => ⟨rfl, rfl, rfl⟩⟩
  unfold State.setSpeed
  dsimp only
  split
  · exact hset
  · exact hset.trans (calm_post _ _).soundFrames

theorem onIo_sound (s : State) (f : LineIo → LineIo) (hstraps : (f s.io).straps = s.io.straps)
    (hsensors : (f s.io).sensors.length = s.io.sensors.length)
    (hinputs : (f s.io).inputs.sensors.length = s.io.inputs.sensors.length) : SoundFrames s (s.onIo f) where
  links := id
  belt := id
  halt := id
  volumes := id
  doses := id
  queue := id
  shaped := fun ⟨h1, h2, h3, h4, h5, h6, h7, h8, h9, h10, h11⟩ =>
    ⟨h1, h2, h3, h4, (show _ = (f s.io).straps.heads from hstraps ▸ h5), (show _ = (f s.io).straps.heads from hstraps ▸ h6),
      (show _ = (f s.io).straps.zones from hstraps ▸ h7), h8, h9, hsensors.trans h10, hinputs.trans h11⟩
  frames := fun _ => ⟨rfl, rfl, rfl⟩

theorem sound_settings (s : State) (l : Link) {f : LinkState → LinkState} (h : Settles f) :
    SoundFrames s (s.onLink l f) where
  links := linksOk_onLink l h.ok
  belt := id
  halt := id
  volumes := id
  doses := id
  queue := id
  shaped := id
  frames := fun k => by
    by_cases hk : k = l
    · subst hk
      simp [State.link, h.reception, h.inService, h.answers]
    · simp [State.link, hk]

theorem calm_dropClaim (s : State) (l : Link) (x : Station) : Calm s (s.dropClaim l x) := by
  unfold State.dropClaim
  split
  · exact Calm.refl s
  · exact calm_onTraveler s _ _ (fun _ => .inr rfl) fun _ => rfl

/-- A re-entry makes the occupancy one more, where it was below 4 (R5, R157). -/
theorem sound_reenter {s : State} {t : Nat} {r : Traveler} (route : Route) (live : s.traveler t = some r)
    (room : s.occupancy < Config.queueCapacity) : SoundFrames s (s.reenter t r route) := by
  let v := (s.setTraveler t (reentryFields (s.recipeOf r) route r)).freeSlot t
  let w := v.onTable fun b => { b with queue := b.queue ++ [t] }
  have hu : s.reenter t r route = (w.moveStage t .queued .present).decideBoth := rfl
  have hfields : (reentryFields (s.recipeOf r) route r).lifeDose = r.lifeDose ∧
      ((reentryFields (s.recipeOf r) route r).passDose = 0 ∨
        (reentryFields (s.recipeOf r) route r).passDose = r.passDose) := by
    cases route <;> simp [reentryFields]
  have hv : Calm s v := (calm_setTraveler s t _ fun hs => by
    have := dosesOk_traveler live hs
    rw [hfields.1]
    rcases hfields.2 with h | h <;> rw [h] <;> omega).trans (calm_freeSlot _ t)
  have hlast : Calm w (s.reenter t r route) := hu ▸ (calm_moveStage w t _ _).trans (calm_decideBoth _)
  have hw : w.occupancy = v.occupancy + 1 := by
    simp only [w, State.occupancy, onTable_table, List.length_append, List.length_singleton]
    omega
  exact
    { links := fun h => hlast.links (hv.links h)
      belt := fun h => hlast.sound.belt (hv.sound.belt h)
      halt := fun h => hlast.sound.halt (hv.sound.halt h)
      volumes := fun h => hlast.volumes (hv.volumes h)
      doses := fun h => hlast.doses (hv.doses h)
      queue := fun _ => by
        have := hlast.room
        have := hv.room
        unfold State.QueueOk
        omega
      shaped := fun h => hlast.shaped (hv.shaped h)
      frames := hv.frames.trans hlast.frames }

/-- Every effect of an owner is sound and leaves the frames. -/
theorem Effect.sound {s u : State} (h : Effect s u) : SoundFrames s u := by
  cases h with
  | nothing => exact (Calm.refl s).soundFrames
  | induct _ _ room => exact sound_inductBoard _ _ _ _ _ room
  | run mode => exact sound_run mode
  | drain mode => exact sound_drain mode
  | halt l => exact sound_enterHalt s trivial
  | recover => exact sound_recoverLine s
  | clear => exact sound_clear
  | slot n x => exact (calm_setSlot s n x).soundFrames
  | profile n p => exact (calm_setProfile s n p).soundFrames
  | head n c => exact (calm_onLots s _ id (length_putNth _ _ _) rfl rfl).soundFrames
  | mount n head m => exact (calm_mount s n head m).soundFrames
  | unmount mounted => exact (calm_unmount mounted).soundFrames
  | record live alike => exact (calm_setTraveler_of live alike.pass alike.life).soundFrames
  | complete x i t =>
    exact (((calm_endInspection s x i .completed).trans (calm_evaluate _ x t)).trans (calm_decideAt _ x)).soundFrames
  | limits l => exact (calm_onEngine s _).soundFrames
  | geometry g => exact (calm_onCure s _ rfl rfl rfl rfl).soundFrames
  | speed => exact sound_setSpeed s _ _
  | levels r n => exact (calm_onHolds s _ (List.length_set ..) rfl).soundFrames
  | raise t k w g d => exact (calm_raiseHold s t k w g d).soundFrames
  | raiseDecide t k w g d => exact ((calm_raiseHold s t k w g d).trans (calm_decideFor _ t)).soundFrames
  | release t h l n => exact ((calm_releaseRecord s t h l n).trans (calm_decideFor _ t)).soundFrames
  | releaseAll t hs l n =>
    exact ((calm_foldl (fun s h => calm_releaseRecord s t h l n) hs s).trans (calm_decideFor _ t)).soundFrames
  | reenter route live _ _ room => exact sound_reenter route live room
  | retire o => exact ((calm_retire s _ o).trans (calm_decideBoth _)).soundFrames
  | settings l settles => exact sound_settings s l settles
  | restart l =>
    exact (sound_settings s l settles_restart).trans ((calm_dropClaim _ l .pre).trans (calm_dropClaim _ l .post)).soundFrames
  | timeouts t => exact onIo_sound s _ rfl rfl rfl

/-! ### The events -/

theorem linksOk_reset (straps : Straps) (x : Inputs) (l : List Instr) : (State.afterReset straps x l).LinksOk := by
  intro k
  have hk : (State.afterReset straps x l).link k = LinkState.reset := by cases k <;> rfl
  rw [hk]
  exact ⟨Nat.zero_le _, Nat.zero_le _, rfl⟩

theorem sound_reset (s : State) (p : StrapPins) : Sound s (s.resetBlocks p) where
  links := fun _ => linksOk_reset _ _ _
  belt := fun _ => rfl
  halt := fun _ => haltOk_of_none nofun rfl rfl
  volumes := fun _ m hm => by
    have hm' : some m ∈ List.replicate Config.lotCount none := hm
    simp at hm'
  doses := fun _ r hr => by
    have hr' : some r ∈ List.replicate Config.travelerCount none := hr
    simp at hr'
  queue := fun _ => by
    show 0 + 0 ≤ _
    exact Nat.zero_le _
  shaped := fun ⟨_, _, _, _, _, _, _, _, _, _, hinputs⟩ =>
    ⟨List.length_replicate, List.length_replicate, List.length_replicate, List.length_replicate,
      List.length_replicate, List.length_replicate, List.length_replicate, rfl, List.length_replicate,
      List.length_replicate, hinputs⟩

theorem calm_lotExpiry {s : State} {n : Nat} {m : Lot} (h : s.lotExpires n = some m) :
    Calm s ((s.setLot n { m with state := .expired }).post (.lotExpired m.head n m.id)) := by
  unfold State.lotExpires at h
  split at h
  · cases h
  · rename_i k hk
    split at h
    · cases h
      exact (calm_setLot s n { m with state := .expired } fun hs => hs m (lot_mem hk)).trans (calm_post _ _)
    · cases h

/-- The boards advanced keep their doses (R127). -/
theorem calm_advance (s : State) : Calm s ((s.onCure fun c => { c with prescaler := s.io.timeouts.reload }).onTable
    fun b => { b with records := b.records.map advanceLead }) := by
  refine (calm_onCure s _ rfl rfl rfl rfl).trans (calm_onTable _ _ rfl rfl rfl (List.length_map _) (fun h r hr => ?_)
    (Nat.le_refl _))
  obtain ⟨o, ho, he⟩ := List.mem_map.1 hr
  cases o with
  | none => cases he
  | some r' =>
    have hr' := h r' ho
    simp only [advanceLead, Option.map_some, Option.some.injEq] at he
    split at he <;> subst he <;> exact hr'

theorem sound_setSensor (s : State) (x : Sensor) (o : Bool) : SoundFrames s (s.onIo (·.setSensor x o)) :=
  onIo_sound s _ rfl (List.length_set ..) (List.length_set ..)

/-- The board of the queue's head leaves it for the pre-inspection station (R6). -/
theorem queueReady_mem {s : State} {t : Nat} (h : s.queueReady = some t) : t ∈ s.table.queue := by
  unfold State.queueReady at h
  split at h
  · cases h
  · rename_i hq
    split at h
    · cases h
      rw [hq]
      exact List.mem_cons_self
    · cases h

theorem sound_admitBoard (s : State) (a : Admission) : Sound s (s.admitBoard a) := by
  unfold State.admitBoard
  dsimp only
  refine Sound.trans ?_ (sound_setSpeed _ _ _).toSound
  refine Calm.sound ?_
  refine Calm.trans ?_ (calm_onCure _ _ ?_ ?_ ?_ ?_)
  · refine Calm.trans ?_ (calm_moveStage _ _ _ _)
    refine Calm.trans ?_ (calm_onTraveler _ _ _ (fun _ => .inl rfl) fun _ => rfl)
    exact (calm_raiseForced s _ _).trans (calm_onCure _ _ rfl rfl rfl rfl)
  all_goals unfold CureMonitor.narrow; split <;> rfl

/-- The end of a stall drives the belt again (R135). -/
theorem sound_endStall (s : State) (t : Nat) : Sound s (s.endStall t) := by
  unfold State.endStall
  split
  · have hdrive : Sound s (s.onCure fun c => { c with stalled := false }).driveOutput :=
      ⟨id, fun _ => driveOutput_belt _, id, id, id, id, id⟩
    exact hdrive.trans (calm_post _ _).sound
  · exact Sound.refl s

theorem sound_moveOut (s : State) (e : OvenEntry) : Sound s (s.moveOut e) := by
  unfold State.moveOut
  dsimp only
  refine Sound.trans ?_ (sound_endStall _ _)
  refine Calm.sound ?_
  refine Calm.trans ?_ (calm_exitVerdict _ e)
  refine Calm.trans ?_ (calm_moveStage _ _ _ _)
  refine Calm.trans ?_ (calm_onTraveler _ _ _ (fun _ => .inr rfl) fun _ => rfl)
  obtain ⟨h1, h2, h3, h4⟩ := dropOven_belt s.cure e.traveler
  exact calm_onCure s _ h1 h2 h3 (congrArg List.length h4)

/-- Every event is sound. -/
theorem Happening.sound {s u : State} (h : Happening s u) : Sound s u := by
  cases h with
  | nothing => exact Sound.refl s
  | link l ok => exact ⟨linksOk_onLink l ok, id, id, id, id, id, id⟩
  | reset p => exact sound_reset s p
  | secondTick => exact (onIo_sound s _ rfl rfl rfl).toSound.trans (calm_accrueAll _ _).sound
  | lotExpiry due => exact (calm_lotExpiry due).sound
  | flashOverdue t => exact (calm_examineOverdue s t).sound
  | sampling k n l => exact (calm_sampleFrom k n l s).sound
  | blink => exact (onIo_sound s _ rfl rfl rfl).toSound
  | belt => exact (calm_advance s).sound.trans (sound_examineStall _).toSound
  | sensor x o => exact (sound_setSensor s x o).toSound
  | flashEndVacant x o => exact (sound_setSensor s x o).toSound.trans (calm_onCure _ _ rfl rfl rfl rfl).sound
  | transferEnd => exact ((calm_finishTransfer s _).trans (calm_handArrival _ _)).sound
  | jam tag t => exact (sound_enterHalt s (c := .jam) (d := some (.board tag t)) trivial).toSound
  | inspection => exact (calm_expireInspection s _ _).sound
  | valveTimer => exact ((calm_onEngine s _).trans (calm_closeValve _)).sound
  | portTimeout =>
    exact ((calm_closeValve s).trans (calm_onEngine _ _)).sound.trans
      (sound_enterHalt _ (c := .gantry) (d := none) trivial).toSound
  | parked => exact ((calm_quiet s _).trans (calm_parked _)).sound
  | arrived => exact ((calm_quiet s _).trans (calm_arrivedInProgram _)).sound
  | passDone => exact (((calm_quiet s _).trans (calm_closeValve _)).trans (calm_endPass _ _ _)).sound
  | passOver => exact ((calm_quiet s _).trans (calm_closeValve _)).sound
  | stopped => exact ((calm_quiet s _).trans (calm_parkAgain _)).sound
  | faultCode code => exact (calm_onEngine s _).sound
  | faultAtStop code => exact (((calm_onEngine s _).trans (calm_quiet _ _)).trans (calm_parkAgain _)).sound
  | faultAtPark code => exact (((calm_onEngine s _).trans (calm_quiet _ _)).trans (calm_faultAtPark _ _)).sound
  | faultInProgram code => exact (((calm_onEngine s _).trans (calm_quiet _ _)).trans (calm_faultInProgram _ _)).sound
  | estopAsserted => exact (onIo_sound s _ rfl rfl rfl).toSound.trans (calm_closeValve _).sound
  | estopTaken =>
    exact (onIo_sound s (fun io => { io with estopHanded := false }) rfl rfl rfl).toSound.trans
      (sound_enterHalt _ (c := .estop) (d := none) trivial).toSound
  | estopReleased => exact (onIo_sound s _ rfl rfl rfl).toSound
  | queueRelease due =>
    exact ((calm_startTransfer s _ _ _ fun _ => queueReady_mem due).trans (calm_handArrival _ _)).sound
  | decidePre => exact (calm_decidePre s).sound
  | decideExit => exact (calm_decideExit s).sound
  | programStart => exact (calm_startProgram s _).sound
  | flashStart => exact (calm_startTransfer s _ .cell .flashBelt nofun).sound
  | flashStartDecide => exact ((calm_startTransfer s _ .cell .flashBelt nofun).trans (calm_decidePre _)).sound
  | admission => exact sound_admitBoard s _
  | exitMove => exact sound_moveOut s _
  | exitStart => exact (calm_startTransfer s _ .accumulator .postStation nofun).sound
  | drainDone => exact (sound_drainDone s).toSound

/-! ### Every step -/

/-- The invariants of the block but the links' are kept by what is sound, and do not speak of links and lamps. -/
theorem step_keeps_sound {J : State → Prop} (hlink : ∀ (s : State) l f, J s → J (s.onLink l f))
    (hlight : ∀ s : State, J s → J s.relight) (hpending : ∀ (s : State) l, J s → J (s.withPending l))
    (hsound : ∀ {s u}, Sound s u → J s → J u) (hidle : ∀ {s u}, Idles s u → J s → J u) {s u : State} (hs : J s)
    (h : step s = .next u) : J u :=
  step_keeps hlink hlight hpending (fun he => hsound he.sound.toSound) (fun he => hsound he.sound) hidle hs h

/-- The service of a request keeps the links within their capacities (R165). -/
theorem Service.linksOk {s v : State} {q : Req} (h : Service s q v) (hs : s.LinksOk) : v.LinksOk := by
  cases h with
  | untaken ok => exact linksOk_onLink _ ok hs
  | taken a room idle he =>
    rename_i w
    have hin : (s.inServiceOf q).LinksOk := by
      intro k
      rw [link_inServiceOf]
      split
      · rename_i hk
        subst hk
        obtain ⟨hq, -, ha⟩ := hs q.link
        refine ⟨hq, ?_, ha⟩
        simp only [LinkState.placesTaken, if_true]
        exact room
      · exact hs k
    have hw := he.sound.links hin
    have hframe := (he.sound.frames q.link)
    rw [link_inServiceOf, if_pos rfl] at hframe
    intro k
    by_cases hk : k = q.link
    · subst hk
      obtain ⟨hq, -, ha⟩ := hw q.link
      have hl : (w.onLink q.link (·.finish a)).link q.link = (w.link q.link).finish a := by simp [State.link]
      rw [hl]
      refine ⟨hq, ?_, ha⟩
      rw [placesTaken_idle rfl]
      simp only [LinkState.finish, List.length_append, List.length_singleton, hframe.2.2]
      exact room
    · have hl : (w.onLink q.link (·.finish a)).link k = w.link k := by simp [State.link, hk]
      rw [hl]
      exact hw k

/-- Settles O6: an event or an owner keeps each link as it is judged, and an answer takes the place that its request
held. -/
theorem stepKeepsLinksOk : Obligations.StepKeepsLinksOk := by
  unfold Obligations.StepKeepsLinksOk
  intro s u hs h
  cases step_cases h with
  | idle hi => exact hi.links hs
  | event he => exact he.sound.links (s := s.withPending _) hs
  | request hq => exact hq.linksOk (s := s.withPending _) hs

/-- Settles O8: only entries into HALT set a cause, and every other change of mode clears it. -/
theorem stepKeepsHaltCause : Obligations.StepKeepsHaltCause := fun _ _ =>
  step_keeps_sound (J := State.HaltOk) (fun _ _ _ h => h) (fun _ h => h) (fun _ _ h => h) (fun hs => hs.halt)
    fun hi => haltOk_congr (by rw [hi.table]) (by rw [hi.table]) (by rw [hi.table])

/-- Settles O9: a draw takes from the remaining volume what it adds to the dispensed one. -/
theorem stepKeepsVolumeAccount : Obligations.StepKeepsVolumeAccount := fun _ _ =>
  step_keeps_sound (J := State.VolumesOk) (fun _ _ _ h => h) (fun _ h => h) (fun _ _ h => h) (fun hs => hs.volumes)
    fun hi h => by unfold State.VolumesOk; rwa [hi.lots]

/-- Settles O10: a second tick adds the same weight to both doses, and only the pass dose is ever cleared. -/
theorem stepKeepsDoses : Obligations.StepKeepsDoses := fun _ _ =>
  step_keeps_sound (J := State.DosesOk) (fun _ _ _ h => h) (fun _ h => h) (fun _ _ h => h) (fun hs => hs.doses)
    fun hi h => by unfold State.DosesOk; rwa [hi.table]

/-- Settles O11: induction and re-entry need room, and a returned board takes the place that its entry counted. -/
theorem stepKeepsQueueOccupancy : Obligations.StepKeepsQueueOccupancy := fun _ _ =>
  step_keeps_sound (J := State.QueueOk) (fun _ _ _ h => h) (fun _ h => h) (fun _ _ h => h) (fun hs => hs.queue)
    fun hi h => by unfold State.QueueOk State.occupancy; rwa [hi.table]

theorem step_keeps_belt {s u : State} : s.BeltOk → step s = .next u → u.BeltOk :=
  step_keeps_sound (J := State.BeltOk) (fun _ _ _ h => h) (fun _ h => h) (fun _ _ h => h) (fun hs => hs.belt)
    fun hi => beltOk_congr (by rw [hi.table]) (by rw [hi.cure]) (by rw [hi.cure]) (by rw [hi.cure])

theorem shaped_idle {s u : State} (hi : Idles s u) (h : s.Shaped) : u.Shaped := by
  obtain ⟨h1, h2, h3, h4, h5, h6, h7, h8, h9, h10, h11⟩ := h
  have hsensors := hi.sensors (h10.trans h11.symm)
  refine ⟨hi.table ▸ h1, hi.recipes ▸ h2, hi.recipes ▸ h3, hi.lots ▸ h4, ?_, ?_, ?_, hi.holds ▸ h8, hi.holds ▸ h9,
    hsensors.trans h10, hi.inputs ▸ h11⟩
  · rw [hi.lots, hi.straps, h5]
  · rw [hi.lots, hi.straps, h6]
  · rw [hi.cure, hi.straps]
    exact h7

theorem step_keeps_shaped {s u : State} : s.Shaped → step s = .next u → u.Shaped :=
  step_keeps_sound (J := State.Shaped) (fun _ _ _ h => h) (fun _ h => h) (fun _ _ h => h) (fun hs => hs.shaped)
    shaped_idle

end Sys2Proof.Machine
end

section
/-! PROOF of the invariants, third part: what leaves every board where it is. `Still` is a stretch that keeps who is live,
each tag, stage and place, and the lists; `Rests` leaves the stroke engine too, and `Works` leaves its board, opens no
valve and at most sends the cell to PARKING. One lemma per operation. -/

namespace Sys2Proof.Machine

/-- What of a record the index and the lists speak of. -/
def Traveler.standing (r : Traveler) : Text × Stage × PlaceState := (r.tag, r.stage, r.place)

/-- The lists, the range and the setpoint of the cure monitor. -/
def CureMonitor.lists (c : CureMonitor) : List Nat × List OvenEntry × List Nat × Nat × Nat × Nat :=
  (c.flash, c.oven, c.exit, c.rangeLow, c.rangeHigh, c.setpoint)

/-- A stretch that leaves every board where it is. -/
structure Still (s u : State) : Prop where
  size     : u.table.records.length = s.table.records.length
  standing : ∀ t, (u.traveler t).map Traveler.standing = (s.traveler t).map Traveler.standing
  holds    : s.HoldsOk → u.HoldsOk
  lists    : RecordsOnly s u
  cure     : u.cure.lists = s.cure.lists
  estop    : u.io.estop = s.io.estop

/-- A still stretch that leaves the stroke engine. -/
structure Rests (s u : State) : Prop extends Still s u where
  engine : u.engine = s.engine

/-- A still stretch that leaves the cell's board, opens no valve and leaves the cell or parks it. -/
structure Works (s u : State) : Prop extends Still s u where
  board : u.engine.board = s.engine.board
  cell  : u.engine.cell = s.engine.cell ∨ u.engine.cell = .parking
  valve : u.engine.valve = s.engine.valve ∨ u.engine.valve = none

theorem Still.refl (s : State) : Still s s := ⟨rfl, fun _ => rfl, id, RecordsOnly.refl s, rfl, rfl⟩

theorem Still.trans {s t u : State} (h : Still s t) (k : Still t u) : Still s u :=
  ⟨k.size.trans h.size, fun n => (k.standing n).trans (h.standing n), k.holds ∘ h.holds, h.lists.trans k.lists,
    k.cure.trans h.cure, k.estop.trans h.estop⟩

theorem Rests.refl (s : State) : Rests s s := ⟨Still.refl s, rfl⟩

theorem Rests.trans {s t u : State} (h : Rests s t) (k : Rests t u) : Rests s u :=
  ⟨h.toStill.trans k.toStill, k.engine.trans h.engine⟩

theorem Rests.works {s u : State} (h : Rests s u) : Works s u :=
  ⟨h.toStill, by rw [h.engine], .inl (by rw [h.engine]), .inl (by rw [h.engine])⟩

theorem Works.refl (s : State) : Works s s := (Rests.refl s).works

theorem Works.trans {s t u : State} (h : Works s t) (k : Works t u) : Works s u where
  toStill := h.toStill.trans k.toStill
  board := k.board.trans h.board
  cell := k.cell.elim (fun e => h.cell.imp e.trans e.trans) .inr
  valve := k.valve.elim (fun e => h.valve.imp e.trans e.trans) .inr

/-! ### One block at a time -/

theorem rests_onRecipes (s : State) (f : RecipeStore → RecipeStore) : Rests s (s.onRecipes f) := { Rests.refl s with }
theorem rests_onLots (s : State) (f : LotTable → LotTable) : Rests s (s.onLots f) := { Rests.refl s with }
theorem rests_onMask (s : State) (f : MaskUnit → MaskUnit) : Rests s (s.onMask f) := { Rests.refl s with }
theorem rests_onHolds (s : State) (f : HoldManager → HoldManager) : Rests s (s.onHolds f) := { Rests.refl s with }
theorem rests_onLink (s : State) (l : Link) (f : LinkState → LinkState) : Rests s (s.onLink l f) := { Rests.refl s with }
theorem rests_post (s : State) (k : NoticeKind) : Rests s (s.post k) := { Rests.refl s with }

theorem rests_onIo (s : State) (f : LineIo → LineIo) (h : (f s.io).estop = s.io.estop) : Rests s (s.onIo f) :=
  { Rests.refl s with estop := h }

theorem rests_onOutputs (s : State) (f : Outputs → Outputs) : Rests s (s.onOutputs f) := rests_onIo s _ rfl

theorem rests_onCure (s : State) (f : CureMonitor → CureMonitor) (h : (f s.cure).lists = s.cure.lists) :
    Rests s (s.onCure f) := { Rests.refl s with cure := h }

theorem works_onEngine (s : State) (f : StrokeEngine → StrokeEngine) (hb : (f s.engine).board = s.engine.board)
    (hc : (f s.engine).cell = s.engine.cell ∨ (f s.engine).cell = .parking)
    (hv : (f s.engine).valve = s.engine.valve ∨ (f s.engine).valve = none) : Works s (s.onEngine f) :=
  { Still.refl s with board := hb, cell := hc, valve := hv }

theorem still_onEngine (s : State) (f : StrokeEngine → StrokeEngine) : Still s (s.onEngine f) := { Still.refl s with }

/-! ### Records and holds -/

/-- A live traveler's record written with its standing, its hold set in order where it was. -/
theorem rests_setTraveler {s : State} {t : Nat} {r r' : Traveler} (hr : s.traveler t = some r)
    (hst : r'.standing = r.standing) (hh : HoldsInOrder r.holds → HoldsInOrder r'.holds) :
    Rests s (s.setTraveler t r') where
  size := length_putNth _ _ _
  standing := fun n => by
    by_cases hn : n = t
    · subst hn
      rw [traveler_setTraveler_same r' hr, hr]
      simp [hst]
    · rw [traveler_setTraveler_other _ _ _ _ hn]
  holds := fun h x hx => by
    rcases mem_putNth hx with hx | hx
    · cases hx
      exact hh (h r (mem_of_traveler hr))
    · exact h x hx
  lists := rfl
  cure := rfl
  estop := rfl
  engine := rfl

theorem rests_onTraveler (s : State) (t : Nat) {f : Traveler → Traveler} (hst : ∀ r, (f r).standing = r.standing)
    (hh : ∀ r, (f r).holds = r.holds) : Rests s (s.onTraveler t f) := by
  unfold State.onTraveler
  split
  · exact Rests.refl s
  · exact rests_setTraveler ‹_› (hst _) fun h => by rwa [hh]

theorem findHold_mem {k : HoldReason} {l : List Hold} {h : Hold} (hf : findHold k l = some h) :
    h ∈ l ∧ h.reason = k := ⟨List.mem_of_find?_eq_some hf, by simpa using List.find?_some hf⟩

theorem rests_raiseHold (s : State) (t : Nat) (k : HoldReason) (w : Raiser) (g : Stage) (d : Option HoldDetail) :
    Rests s (s.raiseHold t k w g d) := by
  unfold State.raiseHold
  split
  · exact Rests.refl s
  · rename_i r hr
    have put (h : Hold) : Rests s (s.setTraveler t { r with holds := putHold h r.holds }) :=
      rests_setTraveler hr rfl (putHold_inOrder h)
    split
    · exact Rests.refl s
    · dsimp only
      split
      · exact (put _).trans (rests_post _ _)
      · split
        · exact put _
        · exact (put _).trans (rests_post _ _)

theorem rests_releaseRecord (s : State) (t : Nat) (h : Hold) (l : Link) (n : Nat) :
    Rests s (s.releaseRecord t h l n) := by
  unfold State.releaseRecord
  split
  · exact Rests.refl s
  · rename_i r hr
    have put (x : Hold) : Rests s (s.setTraveler t { r with holds := putHold x r.holds }) :=
      rests_setTraveler hr rfl (putHold_inOrder x)
    exact (put _).trans (rests_post _ _)

theorem rests_foldl {α : Type} {f : State → α → State} (h : ∀ s a, Rests s (f s a)) (l : List α) (s : State) :
    Rests s (l.foldl f s) := by
  induction l generalizing s with
  | nil => exact Rests.refl s
  | cons a l ih => exact (h s a).trans (ih _)

/-! ### Slots, inspections and marks -/

theorem rests_reselect (s : State) : Rests s s.reselect := rests_onOutputs s _

theorem rests_freeSlot (s : State) (t : Nat) : Rests s (s.freeSlot t) :=
  (rests_onHolds s _).trans (rests_onTraveler _ t (fun _ => rfl) fun _ => rfl)

theorem rests_assignSlot (s : State) (n t : Nat) : Rests s (s.assignSlot n t) :=
  (rests_onHolds s _).trans (rests_onTraveler _ t (fun _ => rfl) fun _ => rfl)

theorem rests_setRecord (s : State) (x : Station) (i : Option Inspection) : Rests s (s.setRecord x i) :=
  rests_onMask s _

theorem rests_openInspection (s : State) (x : Station) (t : Nat) : Rests s (s.openInspection x t) := by
  unfold State.openInspection
  split
  · exact Rests.refl s
  split
  · exact rests_setRecord s x _
  · exact (rests_setRecord s x _).trans (rests_post _ _)

theorem rests_inspectAt (s : State) (t : Nat) (d : Place) : Rests s (s.inspectAt t d) := by
  unfold State.inspectAt
  split
  · exact rests_openInspection s _ _
  · exact rests_openInspection s _ _
  · exact Rests.refl s

theorem rests_leaveStation (s : State) (a : Place) : Rests s (s.leaveStation a) := by
  unfold State.leaveStation
  split
  · exact rests_setRecord s _ _
  · exact rests_setRecord s _ _
  · exact Rests.refl s

theorem rests_examineOverdue (s : State) (t : Nat) : Rests s (s.examineOverdue t) := by
  unfold State.examineOverdue
  split
  · exact (rests_onCure s (fun c => { c with overdue := c.overdue ++ [t] }) rfl).trans (rests_raiseHold _ _ _ _ _ _)
  · exact Rests.refl s

theorem rests_examineFlash (s : State) : Rests s s.examineFlash :=
  rests_foldl (fun s k => rests_examineOverdue s (k + 1)) _ s

theorem rests_endInspection (s : State) (x : Station) (i : Inspection) (c : EndCause) :
    Rests s (s.endInspection x i c) :=
  (rests_setRecord s x _).trans (rests_onTraveler _ _ (fun _ => rfl) fun _ => rfl)

theorem rests_evaluatePre (s : State) (t : Nat) : Rests s (s.evaluatePre t).1 := by
  unfold State.evaluatePre
  split
  · exact Rests.refl s
  · dsimp only
    split
    · split
      · exact Rests.refl s
      · exact rests_raiseHold s _ _ _ _ _
    · split
      · exact rests_raiseHold s _ _ _ _ _
      · exact (rests_raiseHold s _ _ _ _ _).trans (rests_raiseHold _ _ _ _ _ _)

theorem rests_evaluate (s : State) (x : Station) (t : Nat) : Rests s (s.evaluate x t).1 := by
  cases x
  case pre => exact rests_evaluatePre s t
  case post =>
    show Rests s (s.evaluatePost t).1
    unfold State.evaluatePost
    split
    · exact Rests.refl s
    split
    · exact Rests.refl s
    · exact rests_raiseHold s _ _ _ _ _

theorem rests_dropClaim (s : State) (l : Link) (x : Station) : Rests s (s.dropClaim l x) := by
  unfold State.dropClaim
  split
  · exact Rests.refl s
  · exact rests_onTraveler s _ (fun _ => rfl) fun _ => rfl

/-! ### Lots -/

theorem rests_setLot (s : State) (n : Nat) (m : Lot) : Rests s (s.setLot n m) := rests_onLots s _

theorem rests_warnLow (s : State) (n : Nat) : Rests s (s.warnLow n) := by
  unfold State.warnLow
  split
  · exact Rests.refl s
  split
  · exact (rests_setLot s _ _).trans (rests_post _ _)
  · exact Rests.refl s

theorem rests_draw (s : State) (head amount : Nat) : Rests s (s.draw head amount) := by
  unfold State.draw
  split
  · exact Rests.refl s
  · exact (rests_setLot s _ _).trans (rests_warnLow _ _)

theorem rests_mount (s : State) (n head : Nat) (m : LotFields) : Rests s (s.mount n head m) :=
  ((rests_onLots s _).trans (rests_post _ _)).trans (rests_warnLow _ n)

/-! ### The cure monitor -/

theorem rests_driveOutput (s : State) : Rests s s.driveOutput := rests_onCure s _ rfl

theorem rests_examineStall (s : State) : Rests s s.examineStall := by
  unfold State.examineStall
  split
  · exact Rests.refl s
  split
  · exact ((rests_onCure s (fun c => { c with stalled := true }) rfl).trans (rests_driveOutput _)).trans
      (rests_post _ _)
  · exact Rests.refl s

theorem rests_endStall (s : State) (t : Nat) : Rests s (s.endStall t) := by
  unfold State.endStall
  split
  · exact ((rests_onCure s (fun c => { c with stalled := false }) rfl).trans (rests_driveOutput _)).trans
      (rests_post _ _)
  · exact Rests.refl s

theorem rests_raiseForced (s : State) (t : Nat) (f : ForcedForm) : Rests s (s.raiseForced t f) := by
  unfold State.raiseForced
  split
  · exact rests_raiseHold s _ _ _ _ _
  · exact rests_raiseHold s _ _ _ _ _
  all_goals exact Rests.refl s

theorem rests_exitVerdict (s : State) (e : OvenEntry) : Rests s (s.exitVerdict e) := by
  unfold State.exitVerdict
  split
  · exact Rests.refl s
  split
  · exact Rests.refl s
  split
  · exact rests_raiseHold s _ _ _ _ _
  · exact Rests.refl s

theorem rests_sampleZone (s : State) (k : Nat) (x : Option Int) : Rests s (s.sampleZone k x) := by
  unfold State.sampleZone
  split
  · exact Rests.refl s
  · rename_i z _
    have put : Rests s (s.onCure fun c => { c with zones := putNth c.zones k (z.sample x) }) := rests_onCure s _ rfl
    dsimp only
    split
    · exact put.trans (rests_post _ _)
    split
    · exact put.trans (rests_post _ _)
    · exact put

theorem rests_sampleFrom (k n : Nat) (l : List ChannelSignals) (s : State) : Rests s (State.sampleFrom k n l s) := by
  induction n generalizing k l s with
  | zero => cases l <;> exact Rests.refl s
  | succ n ih => cases l <;> exact (rests_sampleZone s k _).trans (ih _ _ _)

theorem rests_testOverCure (s : State) (e : OvenEntry) : Rests s (s.testOverCure e) := by
  unfold State.testOverCure
  split
  · exact Rests.refl s
  split
  · exact Rests.refl s
  split
  · exact ((rests_onCure s (fun c => { c with overCured := c.overCured ++ [e.traveler] }) rfl).trans
      (rests_raiseHold _ _ _ _ _ _)).trans (rests_post _ _)
  · exact Rests.refl s

theorem rests_accrue (s : State) (e : OvenEntry) : Rests s (s.accrue e) := by
  unfold State.accrue
  split
  · exact Rests.refl s
  · rename_i r hr
    dsimp only
    refine Rests.trans ?_ (rests_testOverCure _ e)
    split
    · exact Rests.refl s
    · exact rests_setTraveler (r := r) hr rfl id
    · exact rests_raiseHold s _ _ _ _ _

/-- The boards advanced stay where they are (R127). -/
theorem rests_advance (s : State) :
    Rests s (s.onTable fun b => { b with records := b.records.map advanceLead }) where
  size := List.length_map _
  standing := fun n => by
    have hn : (s.onTable fun b => { b with records := b.records.map advanceLead }).traveler n =
        advanceLead (s.traveler n) := by
      simp only [State.traveler, onTable_table, nth]
      split
      · rfl
      · rw [List.getElem?_map]
        cases s.table.records[n - 1]? <;> rfl
    rw [hn]
    cases s.traveler n with
    | none => rfl
    | some r =>
      simp only [advanceLead, Option.map_some]
      split <;> rfl
  holds := fun h r hr => by
    obtain ⟨o, ho, he⟩ := List.mem_map.1 hr
    cases o with
    | none => cases he
    | some r' =>
      have hr' := h r' ho
      simp only [advanceLead, Option.map_some, Option.some.injEq] at he
      split at he <;> subst he <;> exact hr'
  lists := rfl
  cure := rfl
  estop := rfl
  engine := rfl

/-! ### The stroke engine -/

theorem works_setTraveler {s : State} {t : Nat} {r r' : Traveler} (hr : s.traveler t = some r)
    (hst : r'.standing = r.standing) (hh : r'.holds = r.holds) : Works s (s.setTraveler t r') :=
  (rests_setTraveler hr hst fun h => by rwa [hh]).works

theorem works_onTraveler (s : State) (t : Nat) {f : Traveler → Traveler} (hst : ∀ r, (f r).standing = r.standing)
    (hh : ∀ r, (f r).holds = r.holds) : Works s (s.onTraveler t f) := (rests_onTraveler s t hst hh).works

theorem rests_countSkipped (s : State) (t : Nat) : Rests s (s.countSkipped t) :=
  rests_onTraveler s t (fun _ => rfl) fun _ => rfl

theorem rests_recordFault (s : State) (t k p : Nat) (c : StrokeFaultCause) : Rests s (s.recordFault t k p c) := by
  unfold State.recordFault
  split
  · exact Rests.refl s
  · rename_i r hr
    have put (x : CoatSummary) : Rests s (s.setTraveler t { r with coat := x }) := rests_setTraveler hr rfl id
    dsimp only
    split
    · exact (put _).trans (rests_raiseHold _ _ _ _ _ _)
    · exact put _

theorem rests_raiseInterrupted (s : State) (t : Nat) : Rests s (s.raiseInterrupted t) := by
  unfold State.raiseInterrupted
  split
  · exact Rests.refl s
  · exact rests_raiseHold s _ _ _ _ _

theorem works_closeValve (s : State) : Works s s.closeValve := by
  unfold State.closeValve
  split
  · exact Works.refl s
  · exact (works_onEngine s _ rfl (.inl rfl) (.inr rfl)).trans (rests_draw _ _ _).works

theorem works_send (s : State) (m : GantryMessage) (p : Option Point) (n : Nat) : Works s (s.send m p n) :=
  works_onEngine s (fun e => { e with port := _ }) rfl (.inl rfl) (.inl rfl)

theorem works_sendMove (s : State) (head : Nat) (p : Point) (v : Nat) : Works s (s.sendMove head p v) :=
  works_send s _ _ _

theorem works_sendStop (s : State) : Works s s.sendStop :=
  (works_send s _ _ _).trans (works_onEngine _ _ rfl (.inl rfl) (.inl rfl))

theorem works_sendPark (s : State) : Works s s.sendPark := by
  unfold State.sendPark
  split
  · exact Works.refl s
  · exact works_sendMove s _ _ _

theorem works_quiet (s : State) (p : Option Point) : Works s (s.quiet p) :=
  works_onEngine s _ rfl (.inl rfl) (.inl rfl)

theorem works_startPass (s : State) (w : StrokeWork) (k : Nat) : Works s (s.startPass w k) := by
  unfold State.startPass
  split
  · exact Works.refl s
  · exact (works_onEngine s _ rfl (.inl rfl) (.inl rfl)).trans (works_sendMove _ _ _ _)

theorem works_travelStep (s : State) (t k : Nat) (r : Traveler) (x : Stroke) (c : HeadConfig) (d : Option Dispense) :
    Works s (s.travelStep t k r x c d).1 := by
  unfold State.travelStep
  split
  · exact Works.refl s
  · dsimp only
    split
    · exact ((rests_countSkipped s t).trans (rests_recordFault _ _ _ _ _)).works
    · exact works_startPass s _ _

theorem works_materialStep (s : State) (t k kind : Nat) (r : Traveler) (x : Stroke) (w : Window) (c : HeadConfig) :
    Works s (s.materialStep t k kind r x w c).1 := by
  unfold State.materialStep
  split
  · exact ((rests_countSkipped s t).trans (rests_raiseHold _ _ _ _ _ _)).works
  · dsimp only
    refine Works.trans ?_ (works_travelStep _ t k r x c _)
    have used (f : Traveler → List (Option Text)) :
        Rests s (s.onTraveler t fun r => { r with lotsUsed := f r }) :=
      rests_onTraveler s t (fun _ => rfl) fun _ => rfl
    split
    · exact (used _).works
    · exact ((used _).trans (rests_raiseHold _ _ _ _ _ _)).works

theorem works_headStep (s : State) (t k : Nat) (x : Stroke) {next : HeadConfig → State × TakeUp}
    (h : ∀ c, Works s (next c).1) : Works s (s.headStep t k x next).1 := by
  unfold State.headStep
  split
  · exact ((rests_countSkipped s t).trans (rests_recordFault _ _ _ _ _)).works
  · exact h _

theorem works_takeStroke (s : State) (t k : Nat) : Works s (s.takeStroke t k).1 := by
  have cursors : Works s (s.onTraveler t fun r => { r with strokeCursor := k, passCursor := 0 }) :=
    works_onTraveler s t (fun _ => rfl) fun _ => rfl
  unfold State.takeStroke
  dsimp only
  split
  · exact cursors
  split
  · exact cursors
  split
  · split
    · split
      · exact (cursors.trans (rests_countSkipped _ t).works).trans (rests_raiseHold _ _ _ _ _ _).works
      · exact cursors.trans (works_headStep _ _ _ _ fun c => works_materialStep _ _ _ _ _ _ _ c)
    · exact cursors
  · exact cursors.trans (works_headStep _ _ _ _ fun c => works_travelStep _ _ _ _ _ c _)

theorem works_endProgram (s : State) (t : Nat) : Works s (s.endProgram t) := by
  have hdone : Works s (s.onTraveler t fun r => { r with program := .done }) :=
    works_onTraveler s t (fun _ => rfl) fun _ => rfl
  exact (hdone.trans (works_onEngine _ _ rfl (.inr rfl) (.inl rfl))).trans (works_sendPark _)

theorem works_takeUp (t n k : Nat) (s : State) : Works s (State.takeUp t n k s) := by
  induction n generalizing k s with
  | zero => exact works_endProgram s t
  | succ n ih =>
    unfold State.takeUp
    have h := works_takeStroke s t k
    split <;> rename_i heq <;> rw [heq] at h
    · exact h.trans (ih _ _)
    · exact h.trans (works_endProgram _ t)
    · exact h

theorem works_endPass (s : State) (t : Nat) (w : StrokeWork) : Works s (s.endPass t w) := by
  unfold State.endPass
  split
  · exact Works.refl s
  · rename_i r hr
    have cursor : Works s (s.setTraveler t { r with passCursor := r.passCursor + 1 }) :=
      works_setTraveler hr rfl rfl
    dsimp only
    split
    · exact cursor.trans (works_startPass _ _ _)
    · refine Works.trans ?_ (works_takeUp _ _ _ _)
      refine Works.trans ?_ (works_onEngine _ _ rfl (.inl rfl) (.inl rfl))
      exact cursor.trans (works_onTraveler _ t (fun _ => rfl) fun _ => rfl)

theorem works_stopMotion (s : State) : Works s s.stopMotion := by
  unfold State.stopMotion
  split
  · split
    · exact Works.refl s
    · exact works_sendStop s
  all_goals exact Works.refl s

theorem works_parkAgain (s : State) : Works s s.parkAgain := by
  unfold State.parkAgain
  split
  · exact (works_onEngine s _ rfl (.inr rfl) (.inl rfl)).trans (works_sendPark _)
  · exact Works.refl s

theorem works_leaveHaltEngine (s : State) : Works s s.leaveHaltEngine := by
  unfold State.leaveHaltEngine
  split
  · exact works_sendStop s
  · exact works_parkAgain s

theorem works_faultInProgram (s : State) (code : Nat) : Works s (s.faultInProgram code) := by
  unfold State.faultInProgram
  split
  · dsimp only
    split
    · exact works_closeValve s
    · exact ((works_closeValve s).trans (rests_recordFault _ _ _ _ _).works).trans (works_endProgram _ _)
  · exact Works.refl s

end Sys2Proof.Machine
end

section
/-! PROOF of the invariants, fourth part: what one board's move leaves. `Lawful` says that the index, the hold sets, the
admitted range, the places and the valve hold on through a stretch. `Moves` is a stretch in which one board at most
changes place, and `Lands` says where that board stands afterwards; together they are lawful. -/

namespace Sys2Proof.Machine

structure Lawful (s u : State) : Prop where
  index  : s.IndexOk → u.IndexOk
  holds  : s.HoldsOk → u.HoldsOk
  range  : s.RangeOk → u.RangeOk
  places : s.IndexOk → s.PlacesOk → u.PlacesOk
  valve  : s.IndexOk → s.PlacesOk → s.ValveOk → u.ValveOk

theorem Lawful.refl (s : State) : Lawful s s := ⟨id, id, id, fun _ h => h, fun _ _ h => h⟩

theorem Lawful.trans {s t u : State} (h : Lawful s t) (k : Lawful t u) : Lawful s u :=
  ⟨k.index ∘ h.index, k.holds ∘ h.holds, k.range ∘ h.range,
    fun hi hp => k.places (h.index hi) (h.places hi hp),
    fun hi hp hv => k.valve (h.index hi) (h.places hi hp) (h.valve hi hp hv)⟩

/-! ### Where a board is -/

theorem isAt_iff {s : State} {t : Nat} {g : Stage} {p : PlaceState} :
    s.IsAt t g p ↔ ∃ x, (s.traveler t).map Traveler.standing = some (x, g, p) := by
  unfold State.IsAt
  cases s.traveler t with
  | none => simp
  | some r => simp [Traveler.standing]

theorem isAt_congr {s u : State} {t : Nat} {g : Stage} {p : PlaceState}
    (h : (u.traveler t).map Traveler.standing = (s.traveler t).map Traveler.standing) : u.IsAt t g p ↔ s.IsAt t g p := by
  rw [isAt_iff, isAt_iff, h]

theorem isAt_unique {s : State} {t : Nat} {g g' : Stage} {p p' : PlaceState} (h : s.IsAt t g p) (k : s.IsAt t g' p') :
    g = g' ∧ p = p' := by
  obtain ⟨r, hr, rfl, rfl⟩ := h
  obtain ⟨r', hr', rfl, rfl⟩ := k
  rw [hr] at hr'
  cases hr'
  exact ⟨rfl, rfl⟩

/-- What the places say of one entry of the transfer list. -/
def State.EntryOk (s : State) (e : Transfer) : Prop :=
  s.IsAt e.traveler e.dest.stage .arriving ∧
    (e.dest = .cell → s.engine.cell = .loading ∧ s.engine.board = some e.traveler) ∧
    (e.dest = .flashBelt → e.source = .cell ∧ s.engine.cell = .done ∧ s.engine.board = some e.traveler)

/-- The places, by name. -/
structure Placed (s : State) : Prop where
  queue   : ∀ t ∈ s.table.queue, s.IsAt t .queued .present
  flash   : ∀ t ∈ s.cure.flash, s.IsAt t .flash .present
  oven    : ∀ e ∈ s.cure.oven, s.IsAt e.traveler .cure .present
  exit    : ∀ t ∈ s.cure.exit, s.IsAt t .ovenExit .present
  entries : ∀ e ∈ s.table.transfers, s.EntryOk e
  once    : (s.table.transfers.map (·.traveler)).Nodup
  cell    : s.CellOk

theorem placesOk_iff {s : State} : s.PlacesOk ↔ Placed s :=
  ⟨fun ⟨h1, h2, h3, h4, h5, h6, h7⟩ => ⟨h1, h2, h3, h4, h5, h6, h7⟩,
    fun ⟨h1, h2, h3, h4, h5, h6, h7⟩ => ⟨h1, h2, h3, h4, h5, h6, h7⟩⟩

/-- A board on the transfer list has one entry. -/
theorem Placed.entry_unique {s : State} (h : Placed s) {e x : Transfer} (he : e ∈ s.table.transfers)
    (hx : x ∈ s.table.transfers) (ht : x.traveler = e.traveler) : x = e :=
  List.inj_on_of_nodup_map h.once hx he ht

/-- A board that is not PRESENT in SPRAY and has no entry to or from the cell is not the cell's (R76, R77). -/
theorem cellBoard_cases {s : State} (h : s.CellOk) {t : Nat} (hb : s.engine.board = some t) :
    s.IsAt t .spray .present ∨
      ∃ e ∈ s.table.transfers, e.traveler = t ∧
        (s.engine.cell = .loading ∧ e.dest = .cell ∨ s.engine.cell = .done ∧ e.dest = .flashBelt) := by
  unfold State.CellOk at h
  rw [hb] at h
  cases hc : s.engine.cell <;> rw [hc] at h
  case vacant => exact absurd h (Option.some_ne_none t)
  case loading =>
    obtain ⟨e, he, ht, hd⟩ := h
    exact .inr ⟨e, he, ht, .inl ⟨rfl, hd⟩⟩
  case done =>
    rcases h with h | ⟨e, he, ht, -, hd⟩
    · exact .inl h
    · exact .inr ⟨e, he, ht, .inr ⟨rfl, hd⟩⟩
  all_goals exact .inl h

/-- The board of a RUNNING cell is PRESENT in SPRAY (R77). -/
theorem cellBoard_running {s : State} (h : s.CellOk) (hc : s.engine.cell = .running) :
    ∃ t, s.engine.board = some t ∧ s.IsAt t .spray .present := by
  unfold State.CellOk at h
  rw [hc] at h
  cases hb : s.engine.board with
  | none => rw [hb] at h; exact absurd h id
  | some t => rw [hb] at h; exact ⟨t, rfl, h⟩

/-- A VACANT cell has no board (R76). -/
theorem cellBoard_vacant {s : State} (h : s.CellOk) (hc : s.engine.cell = .vacant) : s.engine.board = none := by
  unfold State.CellOk at h
  rwa [hc] at h

theorem cellOk_of_vacant {s : State} (hc : s.engine.cell = .vacant) (hb : s.engine.board = none) : s.CellOk := by
  unfold State.CellOk
  rw [hc]
  exact hb

/-! ### What the index and the range speak of -/

theorem indexOk_congr {s u : State} (hsize : u.table.records.length = s.table.records.length)
    (hfree : u.table.free = s.table.free) (hindex : u.table.index = s.table.index)
    (htags : ∀ t, (u.traveler t).map (·.tag) = (s.traveler t).map (·.tag)) (h : s.IndexOk) : u.IndexOk := by
  obtain ⟨hlen, hnodup, hmem, hkeys, hpairs⟩ := h
  refine ⟨hsize.trans hlen, hfree ▸ hnodup, fun t => ?_, hindex ▸ hkeys, fun tag t => ?_⟩
  · rw [hfree, hmem, ← Option.map_eq_none_iff (f := (·.tag)), ← htags, Option.map_eq_none_iff]
  · rw [hindex, hpairs, ← Option.map_eq_some_iff (f := Traveler.tag), ← Option.map_eq_some_iff (f := Traveler.tag)]
    exact Eq.congr_left (htags t).symm

theorem Still.tags {s u : State} (h : Still s u) (t : Nat) : (u.traveler t).map (·.tag) = (s.traveler t).map (·.tag) := by
  have := congrArg (Option.map Prod.fst) (h.standing t)
  simpa [Option.map_map, Function.comp_def, Traveler.standing] using this

theorem Still.index {s u : State} (h : Still s u) : s.IndexOk → u.IndexOk := by
  obtain ⟨-, -, hfree, hindex, -⟩ := recordsOnly_fields h.lists
  exact indexOk_congr h.size hfree hindex h.tags

/-- The oven list, the admitted range and the setpoint. -/
def CureMonitor.belt (c : CureMonitor) : List OvenEntry × Nat × Nat × Nat := (c.oven, c.rangeLow, c.rangeHigh, c.setpoint)

theorem rangeOk_congr {s u : State} (h : u.cure.belt = s.cure.belt) (hs : s.RangeOk) : u.RangeOk := by
  obtain ⟨ho, hl, hh, hp⟩ : u.cure.oven = s.cure.oven ∧ u.cure.rangeLow = s.cure.rangeLow ∧
      u.cure.rangeHigh = s.cure.rangeHigh ∧ u.cure.setpoint = s.cure.setpoint := by
    simpa [CureMonitor.belt] using h
  unfold State.RangeOk
  rw [ho, hl, hh, hp]
  exact hs

theorem Still.range {s u : State} (h : Still s u) : s.RangeOk → u.RangeOk := by
  refine rangeOk_congr ?_
  have := h.cure
  simp only [CureMonitor.lists, Prod.mk.injEq] at this
  simp [CureMonitor.belt, this]

theorem mode_of_recordsOnly {s u : State} (h : RecordsOnly s u) : u.mode = s.mode := (recordsOnly_fields h).2.2.2.2

/-! ### A stretch that leaves every board in place -/

theorem Still.isAt {s u : State} (h : Still s u) (t : Nat) (g : Stage) (p : PlaceState) : u.IsAt t g p ↔ s.IsAt t g p :=
  isAt_congr (h.standing t)

theorem Still.placed {s u : State} (h : Still s u) (hp : Placed s)
    (hentry : ∀ e ∈ s.table.transfers, s.EntryOk e → u.EntryOk e) (hc : u.CellOk) : Placed u := by
  obtain ⟨ht, hq, -⟩ := recordsOnly_fields h.lists
  have hcure := h.cure
  simp only [CureMonitor.lists, Prod.mk.injEq] at hcure
  obtain ⟨hf, ho, hx, -⟩ := hcure
  refine ⟨fun t hm => ?_, fun t hm => ?_, fun e hm => ?_, fun t hm => ?_, fun e hm => ?_, ht ▸ hp.once, hc⟩
  · exact (h.isAt _ _ _).2 (hp.queue t (hq ▸ hm))
  · exact (h.isAt _ _ _).2 (hp.flash t (hf ▸ hm))
  · exact (h.isAt _ _ _).2 (hp.oven e (ho ▸ hm))
  · exact (h.isAt _ _ _).2 (hp.exit t (hx ▸ hm))
  · exact hentry e (ht ▸ hm) (hp.entries e (ht ▸ hm))

theorem cellOk_congr {s u : State} (hcell : u.engine.cell = s.engine.cell) (hboard : u.engine.board = s.engine.board)
    (hat : ∀ t, u.engine.board = some t → (u.IsAt t .spray .present ↔ s.IsAt t .spray .present))
    (hentries : ∀ e, u.engine.board = some e.traveler → (e ∈ u.table.transfers ↔ e ∈ s.table.transfers)) (h : s.CellOk) :
    u.CellOk := by
  unfold State.CellOk at h ⊢
  rw [hcell, hboard]
  rw [hboard] at hat hentries
  cases hb : s.engine.board with
  | none =>
    rw [hb] at h
    cases hc : s.engine.cell <;> rw [hc] at h <;> exact h
  | some t =>
    rw [hb] at h
    have ha := hat t hb
    have hx (p : Transfer → Prop) : (∃ e ∈ s.table.transfers, e.traveler = t ∧ p e) →
        ∃ e ∈ u.table.transfers, e.traveler = t ∧ p e := fun ⟨e, he, ht, hp⟩ =>
      ⟨e, (hentries e (ht ▸ hb)).2 he, ht, hp⟩
    cases hc : s.engine.cell <;> rw [hc] at h
    case vacant => exact h
    case loading => exact hx _ h
    case done => exact h.imp ha.2 (hx _)
    all_goals exact ha.2 h

theorem Still.cellOk {s u : State} (h : Still s u) (hcell : u.engine.cell = s.engine.cell)
    (hboard : u.engine.board = s.engine.board) : s.CellOk → u.CellOk :=
  cellOk_congr hcell hboard (fun t _ => h.isAt t _ _) fun e _ => by rw [(recordsOnly_fields h.lists).1]

theorem Still.entryOk {s u : State} (h : Still s u) (hcell : u.engine.cell = s.engine.cell)
    (hboard : u.engine.board = s.engine.board) {e : Transfer} (he : s.EntryOk e) : u.EntryOk e := by
  unfold State.EntryOk at he ⊢
  rw [h.isAt, hcell, hboard]
  exact he

theorem Still.placesOk {s u : State} (h : Still s u) (hcell : u.engine.cell = s.engine.cell)
    (hboard : u.engine.board = s.engine.board) (hp : s.PlacesOk) : u.PlacesOk :=
  placesOk_iff.2 (h.placed (placesOk_iff.1 hp) (fun _ _ => h.entryOk hcell hboard)
    (h.cellOk hcell hboard (placesOk_iff.1 hp).cell))

theorem valveOk_congr {s u : State} (hmode : u.mode = s.mode) (hestop : u.io.estop = s.io.estop)
    (hcell : u.engine.cell = s.engine.cell) (hvalve : u.engine.valve = s.engine.valve)
    (hport : u.engine.port = s.engine.port) (h : s.ValveOk) : u.ValveOk := by
  unfold State.ValveOk
  rw [hmode, hestop, hcell, hvalve, hport]
  exact h

/-- With no valve open, only the mode of a RUNNING cell counts. -/
theorem valveOk_shut {s : State} (hcell : s.engine.cell = .running → s.mode = .run ∨ s.mode = .drain)
    (hvalve : s.engine.valve = none) : s.ValveOk := ⟨hcell, by simp [hvalve]⟩

theorem Rests.lawful {s u : State} (h : Rests s u) : Lawful s u where
  index := h.index
  holds := h.holds
  range := h.range
  places := fun _ => h.placesOk (by rw [h.engine]) (by rw [h.engine])
  valve := fun _ _ => valveOk_congr (mode_of_recordsOnly h.lists) h.estop (by rw [h.engine]) (by rw [h.engine])
    (by rw [h.engine])

/-! ### One board moves -/

/-- A stretch in which no board but `t` changes place or list; the mode, the E-stop, the valve and the port stand. -/
structure Moves (t : Nat) (s u : State) : Prop where
  index   : s.IndexOk → u.IndexOk
  holds   : s.HoldsOk → u.HoldsOk
  others  : ∀ n, n ≠ t → (u.traveler n).map Traveler.standing = (s.traveler n).map Traveler.standing
  queue   : ∀ n, n ≠ t → n ∈ u.table.queue → n ∈ s.table.queue
  flash   : ∀ n, n ≠ t → n ∈ u.cure.flash → n ∈ s.cure.flash
  oven    : ∀ e : OvenEntry, e.traveler ≠ t → e ∈ u.cure.oven → e ∈ s.cure.oven
  exit    : ∀ n, n ≠ t → n ∈ u.cure.exit → n ∈ s.cure.exit
  entries : ∀ e : Transfer, e.traveler ≠ t → (e ∈ u.table.transfers ↔ e ∈ s.table.transfers)
  mode    : u.mode = s.mode
  estop   : u.io.estop = s.io.estop
  valve   : u.engine.valve = s.engine.valve
  port    : u.engine.port = s.engine.port

/-- Where board `t` stands after its move: each list that has it says where it is, and the spray cell agrees. -/
structure Lands (t : Nat) (s u : State) : Prop where
  queue   : t ∈ u.table.queue → u.IsAt t .queued .present
  flash   : t ∈ u.cure.flash → u.IsAt t .flash .present
  oven    : ∀ e ∈ u.cure.oven, e.traveler = t → u.IsAt t .cure .present
  exit    : t ∈ u.cure.exit → u.IsAt t .ovenExit .present
  entries : ∀ e ∈ u.table.transfers, e.traveler = t → u.EntryOk e
  once    : (u.table.transfers.map (·.traveler)).Nodup
  cell    : u.engine.cell = s.engine.cell ∧ u.engine.board = s.engine.board ∧ s.engine.board ≠ some t ∨
    (∀ b, s.engine.board = some b → b = t) ∧ s.engine.cell ≠ .running ∧ u.engine.cell ≠ .running ∧ u.CellOk

theorem Moves.refl (t : Nat) (s : State) : Moves t s s :=
  ⟨id, id, fun _ _ => rfl, fun _ _ => id, fun _ _ => id, fun _ _ => id, fun _ _ => id, fun _ _ => Iff.rfl, rfl, rfl, rfl, rfl⟩

theorem Moves.trans {t : Nat} {s v u : State} (h : Moves t s v) (k : Moves t v u) : Moves t s u where
  index := k.index ∘ h.index
  holds := k.holds ∘ h.holds
  others := fun n hn => (k.others n hn).trans (h.others n hn)
  queue := fun n hn => h.queue n hn ∘ k.queue n hn
  flash := fun n hn => h.flash n hn ∘ k.flash n hn
  oven := fun e he => h.oven e he ∘ k.oven e he
  exit := fun n hn => h.exit n hn ∘ k.exit n hn
  entries := fun e he => (k.entries e he).trans (h.entries e he)
  mode := k.mode.trans h.mode
  estop := k.estop.trans h.estop
  valve := k.valve.trans h.valve
  port := k.port.trans h.port

theorem Rests.moves {s u : State} (h : Rests s u) (t : Nat) : Moves t s u := by
  obtain ⟨ht, hq, -⟩ := recordsOnly_fields h.lists
  have hcure := h.cure
  simp only [CureMonitor.lists, Prod.mk.injEq] at hcure
  obtain ⟨hf, ho, hx, -⟩ := hcure
  exact ⟨h.index, h.holds, fun n _ => h.standing n, fun _ _ => by rw [hq]; exact id, fun _ _ => by rw [hf]; exact id,
    fun _ _ => by rw [ho]; exact id, fun _ _ => by rw [hx]; exact id, fun _ _ => by rw [ht],
    mode_of_recordsOnly h.lists, h.estop, by rw [h.engine], by rw [h.engine]⟩

/-- An entry of another board agrees with the places through the move of `t`. -/
theorem Moves.entryOk {t : Nat} {s u : State} (m : Moves t s u) (l : Lands t s u) {e : Transfer} (ht : e.traveler ≠ t)
    (he : s.EntryOk e) : u.EntryOk e := by
  obtain ⟨hat, hcell, hflash⟩ := he
  refine ⟨(isAt_congr (m.others _ ht)).2 hat, fun hd => ?_, fun hd => ?_⟩
  · obtain ⟨hc, hb⟩ := hcell hd
    rcases l.cell with ⟨hc', hb', -⟩ | ⟨hboard, -⟩
    · exact ⟨hc'.trans hc, hb'.trans hb⟩
    · exact absurd (hboard _ hb) ht
  · obtain ⟨hs, hc, hb⟩ := hflash hd
    rcases l.cell with ⟨hc', hb', -⟩ | ⟨hboard, -⟩
    · exact ⟨hs, hc'.trans hc, hb'.trans hb⟩
    · exact absurd (hboard _ hb) ht

theorem Moves.placed {t : Nat} {s u : State} (m : Moves t s u) (l : Lands t s u) (h : Placed s) : Placed u where
  queue n hn := by
    by_cases ht : n = t
    · exact ht ▸ l.queue (ht ▸ hn)
    · exact (isAt_congr (m.others n ht)).2 (h.queue n (m.queue n ht hn))
  flash n hn := by
    by_cases ht : n = t
    · exact ht ▸ l.flash (ht ▸ hn)
    · exact (isAt_congr (m.others n ht)).2 (h.flash n (m.flash n ht hn))
  oven e he := by
    by_cases ht : e.traveler = t
    · exact ht ▸ l.oven e he ht
    · exact (isAt_congr (m.others _ ht)).2 (h.oven e (m.oven e ht he))
  exit n hn := by
    by_cases ht : n = t
    · exact ht ▸ l.exit (ht ▸ hn)
    · exact (isAt_congr (m.others n ht)).2 (h.exit n (m.exit n ht hn))
  entries e he := by
    by_cases ht : e.traveler = t
    · exact l.entries e he ht
    · exact m.entryOk l ht (h.entries e ((m.entries e ht).1 he))
  once := l.once
  cell := by
    rcases l.cell with ⟨hc, hb, hne⟩ | ⟨-, -, -, hok⟩
    · have other {n : Nat} (hn : u.engine.board = some n) : n ≠ t := fun he => hne (by rw [← hb, hn, he])
      exact cellOk_congr hc hb (fun n hn => isAt_congr (m.others n (other hn))) (fun e he => m.entries e (other he)) h.cell
    · exact hok

theorem Moves.valveOk {t : Nat} {s u : State} (m : Moves t s u) (l : Lands t s u) (h : s.ValveOk) : u.ValveOk := by
  rcases l.cell with ⟨hc, -⟩ | ⟨-, hs, hu, -⟩
  · exact valveOk_congr m.mode m.estop hc m.valve m.port h
  · refine ⟨fun hr => absurd hr hu, fun v hv => ?_⟩
    obtain ⟨hr, -⟩ := h.2 v (m.valve ▸ hv)
    exact absurd hr hs

theorem Moves.lawful {t : Nat} {s u : State} (m : Moves t s u) (hrange : s.RangeOk → u.RangeOk)
    (l : s.IndexOk → Placed s → Lands t s u) : Lawful s u where
  index := m.index
  holds := m.holds
  range := hrange
  places := fun hi hp => placesOk_iff.2 (m.placed (l hi (placesOk_iff.1 hp)) (placesOk_iff.1 hp))
  valve := fun hi hp => m.valveOk (l hi (placesOk_iff.1 hp))

end Sys2Proof.Machine
end

section
/-! PROOF of the invariants, fifth part: the start and the end of a transfer, and retirement. -/

namespace Sys2Proof.Machine

/-! ### The pieces of a move -/

theorem moves_moveStage (s : State) (t : Nat) (g : Stage) (p : PlaceState) : Moves t s (s.moveStage t g p) := by
  cases hr : s.traveler t with
  | none =>
    have : s.moveStage t g p = s := by simp [State.moveStage, hr]
    rw [this]
    exact Moves.refl t s
  | some r =>
    have hlists := recordsOnly_moveStage s t g p
    have hat (n : Nat) := traveler_moveStage g p n hr
    have heq := moveStage_live g p hr
    refine { Moves.refl t s with
      index := indexOk_congr ?_ (recordsOnly_fields hlists).2.2.1 (recordsOnly_fields hlists).2.2.2.1 fun n => ?_
      holds := fun h x hx => ?_
      others := fun n hn => by rw [hat n, if_neg hn]
      queue := fun n _ => by rw [(recordsOnly_fields hlists).2.1]; exact id
      flash := fun n _ => by simp
      oven := fun n _ => by simp
      exit := fun n _ => by simp
      entries := fun e _ => by rw [(recordsOnly_fields hlists).1]
      mode := mode_of_recordsOnly hlists
      estop := by simp
      valve := by simp
      port := by simp }
    · rw [heq]
      exact length_putNth _ _ _
    · rw [hat n]
      split
      · rename_i hn
        rw [hn, hr]
        rfl
      · rfl
    · rw [heq] at hx
      rcases mem_putNth hx with hx | hx
      · cases hx
        exact h r (mem_of_traveler hr)
      · exact h x hx

theorem isAt_moveStage {s : State} {t : Nat} {g g' : Stage} {p p' : PlaceState} (h : s.IsAt t g p) :
    (s.moveStage t g' p').IsAt t g' p' := by
  obtain ⟨r, hr, -⟩ := h
  exact ⟨{ r with stage := g', place := p' }, by rw [traveler_moveStage g' p' t hr, if_pos rfl], rfl, rfl⟩

theorem moves_leaveSource (s : State) (t : Nat) (a : Place) : Moves t s (s.leaveSource t a) := by
  unfold State.leaveSource
  split
  · exact { Moves.refl t s with queue := fun _ _ h => (List.mem_filter.1 h).1 }
  · exact { Moves.refl t s with exit := fun _ _ h => (List.mem_filter.1 h).1 }
  · exact Moves.refl t s

theorem moves_onEngine (s : State) (t : Nat) (f : StrokeEngine → StrokeEngine)
    (hv : (f s.engine).valve = s.engine.valve) (hp : (f s.engine).port = s.engine.port) : Moves t s (s.onEngine f) :=
  { Moves.refl t s with valve := hv, port := hp }

theorem moves_expect (s : State) (t : Nat) (d : Place) : Moves t s (s.expect t d) := by
  unfold State.expect
  split
  · exact moves_onEngine s t _ rfl rfl
  · exact (rests_assignSlot s _ t).moves t
  · exact (rests_onCure s (fun c => { c with overdue := c.overdue.filter (· != t) }) rfl).moves t
  · exact Moves.refl t s

theorem moves_addEntry (s : State) (t : Nat) (a d : Place) :
    Moves t s (s.onTable fun b => { b with transfers := b.transfers ++ [entryFor s t a d] }) :=
  { Moves.refl t s with
    entries := fun e he => by
      have : e ≠ entryFor s t a d := fun h => he (by rw [h]; rfl)
      simp [this] }

theorem moves_removeTransfer (s : State) (t : Nat) : Moves t s (s.removeTransfer t) := by
  refine Moves.trans ?_ ((rests_reselect _).moves t)
  exact { Moves.refl t s with entries := fun e he => by simp [he] }

theorem moves_receive (s : State) (t : Nat) (d : Place) : Moves t s (s.receive t d) := by
  unfold State.receive
  split
  · exact moves_onEngine s t _ rfl rfl
  · refine Moves.trans ?_ (moves_onEngine _ t _ rfl rfl)
    exact { Moves.refl t s with
      flash := fun n hn h => by
        have h' : n ∈ s.cure.flash ++ [t] := h
        simpa [hn] using h' }
  · exact (rests_onHolds s _).moves t
  · exact Moves.refl t s

theorem mem_dropOven {c : CureMonitor} {t : Nat} {e : OvenEntry} (h : e ∈ (c.dropOven t).oven) :
    e ∈ c.oven ∧ e.traveler ≠ t := by
  unfold CureMonitor.dropOven at h
  split at h
  · simpa using h
  · rename_i hn
    exact ⟨h, fun he => hn (List.any_eq_true.2 ⟨e, h, by simp [he]⟩)⟩

@[simp] theorem dropOven_flash (c : CureMonitor) (t : Nat) : (c.dropOven t).flash = c.flash := by
  unfold CureMonitor.dropOven; split <;> rfl

@[simp] theorem dropOven_exit (c : CureMonitor) (t : Nat) : (c.dropOven t).exit = c.exit := by
  unfold CureMonitor.dropOven; split <;> rfl

/-! ### The admitted range -/

/-- What one entry makes of the admitted range. -/
def OvenEntry.narrow (i : Nat × Nat) (e : OvenEntry) : Nat × Nat :=
  match e.form, e.range with
  | .none, some r => (max i.1 r.1, min i.2 r.2)
  | _, _ => i

theorem admittedRange_eq (l : List OvenEntry) :
    admittedRange l = l.foldl OvenEntry.narrow (Config.beltMin, Config.beltMax) := rfl

theorem admittedRange_append (l : List OvenEntry) (e : OvenEntry) :
    admittedRange (l ++ [e]) = e.narrow (admittedRange l) := by
  simp only [admittedRange_eq, List.foldl_append, List.foldl_cons, List.foldl_nil]

/-- `i` lies within `j`. -/
def Inside (i j : Nat × Nat) : Prop := j.1 ≤ i.1 ∧ i.2 ≤ j.2

theorem inside_narrow {i j : Nat × Nat} (e : OvenEntry) (h : Inside i j) :
    Inside (e.narrow i) (e.narrow j) ∧ Inside (e.narrow i) j := by
  obtain ⟨h1, h2⟩ := h
  unfold OvenEntry.narrow
  split
  · exact ⟨⟨max_le_max h1 le_rfl, min_le_min h2 le_rfl⟩, Nat.le_trans h1 (le_max_left _ _),
      Nat.le_trans (min_le_left _ _) h2⟩
  · exact ⟨⟨h1, h2⟩, h1, h2⟩

/-- The range of fewer boards is no narrower (R120). -/
theorem inside_filter (p : OvenEntry → Bool) (l : List OvenEntry) {i j : Nat × Nat} (h : Inside i j) :
    Inside (l.foldl OvenEntry.narrow i) ((l.filter p).foldl OvenEntry.narrow j) := by
  induction l generalizing i j with
  | nil => exact h
  | cons e l ih =>
    rw [List.filter_cons]
    split
    · exact ih (inside_narrow e h).1
    · exact ih (inside_narrow e h).2

theorem inside_belt (l : List OvenEntry) : Inside (admittedRange l) (Config.beltMin, Config.beltMax) := by
  have h := inside_filter (fun _ => false) l (i := (Config.beltMin, Config.beltMax)) ⟨le_rfl, le_rfl⟩
  simpa [admittedRange_eq] using h

/-- A board that leaves the oven list leaves I the intersection of the rest, and the setpoint within it (R120). -/
theorem range_dropOven {s u : State} {t : Nat} (hu : u.cure.belt = (s.cure.dropOven t).belt) (h : s.RangeOk) :
    u.RangeOk := by
  refine rangeOk_congr (s := s.onCure (·.dropOven t)) hu ?_
  obtain ⟨hrange, hne, hset, hin⟩ := h
  unfold State.RangeOk
  simp only [onCure_cure, CureMonitor.dropOven]
  split
  · have hfilter := inside_filter (fun e => e.traveler != t) s.cure.oven (i := (Config.beltMin, Config.beltMax))
      ⟨le_rfl, le_rfl⟩
    rw [← admittedRange_eq, ← admittedRange_eq, ← hrange] at hfilter
    obtain ⟨hlow, hhigh⟩ := hfilter
    refine ⟨rfl, by simp only at *; omega, hset, fun hrest => ?_⟩
    have hsome : s.cure.oven ≠ [] := fun he => hrest (by simp [he])
    have := hin hsome
    simp only at *
    omega
  · exact ⟨hrange, hne, hset, hin⟩

/-! ### Retirement -/

theorem retire_fields (s : State) {t : Nat} {r : Traveler} (o : RetireOutcome) (h : s.traveler t = some r) :
    (s.retire t o).engine = (if s.engine.board = some t then s.engine.vacate else s.engine) ∧
    (s.retire t o).cure = { s.cure.dropOven t with
      flash := (s.cure.dropOven t).flash.filter (· != t), overdue := (s.cure.dropOven t).overdue.filter (· != t),
      exit := (s.cure.dropOven t).exit.filter (· != t) } ∧
    (s.retire t o).io.estop = s.io.estop := by
  unfold State.retire
  simp only [h]
  exact ⟨rfl, rfl, rfl⟩

theorem indexOk_retire {s : State} {t : Nat} {r : Traveler} (o : RetireOutcome) (hr : s.traveler t = some r)
    (h : s.IndexOk) : (s.retire t o).IndexOk := by
  obtain ⟨hlen, hnodup, hmem, hkeys, hpairs⟩ := h
  obtain ⟨hdead, hfree, -, hindex, hothers⟩ := retire_live o hr
  have hbounds := traveler_bounds hr
  refine ⟨?_, ?_, fun n => ?_, ?_, fun tag n => ?_⟩
  · rw [retire_table s o hr]
    exact (length_putNth _ _ _).trans hlen
  · rw [hfree]
    refine List.nodup_append.2 ⟨hnodup, by simp, ?_⟩
    rintro n hn m hm rfl
    have := (hmem n).1 hn
    simp_all
  · rw [hfree, List.mem_append, List.mem_singleton, hmem]
    by_cases hn : n = t
    · subst hn
      simp [hdead, hbounds, ← hlen]
    · simp [hn, hothers n hn]
  · rw [hindex]
    exact (List.filter_sublist.map _).nodup hkeys
  · rw [hindex, List.mem_filter, hpairs]
    by_cases hn : n = t
    · subst hn
      simp [hdead]
    · simp [hn, hothers n hn]

theorem moves_retire (s : State) (t : Nat) (o : RetireOutcome) : Moves t s (s.retire t o) := by
  cases hr : s.traveler t with
  | none => rw [retire_dead o hr]; exact Moves.refl t s
  | some r =>
    have htable := retire_table s o hr
    obtain ⟨hengine, hcure, hestop⟩ := retire_fields s o hr
    obtain ⟨-, -, -, -, hothers⟩ := retire_live o hr
    refine
      { index := indexOk_retire o hr
        holds := fun h x hx => ?_
        others := fun n hn => by rw [hothers n hn]
        queue := fun n _ => by rw [htable]; exact fun h => (List.mem_filter.1 h).1
        flash := fun n _ => by rw [hcure]; exact fun h => by simpa using (List.mem_filter.1 h).1
        oven := fun e _ => by rw [hcure]; exact fun h => (mem_dropOven h).1
        exit := fun n _ => by rw [hcure]; exact fun h => by simpa using (List.mem_filter.1 h).1
        entries := fun e he => by rw [htable]; simp [he]
        mode := by unfold State.mode; rw [htable]
        estop := hestop
        valve := by rw [hengine]; split <;> rfl
        port := by rw [hengine]; split <;> rfl }
    rw [htable] at hx
    rcases mem_putNth hx with hx | hx
    · cases hx
    · exact h x hx

theorem range_retire (s : State) (t : Nat) (o : RetireOutcome) : s.RangeOk → (s.retire t o).RangeOk := by
  cases hr : s.traveler t with
  | none => rw [retire_dead o hr]; exact id
  | some r => exact range_dropOven (t := t) (by rw [(retire_fields s o hr).2.1]; rfl)

/-- A retired board is in no list (R19). -/
theorem retire_gone {s : State} {t : Nat} {r : Traveler} (o : RetireOutcome) (hr : s.traveler t = some r) :
    t ∉ (s.retire t o).table.queue ∧ t ∉ (s.retire t o).cure.flash ∧
      (∀ e ∈ (s.retire t o).cure.oven, e.traveler ≠ t) ∧ t ∉ (s.retire t o).cure.exit ∧
      ∀ e ∈ (s.retire t o).table.transfers, e.traveler ≠ t := by
  rw [retire_table s o hr, (retire_fields s o hr).2.1]
  refine ⟨by simp, by simp, fun e he => (mem_dropOven he).2, by simp, fun e he => by simpa using (List.mem_filter.1 he).2⟩

/-- Where no list has board `t`, only the spray cell has to agree. -/
theorem lands_of_gone {t : Nat} {s u : State} (hq : t ∉ u.table.queue) (hf : t ∉ u.cure.flash)
    (ho : ∀ e ∈ u.cure.oven, e.traveler ≠ t) (hx : t ∉ u.cure.exit) (he : ∀ e ∈ u.table.transfers, e.traveler ≠ t)
    (once : (u.table.transfers.map (·.traveler)).Nodup)
    (cell : u.engine.cell = s.engine.cell ∧ u.engine.board = s.engine.board ∧ s.engine.board ≠ some t ∨
      (∀ b, s.engine.board = some b → b = t) ∧ s.engine.cell ≠ .running ∧ u.engine.cell ≠ .running ∧ u.CellOk) :
    Lands t s u :=
  ⟨fun h => absurd h hq, fun h => absurd h hf, fun e h ht => absurd ht (ho e h), fun h => absurd h hx,
    fun e h ht => absurd ht (he e h), once, cell⟩

/-- The cell after its own board has left it. -/
theorem cell_of_vacate {t : Nat} {s u : State} (hboard : s.engine.board = some t) (hrun : s.engine.cell ≠ .running)
    (hcell : u.engine.cell = .vacant) (hnone : u.engine.board = none) :
    (∀ b, s.engine.board = some b → b = t) ∧ s.engine.cell ≠ .running ∧ u.engine.cell ≠ .running ∧ u.CellOk :=
  ⟨fun b hb => by rw [hboard] at hb; cases hb; rfl, hrun, by rw [hcell]; nofun, cellOk_of_vacant hcell hnone⟩

theorem lands_retire {s v : State} {t : Nat} {r : Traveler} (o : RetireOutcome) (hr : v.traveler t = some r)
    (hengine : v.engine = s.engine) (once : (v.table.transfers.map (·.traveler)).Nodup)
    (hrun : s.engine.board = some t → s.engine.cell ≠ .running) : Lands t s (v.retire t o) := by
  obtain ⟨hq, hf, ho, hx, he⟩ := retire_gone o hr
  refine lands_of_gone hq hf ho hx he ?_ ?_
  · rw [retire_table v o hr]
    exact (List.filter_sublist.map _).nodup once
  · have hu := (retire_fields v o hr).1
    rw [hengine] at hu
    by_cases hb : s.engine.board = some t
    · rw [if_pos hb] at hu
      exact .inr (cell_of_vacate hb (hrun hb) (by rw [hu]; rfl) (by rw [hu]; rfl))
    · rw [if_neg hb] at hu
      exact .inl ⟨by rw [hu], by rw [hu], hb⟩

theorem lawful_retire {s : State} {t : Nat} (o : RetireOutcome)
    (hrun : Placed s → s.engine.board = some t → s.engine.cell ≠ .running) : Lawful s (s.retire t o) := by
  cases hr : s.traveler t with
  | none => rw [retire_dead o hr]; exact Lawful.refl s
  | some r =>
    exact (moves_retire s t o).lawful (range_retire s t o) fun _ hp => lands_retire o hr rfl hp.once (hrun hp)

end Sys2Proof.Machine
end

section
/-! PROOF of the invariants, sixth part: transfers, and the diverters that start them. -/

namespace Sys2Proof.Machine

/-! ### The start of a transfer (R16) -/

/-- What permits a transfer of board `t` to start: it is PRESENT at the source; the cell is VACANT for it, or DONE with
it (R15, R72, R94). -/
structure Starts (s : State) (t : Nat) (a d : Place) : Prop where
  present : s.IsAt t a.stage .present
  indexed : a ≠ .flashBelt
  cell    : d = .cell → s.engine.cell = .vacant
  flash   : d = .flashBelt → a = .cell ∧ s.engine.cell = .done ∧ s.engine.board = some t
  other   : d ≠ .flashBelt → a ≠ .cell

theorem preMove_fields (s : State) (t : Nat) (a d : Place) :
    (s.preMove t a d).table.queue = (s.leaveSource t a).table.queue ∧
      (s.preMove t a d).cure.lists = (s.leaveSource t a).cure.lists ∧ (s.preMove t a d).engine = (s.expect t d).engine ∧
      ∀ n, ((s.preMove t a d).traveler n).map Traveler.standing = (s.traveler n).map Traveler.standing := by
  let v := ((s.onOutputs (openWay a d)).onTable fun b =>
    { b with transfers := b.transfers ++ [entryFor s t a d] }).leaveSource t a
  have hpre : s.preMove t a d = (v.expect t d).reselect := rfl
  have hqueue : v.table.queue = (s.leaveSource t a).table.queue := by cases a <;> rfl
  have hcure : v.cure = (s.leaveSource t a).cure := by cases a <;> rfl
  have hengine : v.engine = s.engine := by cases a <;> rfl
  have hrecords (n : Nat) : v.traveler n = s.traveler n := by cases a <;> rfl
  refine ⟨?_, ?_, ?_, fun n => ?_⟩
  · rw [hpre, ← hqueue]
    exact (recordsOnly_fields (recordsOnly_expect v t d)).2.1
  · rw [hpre, ← hcure]
    cases d with
    | shelf n => exact (rests_assignSlot v n t).cure
    | _ => rfl
  · rw [hpre]
    cases d with
    | shelf n => exact (rests_assignSlot v n t).engine.trans (hengine.trans (rests_assignSlot s n t).engine.symm)
    | cell => exact congrArg (fun e : StrokeEngine => { e with cell := .loading, board := some t }) hengine
    | _ => exact hengine
  · rw [hpre, ← hrecords n]
    cases d with
    | shelf k => exact (rests_assignSlot v k t).standing n
    | _ => rfl

theorem moves_preMove (s : State) (t : Nat) (a d : Place) : Moves t s (s.preMove t a d) := by
  have hway := (rests_onOutputs s (openWay a d)).moves t
  have hentry : Moves t (s.onOutputs (openWay a d)) _ := moves_addEntry (s.onOutputs (openWay a d)) t a d
  exact (((hway.trans hentry).trans (moves_leaveSource _ t a)).trans (moves_expect _ t d)).trans ((rests_reselect _).moves t)

/-- A transfer begun: what precedes the stage change, the stage change, and at rest the overdue examination. -/
theorem begin_rests (s : State) (t : Nat) (a d : Place) :
    Rests ((s.preMove t a d).moveStage t d.stage .arriving) (s.beginTransfer t a d) := by
  by_cases hd : d = .flashBelt
  · subst hd
    exact rests_examineFlash _
  · rw [begin_eq s t a d hd]
    exact Rests.refl _

/-- Where a board has landed it stays through what leaves every board in place. -/
theorem Lands.rests {t : Nat} {s v u : State} (l : Lands t s v) (h : Rests v u) : Lands t s u := by
  obtain ⟨ht, hq, -⟩ := recordsOnly_fields h.lists
  have hcure := h.cure
  simp only [CureMonitor.lists, Prod.mk.injEq] at hcure
  obtain ⟨hf, ho, hx, -⟩ := hcure
  refine ⟨?_, ?_, ?_, ?_, ?_, ht ▸ l.once, ?_⟩
  · rw [hq, h.isAt]; exact l.queue
  · rw [hf, h.isAt]; exact l.flash
  · rw [ho, h.isAt]; exact l.oven
  · rw [hx, h.isAt]; exact l.exit
  · rw [ht]
    exact fun e he hn => h.entryOk (by rw [h.engine]) (by rw [h.engine]) (l.entries e he hn)
  · rw [h.engine]
    exact l.cell.imp_right fun ⟨h1, h2, h3, h4⟩ => ⟨h1, h2, h3, h.cellOk (by rw [h.engine]) (by rw [h.engine]) h4⟩

/-- A board PRESENT at the source of a transfer is in no list once it has left that source. -/
theorem leaveSource_gone {s : State} {t : Nat} {a : Place} (hp : Placed s) (hat : s.IsAt t a.stage .present)
    (ha : a ≠ .flashBelt) : t ∉ (s.leaveSource t a).table.queue ∧ t ∉ (s.leaveSource t a).cure.flash ∧
      (∀ e ∈ (s.leaveSource t a).cure.oven, e.traveler ≠ t) ∧ t ∉ (s.leaveSource t a).cure.exit := by
  have hqueue (hm : t ∈ s.table.queue) := (isAt_unique hat (hp.queue t hm)).1
  have hflash (hm : t ∈ s.cure.flash) := (isAt_unique hat (hp.flash t hm)).1
  have hexit (hm : t ∈ s.cure.exit) := (isAt_unique hat (hp.exit t hm)).1
  have hoven : ∀ e ∈ s.cure.oven, e.traveler = t → a.stage = .cure := fun e he ht =>
    (isAt_unique hat (ht ▸ hp.oven e he)).1
  cases a <;> simp_all [State.leaveSource, Place.stage]

/-- A board that is PRESENT has no entry (R16). -/
theorem Placed.no_entry {s : State} (hp : Placed s) {t : Nat} {g : Stage} (hat : s.IsAt t g .present) :
    ∀ e ∈ s.table.transfers, e.traveler ≠ t := by
  rintro e he rfl
  exact nomatch (isAt_unique hat (hp.entries e he).1).2

/-- The board of the cell is PRESENT in SPRAY, where it is PRESENT (R77). -/
theorem Placed.board_present {s : State} (hp : Placed s) {t : Nat} {g : Stage} (hat : s.IsAt t g .present)
    (hb : s.engine.board = some t) : g = .spray := by
  rcases cellBoard_cases hp.cell hb with h | ⟨e, he, ht, -⟩
  · exact (isAt_unique hat h).1
  · exact absurd ht (hp.no_entry hat e he)

theorem cell_of_begin {s u : State} {t : Nat} {a d : Place} (hp : Placed s) (h : Starts s t a d)
    (hengine : u.engine = (s.expect t d).engine)
    (htransfers : u.table.transfers = s.table.transfers ++ [entryFor s t a d]) :
    u.engine.cell = s.engine.cell ∧ u.engine.board = s.engine.board ∧ s.engine.board ≠ some t ∨
      (∀ b, s.engine.board = some b → b = t) ∧ s.engine.cell ≠ .running ∧ u.engine.cell ≠ .running ∧ u.CellOk := by
  have hentry : entryFor s t a d ∈ u.table.transfers := by rw [htransfers]; simp
  by_cases hcell : d = .cell
  · subst hcell
    have hvacant := h.cell rfl
    have hnone := cellBoard_vacant hp.cell hvacant
    have hu : u.engine = { s.engine with cell := .loading, board := some t } := hengine
    refine .inr ⟨fun b hb => (by rw [hnone] at hb; cases hb), by rw [hvacant]; nofun, by rw [hu]; nofun, ?_⟩
    unfold State.CellOk
    rw [hu]
    exact ⟨_, hentry, rfl, rfl⟩
  by_cases hflash : d = .flashBelt
  · subst hflash
    obtain ⟨rfl, hdone, hboard⟩ := h.flash rfl
    have hu : u.engine = s.engine := hengine
    refine .inr ⟨fun b hb => by rw [hboard] at hb; cases hb; rfl, by rw [hdone]; nofun, by rw [hu, hdone]; nofun, ?_⟩
    unfold State.CellOk
    rw [hu, hdone, hboard]
    exact .inr ⟨_, hentry, rfl, rfl, rfl⟩
  · have hu : u.engine = s.engine := by
      rw [hengine]
      cases d with
      | cell => exact absurd rfl hcell
      | shelf n => exact (rests_assignSlot s n t).engine
      | _ => rfl
    refine .inl ⟨by rw [hu], by rw [hu], fun hb => ?_⟩
    have hspray := hp.board_present h.present hb
    have hsource := h.other hflash
    cases a <;> simp_all [Place.stage]

theorem lands_begin {s : State} {t : Nat} {a d : Place} (hp : Placed s) (h : Starts s t a d) :
    Lands t s (s.beginTransfer t a d) := by
  refine Lands.rests ?_ (begin_rests s t a d)
  obtain ⟨hqueue, hcure, hengine, hstanding⟩ := preMove_fields s t a d
  simp only [CureMonitor.lists, Prod.mk.injEq] at hcure
  obtain ⟨hflash, hoven, hexit, -⟩ := hcure
  have hgone := leaveSource_gone hp h.present h.indexed
  rw [← hqueue, ← hflash, ← hoven, ← hexit] at hgone
  obtain ⟨hq, hf, ho, hx⟩ := hgone
  have hat := isAt_moveStage (g' := d.stage) (p' := .arriving) ((isAt_congr (hstanding t)).2 h.present)
  obtain ⟨htransfers', hqueue', -⟩ := recordsOnly_fields (recordsOnly_moveStage (s.preMove t a d) t d.stage .arriving)
  have hnone := hp.no_entry h.present
  let u := (s.preMove t a d).moveStage t d.stage .arriving
  have htransfers : u.table.transfers = s.table.transfers ++ [entryFor s t a d] := by
    rw [htransfers', preMove_transfers]
  have hcell := cell_of_begin (u := u) hp h (by simp [u, hengine]) htransfers
  refine ⟨fun hm => absurd (hqueue' ▸ hm) hq, fun hm => absurd (by simpa using hm) hf,
    fun e he ht => absurd ht (ho e (by simpa using he)), fun hm => absurd (by simpa using hm) hx, fun e he ht => ?_, ?_,
    hcell⟩
  · rw [htransfers, List.mem_append, List.mem_singleton] at he
    rcases he with he | rfl
    · exact absurd ht (hnone e he)
    · refine ⟨hat, fun hd => ?_, fun hd => ?_⟩
      · have hd' : d = .cell := hd
        subst hd'
        have hu : u.engine = { s.engine with cell := .loading, board := some t } := by simp [u, hengine]; rfl
        exact ⟨by rw [hu], by rw [hu]; rfl⟩
      · have hd' : d = .flashBelt := hd
        subst hd'
        obtain ⟨ha, hdone, hboard⟩ := h.flash rfl
        have hu : u.engine = s.engine := by simp [u, hengine]; rfl
        exact ⟨ha, by rw [hu, hdone], by rw [hu, hboard]; rfl⟩
  · rw [htransfers, List.map_append]
    refine List.nodup_append.2 ⟨hp.once, by simp, ?_⟩
    rintro n hn m hm rfl
    obtain ⟨e, he, hen⟩ := List.mem_map.1 hn
    rw [List.map_cons, List.map_nil, List.mem_singleton] at hm
    exact hnone e he (hen.trans hm)

theorem moves_begin (s : State) (t : Nat) (a d : Place) : Moves t s (s.beginTransfer t a d) :=
  ((moves_preMove s t a d).trans (moves_moveStage _ t _ _)).trans ((begin_rests s t a d).moves t)

theorem range_begin (s : State) (t : Nat) (a d : Place) : s.RangeOk → (s.beginTransfer t a d).RangeOk := by
  refine fun h => (begin_rests s t a d).range (rangeOk_congr (s := s) ?_ h)
  obtain ⟨-, hcure, -⟩ := preMove_fields s t a d
  have hsource : (s.leaveSource t a).cure.belt = s.cure.belt := by cases a <;> rfl
  rw [← hsource]
  simp only [CureMonitor.lists, Prod.mk.injEq] at hcure
  simp [CureMonitor.belt, hcure]

theorem lawful_begin {s : State} {t : Nat} {a d : Place} (h : Placed s → Starts s t a d) :
    Lawful s (s.beginTransfer t a d) :=
  (moves_begin s t a d).lawful (range_begin s t a d) fun _ hp => lands_begin hp (h hp)

/-! ### The end of a transfer (R17) -/

/-- The pieces of a transfer's end but for the outfeed. -/
theorem settle_inside {e : Transfer} (hd : e.dest ≠ .outfeed) (s : State) :
    s.settle e = ((s.moveStage e.traveler e.dest.stage .present).leaveStation e.source).receive e.traveler e.dest := by
  unfold State.settle
  rw [if_neg hd]

theorem moves_settle (s : State) (e : Transfer) : Moves e.traveler s (s.settle e) := by
  by_cases hd : e.dest = .outfeed
  · unfold State.settle
    rw [if_pos hd]
    exact moves_retire s _ _
  · rw [settle_inside hd]
    exact ((moves_moveStage s _ _ _).trans ((rests_leaveStation _ _).moves _)).trans (moves_receive _ _ _)

theorem receive_fields (s : State) (t : Nat) (d : Place) :
    (s.receive t d).cure = (if d = .flashBelt then { s.cure with flash := s.cure.flash ++ [t] } else s.cure) ∧
      (s.receive t d).engine = (if d = .cell then { s.engine with cell := .ready, board := some t }
        else if d = .flashBelt then s.engine.vacate else s.engine) := by
  cases d <;> exact ⟨rfl, rfl⟩

theorem leaveStation_fields (s : State) (a : Place) :
    (s.leaveStation a).cure = s.cure ∧ (s.leaveStation a).engine = s.engine := by
  cases a <;> exact ⟨rfl, rfl⟩

theorem settle_fields {s : State} {e : Transfer} (hd : e.dest ≠ .outfeed) :
    RecordsOnly s (s.settle e) ∧
      (s.settle e).cure = (if e.dest = .flashBelt then { s.cure with flash := s.cure.flash ++ [e.traveler] } else s.cure) ∧
      (s.settle e).engine = (if e.dest = .cell then { s.engine with cell := .ready, board := some e.traveler }
        else if e.dest = .flashBelt then s.engine.vacate else s.engine) := by
  rw [settle_inside hd]
  obtain ⟨hcure, hengine⟩ := receive_fields ((s.moveStage e.traveler e.dest.stage .present).leaveStation e.source)
    e.traveler e.dest
  obtain ⟨hcure', hengine'⟩ := leaveStation_fields (s.moveStage e.traveler e.dest.stage .present) e.source
  refine ⟨(recordsOnly_moveStage s _ _ _).trans (.of (by rw [receive_table, leaveStation_table])), ?_, ?_⟩
  · rw [hcure, hcure', moveStage_cure]
  · rw [hengine, hengine', moveStage_engine]

theorem range_settle (s : State) (e : Transfer) : s.RangeOk → (s.settle e).RangeOk := by
  by_cases hd : e.dest = .outfeed
  · unfold State.settle
    rw [if_pos hd]
    exact range_retire s _ _
  · refine rangeOk_congr ?_
    rw [(settle_fields hd).2.1]
    split <;> rfl

/-- What is left where the entry of board `t` has been removed and all else stands: the board ARRIVING, in no list. -/
structure Leaves (s v : State) (e : Transfer) : Prop where
  rests     : v.engine = s.engine
  lists     : v.cure = s.cure
  queue     : v.table.queue = s.table.queue
  transfers : v.table.transfers = s.table.transfers.filter fun x => x.traveler != e.traveler
  records   : v.table.records = s.table.records

theorem leaves_removeTransfer (s : State) (e : Transfer) : Leaves s (s.removeTransfer e.traveler) e :=
  ⟨rfl, rfl, rfl, rfl, rfl⟩

theorem Placed.arriving_gone {s : State} (hp : Placed s) {t : Nat} {g : Stage} (hat : s.IsAt t g .arriving) :
    t ∉ s.table.queue ∧ t ∉ s.cure.flash ∧ (∀ e ∈ s.cure.oven, e.traveler ≠ t) ∧ t ∉ s.cure.exit :=
  have absent {g' : Stage} (h : s.IsAt t g' .present) : False := nomatch (isAt_unique hat h).2
  ⟨fun hm => absent (hp.queue t hm), fun hm => absent (hp.flash t hm), fun e he ht => absent (ht ▸ hp.oven e he),
    fun hm => absent (hp.exit t hm)⟩

/-- A board that is ARRIVING is the cell's only on its way into it or out of it. -/
theorem Placed.board_arriving {s : State} (hp : Placed s) {e : Transfer} (he : e ∈ s.table.transfers)
    (hb : s.engine.board = some e.traveler) :
    s.engine.cell = .loading ∧ e.dest = .cell ∨ s.engine.cell = .done ∧ e.dest = .flashBelt := by
  rcases cellBoard_cases hp.cell hb with h | ⟨x, hx, ht, h⟩
  · exact nomatch (isAt_unique (hp.entries e he).1 h).2
  · rwa [hp.entry_unique he hx ht] at h

theorem lands_settle {s v : State} {e : Transfer} (hp : Placed s) (he : e ∈ s.table.transfers) (hv : Leaves s v e) :
    Lands e.traveler s (v.settle e) := by
  obtain ⟨hat, hcell, hflash⟩ := hp.entries e he
  have hatv : v.IsAt e.traveler e.dest.stage .arriving := by
    unfold State.IsAt State.traveler
    rw [hv.records]
    exact hat
  have once : (v.table.transfers.map (·.traveler)).Nodup := by
    rw [hv.transfers]
    exact (List.filter_sublist.map _).nodup hp.once
  have hrun (hb : s.engine.board = some e.traveler) : s.engine.cell ≠ .running := by
    rcases hp.board_arriving he hb with ⟨h, -⟩ | ⟨h, -⟩ <;> rw [h] <;> nofun
  by_cases hd : e.dest = .outfeed
  · obtain ⟨r, hr, -⟩ := hatv
    unfold State.settle
    rw [if_pos hd]
    exact lands_retire _ hr hv.rests once hrun
  obtain ⟨hq, hf, ho, hx⟩ := hp.arriving_gone hat
  obtain ⟨hrecords, hcure, hengine⟩ := settle_fields (s := v) hd
  obtain ⟨htransfers, hqueue, -⟩ := recordsOnly_fields hrecords
  have hpresent : (v.settle e).IsAt e.traveler e.dest.stage .present := by
    obtain ⟨r, hr, -⟩ := hatv
    exact ⟨_, (settle_live hr hd).1, rfl, rfl⟩
  have hoven : (v.settle e).cure.oven = s.cure.oven := by rw [hcure, hv.lists]; split <;> rfl
  have hexit : (v.settle e).cure.exit = s.cure.exit := by rw [hcure, hv.lists]; split <;> rfl
  refine ⟨fun hm => ?_, fun hm => ?_, fun x hm => ?_, fun hm => ?_, fun x hm ht => ?_, ?_, ?_⟩
  · rw [hqueue, hv.queue] at hm
    exact absurd hm hq
  · by_cases hbelt : e.dest = .flashBelt
    · rw [hbelt] at hpresent
      exact hpresent
    · rw [hcure, if_neg hbelt, hv.lists] at hm
      exact absurd hm hf
  · rw [hoven] at hm
    exact fun ht => absurd ht (ho x hm)
  · rw [hexit] at hm
    exact absurd hm hx
  · rw [htransfers, hv.transfers] at hm
    simp [ht] at hm
  · rw [htransfers]
    exact once
  · rw [hv.rests] at hengine
    by_cases hc : e.dest = .cell
    · obtain ⟨hload, hboard⟩ := hcell hc
      rw [if_pos hc] at hengine
      refine .inr ⟨fun b hb => by rw [hboard] at hb; cases hb; rfl, hrun hboard, by rw [hengine]; nofun, ?_⟩
      unfold State.CellOk
      rw [hengine]
      rw [hc] at hpresent
      exact hpresent
    rw [if_neg hc] at hengine
    by_cases hbelt : e.dest = .flashBelt
    · obtain ⟨-, -, hboard⟩ := hflash hbelt
      rw [if_pos hbelt] at hengine
      exact .inr (cell_of_vacate hboard (hrun hboard) (by rw [hengine]; rfl) (by rw [hengine]; rfl))
    · rw [if_neg hbelt] at hengine
      refine .inl ⟨by rw [hengine], by rw [hengine], fun hb => ?_⟩
      rcases hp.board_arriving he hb with ⟨-, h⟩ | ⟨-, h⟩
      · exact hc h
      · exact hbelt h

/-- A transfer that stands in the list ends lawfully. -/
theorem lawful_finish {s : State} {e : Transfer} (he : e ∈ s.table.transfers) : Lawful s (s.finishTransfer e) := by
  let w := s.onOutputs (closeWay e.source)
  have hlast := (rests_inspectAt ((w.removeTransfer e.traveler).settle e) e.traveler e.dest).lawful
  refine ((rests_onOutputs s (closeWay e.source)).lawful.trans ?_).trans hlast
  refine ((moves_removeTransfer w e.traveler).trans (moves_settle _ e)).lawful ?_ fun _ hp =>
    lands_settle hp he (leaves_removeTransfer w e)
  exact range_settle (w.removeTransfer e.traveler) e

theorem transferEnds_mem {s : State} {t : Nat} {e : Transfer} (h : s.transferEnds t = some e) :
    e ∈ s.table.transfers := by
  unfold State.transferEnds at h
  split at h
  · cases h
  · rename_i x hx
    split at h
    · cases h
      exact List.mem_of_find?_eq_some hx
    · cases h

theorem lawful_start {s : State} {t : Nat} {a d : Place} (h : Placed s → Starts s t a d) :
    Lawful s (s.startTransfer t a d) := by
  unfold State.startTransfer
  dsimp only
  split
  · exact lawful_begin h
  · rename_i e he
    exact (lawful_begin h).trans (lawful_finish (transferEnds_mem he))

end Sys2Proof.Machine
end

section
/-! PROOF of the invariants, seventh part: the diverters, the stroke engine, and the entries into and out of HALT. -/

namespace Sys2Proof.Machine

/-! ### The diverters -/

theorem presentIn_none {s : State} {g : Stage} (h : s.presentIn g = none) (t : Nat) : ¬ s.IsAt t g .present := by
  rintro ⟨r, hr, hg, hp⟩
  have hno : ∀ o ∈ s.table.records, (o.any fun r => r.stage == g && r.place == .present) = false := by
    simpa [State.presentIn, firstNth, List.findIdx?_eq_none_iff] using h
  simpa [hg, hp] using hno _ (mem_of_traveler hr)

/-- A vacant place of the cell is a VACANT cell (R15, R77). -/
theorem Placed.vacant_cell {s : State} (hp : Placed s) (h : s.vacant .cell = true) : s.engine.cell = .vacant := by
  obtain ⟨hnone, hnamed⟩ : s.presentIn .spray = none ∧ s.named .cell = false := by
    simpa [State.vacant, Place.stage] using h
  have hentry : ∀ e ∈ s.table.transfers, e.source ≠ .cell ∧ e.dest ≠ .cell := by
    simpa [State.named] using hnamed
  by_contra hcell
  cases hb : s.engine.board with
  | none =>
    have hc := hp.cell
    unfold State.CellOk at hc
    rw [hb] at hc
    cases hs : s.engine.cell <;> rw [hs] at hc hcell
    case vacant => exact hcell rfl
    all_goals exact hc
  | some t =>
    rcases cellBoard_cases hp.cell hb with h | ⟨e, he, -, ⟨-, hd⟩ | ⟨-, hd⟩⟩
    · exact presentIn_none hnone t h
    · exact (hentry e he).2 hd
    · exact (hentry e he).1 ((hp.entries e he).2.2 hd).1

theorem awaiting_isAt {s : State} {x : Station} {t : Nat} {r : Traveler} (h : s.awaiting x = some (t, r)) :
    s.IsAt t (match x with | .pre => .preInspect | .post => .postInspect) .present := by
  cases x
  all_goals
    simp only [State.awaiting] at h
    split at h
    · cases h
    split at h
    · cases h
    rename_i r' hr
    split at h
    · rename_i hc
      cases h
      simp only [Place.stage, Bool.and_eq_true, beq_iff_eq] at hc
      exact ⟨r, hr, hc.1.1.2, hc.1.2⟩
    · cases h

theorem preDecision_starts {s : State} {t : Nat} {p : Place} (h : s.preDecision = some (t, p)) (hp : Placed s) :
    Starts s t .preStation p := by
  unfold State.preDecision at h
  split at h
  · split at h
    · cases h
    rename_i n r haw
    have hat := awaiting_isAt haw
    split at h
    · split at h
      · obtain ⟨k, -, hk⟩ := Option.map_eq_some_iff.1 h
        cases hk
        exact ⟨hat, nofun, nofun, nofun, nofun⟩
      · cases h
    · split at h
      · rename_i hv
        cases h
        exact ⟨hat, nofun, fun _ => hp.vacant_cell hv, nofun, nofun⟩
      · cases h
  · cases h

theorem exitDecision_starts {s : State} {t : Nat} {p : Place} (h : s.exitDecision = some (t, p)) :
    Starts s t .postStation p := by
  unfold State.exitDecision at h
  split at h
  · cases h
  split at h
  · cases h
  rename_i n r haw
  have hat := awaiting_isAt haw
  split at h
  · obtain ⟨k, -, hk⟩ := Option.map_eq_some_iff.1 h
    cases hk
    exact ⟨hat, nofun, nofun, nofun, nofun⟩
  · cases h
    exact ⟨hat, nofun, nofun, nofun, nofun⟩

theorem lawful_decidePre (s : State) : Lawful s s.decidePre := by
  unfold State.decidePre
  split
  · exact Lawful.refl s
  · rename_i t p h
    exact lawful_start (preDecision_starts h)

theorem lawful_decideExit (s : State) : Lawful s s.decideExit := by
  unfold State.decideExit
  split
  · exact Lawful.refl s
  · rename_i t p h
    exact lawful_start fun _ => exitDecision_starts h

theorem lawful_decideFor (s : State) (t : Nat) : Lawful s (s.decideFor t) := by
  unfold State.decideFor
  split
  · exact lawful_decidePre s
  · exact lawful_decideExit s
  · exact Lawful.refl s

theorem lawful_decideBoth (s : State) : Lawful s s.decideBoth := (lawful_decideExit s).trans (lawful_decidePre _)

theorem lawful_decideAt (s : State) (x : Station) : Lawful s (s.decideAt x) := by
  cases x
  · exact lawful_decidePre s
  · exact lawful_decideExit s

theorem lawful_handArrival (s : State) (d : Place) : Lawful s (s.handArrival d) := by
  unfold State.handArrival
  split
  · exact lawful_decidePre s
  · exact lawful_decidePre s
  · exact Lawful.refl s

theorem queueReady_starts {s : State} {t : Nat} (h : s.queueReady = some t) (hp : Placed s) :
    Starts s t .queue .preStation :=
  ⟨hp.queue t (queueReady_mem h), nofun, nofun, nofun, nofun⟩

theorem flashReady_starts {s : State} {t : Nat} (h : s.flashReady = some t) : Starts s t .cell .flashBelt := by
  unfold State.flashReady at h
  split at h
  · rename_i n hcell hboard
    split at h
    · rename_i hc
      cases h
      obtain ⟨r, hr, hat⟩ := (Option.any_eq_true ..).1 hc.1
      obtain ⟨hstage, hplace⟩ : r.stage = .spray ∧ r.place = .present := by simpa using hat
      exact ⟨⟨r, hr, hstage, hplace⟩, nofun, nofun, fun _ => ⟨rfl, hcell, hboard⟩, fun hd => absurd rfl hd⟩
    · cases h
  · cases h

theorem exitReady_starts {s : State} {t : Nat} (h : s.exitReady = some t) (hp : Placed s) :
    Starts s t .accumulator .postStation := by
  unfold State.exitReady at h
  split at h
  · cases h
  · rename_i n rest hx
    split at h
    · cases h
      exact ⟨hp.exit t (by rw [hx]; exact List.mem_cons_self), nofun, nofun, nofun, nofun⟩
    · cases h

/-! ### The stroke engine -/

/-- The cell in work: a stretch may send it to PARKING. -/
def CellState.atWork : CellState → Prop
  | .ready | .running | .parking | .aborted => True
  | .vacant | .loading | .done => False

theorem cellOk_present {s : State} {t : Nat} (hb : s.engine.board = some t) (hat : s.IsAt t .spray .present)
    (hc : s.engine.cell ≠ .vacant) (hl : s.engine.cell ≠ .loading) : s.CellOk := by
  unfold State.CellOk
  rw [hb]
  cases hs : s.engine.cell <;> rw [hs] at hc hl
  case vacant => exact absurd rfl hc
  case loading => exact absurd rfl hl
  case done => exact .inl hat
  all_goals exact hat

/-- The board of a cell in work is PRESENT in SPRAY, and no entry goes to the cell or to the flash belt (R77, R94). -/
theorem Placed.atWork {s : State} (hp : Placed s) (h : s.engine.cell.atWork) :
    (∃ t, s.engine.board = some t ∧ s.IsAt t .spray .present) ∧
      ∀ e ∈ s.table.transfers, e.dest ≠ .cell ∧ e.dest ≠ .flashBelt := by
  have hc := hp.cell
  refine ⟨?_, fun e he => ⟨fun hd => ?_, fun hd => ?_⟩⟩
  · unfold State.CellOk at hc
    cases hb : s.engine.board <;> cases hs : s.engine.cell <;> simp_all [CellState.atWork]
  · rw [((hp.entries e he).2.1 hd).1] at h
    exact h
  · rw [((hp.entries e he).2.2 hd).2.1] at h
    exact h

/-- A cell in work that goes on to another state but keeps its board leaves the places as they are. -/
theorem Still.placed_atWork {s u : State} (h : Still s u) (hp : Placed s) (hw : s.engine.cell.atWork)
    (hboard : u.engine.board = s.engine.board) (hv : u.engine.cell ≠ .vacant) (hl : u.engine.cell ≠ .loading) :
    Placed u := by
  obtain ⟨⟨t, hb, hat⟩, hentries⟩ := hp.atWork hw
  refine h.placed hp (fun e he hok => ?_) ?_
  · obtain ⟨hcell, hflash⟩ := hentries e he
    exact ⟨(h.isAt _ _ _).2 hok.1, fun hd => absurd hd hcell, fun hd => absurd hd hflash⟩
  · exact cellOk_present (hboard.trans hb) ((h.isAt _ _ _).2 hat) hv hl

theorem Works.placesOk {s u : State} (h : Works s u) (hw : u.engine.cell ≠ s.engine.cell → s.engine.cell.atWork)
    (hp : s.PlacesOk) : u.PlacesOk := by
  by_cases hc : u.engine.cell = s.engine.cell
  · exact h.toStill.placesOk hc h.board hp
  · have hpark : u.engine.cell = .parking := h.cell.resolve_left hc
    exact placesOk_iff.2 (h.toStill.placed_atWork (placesOk_iff.1 hp) (hw hc) h.board (by rw [hpark]; nofun)
      (by rw [hpark]; nofun))

theorem Works.valve_none {s u : State} (h : Works s u) (hn : s.engine.valve = none) : u.engine.valve = none :=
  h.valve.elim (fun hv => hv.trans hn) id

/-- With the valve shut, only the mode of a RUNNING cell counts, and work runs no cell. -/
theorem Works.valveOk {s u : State} (h : Works s u) (hn : u.engine.valve = none) (hv : s.ValveOk) : u.ValveOk := by
  refine valveOk_shut (fun hr => ?_) hn
  rw [mode_of_recordsOnly h.lists]
  rcases h.cell with hc | hc
  · exact hv.1 (hc ▸ hr)
  · rw [hc] at hr
    cases hr

theorem Works.lawful {s u : State} (h : Works s u) (hw : u.engine.cell ≠ s.engine.cell → s.engine.cell.atWork)
    (hn : s.ValveOk → u.engine.valve = none) : Lawful s u where
  index := h.index
  holds := h.holds
  range := h.range
  places := fun _ => h.placesOk hw
  valve := fun _ _ hv => h.valveOk (hn hv) hv

end Sys2Proof.Machine
end

section
/-! PROOF of the invariants, eighth part: the stroke engine's events. -/

namespace Sys2Proof.Machine

/-! ### Stretches that keep the cell and its board -/

/-- A still stretch that leaves the cell, its board, the valve and the port. -/
theorem Still.lawful {s u : State} (h : Still s u) (hcell : u.engine.cell = s.engine.cell)
    (hboard : u.engine.board = s.engine.board) (hvalve : u.engine.valve = s.engine.valve)
    (hport : u.engine.port = s.engine.port) : Lawful s u where
  index := h.index
  holds := h.holds
  range := h.range
  places := fun _ => h.placesOk hcell hboard
  valve := fun _ _ => valveOk_congr (mode_of_recordsOnly h.lists) h.estop hcell hvalve hport

/-- A still stretch that leaves the cell and its board, with the valve shut at its end. -/
theorem Still.lawful_shut {s u : State} (h : Still s u) (hcell : u.engine.cell = s.engine.cell)
    (hboard : u.engine.board = s.engine.board) (hvalve : s.ValveOk → u.engine.valve = none) : Lawful s u where
  index := h.index
  holds := h.holds
  range := h.range
  places := fun _ => h.placesOk hcell hboard
  valve := fun _ _ hv => valveOk_shut (by rw [hcell, mode_of_recordsOnly h.lists]; exact hv.1) (hvalve hv)

/-- A still stretch of a cell in work that goes on with its valve shut. -/
theorem Still.lawful_atWork {s u : State} (h : Still s u) (hw : s.engine.cell.atWork)
    (hboard : u.engine.board = s.engine.board) (hv : u.engine.cell ≠ .vacant) (hl : u.engine.cell ≠ .loading)
    (hmode : s.ValveOk → u.engine.cell = .running → s.mode = .run ∨ s.mode = .drain)
    (hvalve : s.ValveOk → u.engine.valve = none) : Lawful s u where
  index := h.index
  holds := h.holds
  range := h.range
  places := fun _ hp => placesOk_iff.2 (h.placed_atWork (placesOk_iff.1 hp) hw hboard hv hl)
  valve := fun _ _ hok =>
    valveOk_shut (by rw [mode_of_recordsOnly h.lists]; exact hmode hok) (hvalve hok)

/-- A valve is shut while no PASS is outstanding (R88). -/
theorem valve_shut_of_port {s : State} (h : s.ValveOk)
    (hport : ∀ o h x y v, s.engine.port = .waiting o → o.message ≠ .pass h x y v) : s.engine.valve = none := by
  cases hv : s.engine.valve with
  | none => rfl
  | some v =>
    obtain ⟨-, -, o, x, y, speed, hp, hm⟩ := h.2 v hv
    exact absurd hm (hport o _ x y speed hp)

theorem valve_shut_of_message {s : State} {o : Outstanding} (hport : s.engine.port = .waiting o)
    (hm : ∀ h x y v, o.message ≠ .pass h x y v) (h : s.ValveOk) : s.engine.valve = none :=
  valve_shut_of_port h fun o' h' x y v hp => by
    rw [hport] at hp
    cases hp
    exact hm h' x y v

/-- A valve is shut while the cell is not RUNNING (R88). -/
theorem valve_shut_of_cell {s : State} (hc : s.engine.cell ≠ .running) (h : s.ValveOk) : s.engine.valve = none := by
  cases hv : s.engine.valve with
  | none => rfl
  | some v => exact absurd (h.2 v hv).1 hc

theorem closeValve_shut (s : State) : s.closeValve.engine.valve = none := by rw [closeValve_engine]

theorem closeValve_cell (s : State) : s.closeValve.engine.cell = s.engine.cell := by rw [closeValve_engine]

theorem lawful_closeValve (s : State) : Lawful s s.closeValve :=
  (works_closeValve s).lawful (fun h => absurd (closeValve_cell s) h) fun _ => closeValve_shut s

/-! ### The port's answers -/

theorem still_quiet (s : State) (p : Option Point) : Still s (s.quiet p) := still_onEngine s _

theorem still_parked (s : State) : Still s s.parked := by
  unfold State.parked
  split
  · refine (still_onEngine s _).trans (Rests.toStill (rests_onTraveler _ _ (fun r => ?_) fun r => ?_))
    · split <;> rfl
    · split <;> rfl
  · exact Still.refl s

theorem parked_engine (s : State) : s.parked.engine = s.engine ∨
    s.engine.cell = .parking ∧ s.parked.engine = { s.engine with cell := .done } := by
  unfold State.parked
  split
  · rename_i hc _
    exact .inr ⟨hc, by simp⟩
  · exact .inl rfl

/-- The gantry parked: a PARKING cell becomes DONE (R93). -/
theorem lawful_parked {s v u : State} (hv : Still s v) (hcell : v.engine.cell = s.engine.cell)
    (hboard : v.engine.board = s.engine.board) (hshut : s.ValveOk → v.engine.valve = none)
    (hu : Still v.parked u) (hengine : u.engine = v.parked.engine) : Lawful s u := by
  have h : Still s u := (hv.trans (still_parked v)).trans hu
  rcases parked_engine v with he | ⟨hc, he⟩
  · rw [he] at hengine
    exact h.lawful_shut (by rw [hengine, hcell]) (by rw [hengine, hboard]) fun hs => by rw [hengine]; exact hshut hs
  · rw [he] at hengine
    refine h.lawful_atWork (by rw [← hcell, hc]; trivial) (by rw [hengine]; exact hboard) (by rw [hengine]; nofun)
      (by rw [hengine]; nofun) (fun _ hr => ?_) fun hs => by rw [hengine]; exact hshut hs
    rw [hengine] at hr
    cases hr

/-- A stretch of work from a RUNNING cell, or with the cell as it was, the valve shut. -/
theorem Works.lawful_from {s v u : State} (h : Works v u) (hv : Still s v) (hcell : v.engine.cell = s.engine.cell)
    (hboard : v.engine.board = s.engine.board) (hw : u.engine.cell ≠ v.engine.cell → v.engine.cell.atWork)
    (hshut : s.ValveOk → u.engine.valve = none) : Lawful s u := by
  by_cases hc : u.engine.cell = v.engine.cell
  · exact (hv.trans h.toStill).lawful_shut (hc.trans hcell) (h.board.trans hboard) hshut
  · have hpark := h.cell.resolve_left hc
    refine (hv.trans h.toStill).lawful_atWork (hcell ▸ hw hc) (h.board.trans hboard) (by rw [hpark]; nofun)
      (by rw [hpark]; nofun) (fun _ hr => ?_) hshut
    rw [hpark] at hr
    cases hr

theorem parkAgain_cell (s : State) (h : s.parkAgain.engine.cell ≠ s.engine.cell) : s.engine.cell.atWork := by
  unfold State.parkAgain at h
  split at h
  · rename_i hc
    rcases hc.2.2 with he | he <;> rw [he] <;> trivial
  · exact absurd rfl h

theorem alongPass_dry (s : State) (w : StrokeWork) (p : Point × Point) (h : w.results = none) :
    Works s (s.alongPass w p) := by
  unfold State.alongPass
  simp only [h]
  exact (works_onEngine s _ rfl (.inl rfl) (.inl rfl)).trans (works_sendMove _ _ _ _)

/-- ARRIVED to a MOVE of a program (R80, R87): the pass goes on, its valve opened with the PASS outstanding. -/
theorem lawful_arrived {s : State} {o : Outstanding} {h : Nat} {p : Point} {v : Nat}
    (hport : s.engine.port = .waiting o) (hm : o.message = .move h p v) :
    Lawful s (s.quiet o.target).arrivedInProgram := by
  have hshut : s.ValveOk → s.engine.valve = none := valve_shut_of_message hport (by rw [hm]; nofun)
  have hquiet := still_quiet s o.target
  let q := s.quiet o.target
  have stays : Lawful s q := hquiet.lawful_shut rfl rfl hshut
  unfold State.arrivedInProgram
  split
  · rename_i t w hcell hboard hwork
    have hrun : s.engine.cell = .running := hcell
    split
    · have hw := works_endPass q t w
      exact hw.lawful_from hquiet rfl rfl (fun _ => by rw [hcell]; trivial) fun hs => hw.valve_none (hshut hs)
    · split
      · exact stays
      · rename_i x _
        cases hres : w.results with
        | none =>
          have hw := alongPass_dry q w x hres
          exact hw.lawful_from hquiet rfl rfl (fun _ => by rw [hcell]; trivial) fun hs => hw.valve_none (hshut hs)
        | some d =>
          have heq : q.alongPass w x = ((q.onEngine fun e => { e with work := some { w with phase := .along } }).send
              (.pass w.head x.2.x x.2.y d.speed) (some x.2) d.duration).openValve w.head d := by
            unfold State.alongPass
            simp only [hres]
          have hsent : Still s ((q.onEngine fun e => { e with work := some { w with phase := .along } }).send
              (.pass w.head x.2.x x.2.y d.speed) (some x.2) d.duration) :=
            (hquiet.trans (still_onEngine q _)).trans (Works.toStill (works_send _ _ _ _))
          show Lawful s (q.alongPass w x)
          rw [heq]
          unfold State.openValve
          split
          · exact hsent.lawful_shut rfl rfl hshut
          · rename_i hestop
            refine
              { index := hsent.index, holds := hsent.holds, range := hsent.range,
                places := fun _ => (hsent.trans (still_onEngine _ _)).placesOk rfl rfl
                valve := fun _ _ hs => ⟨fun _ => hs.1 hrun, fun y hy => ?_⟩ }
            cases hy
            exact ⟨hrun, by simpa using hestop, _, _, _, _, rfl, rfl⟩
  · exact stays

/-- PASS_DONE (R87): the valve is shut and the pass over. -/
theorem lawful_passDone {s : State} {o : Outstanding} {t : Nat} {w : StrokeWork} (hcell : s.engine.cell = .running) :
    Lawful s ((s.quiet o.target).closeValve.endPass t w) := by
  have hclose := works_closeValve (s.quiet o.target)
  have hpass := works_endPass (s.quiet o.target).closeValve t w
  refine (hclose.trans hpass).lawful_from (still_quiet s _) rfl rfl (fun _ => ?_) fun _ =>
    hpass.valve_none (closeValve_shut _)
  have : (s.quiet o.target).engine.cell = .running := hcell
  rw [this]
  trivial

theorem lawful_parkAgain {s v : State} (hv : Still s v) (hcell : v.engine.cell = s.engine.cell)
    (hboard : v.engine.board = s.engine.board) (hshut : s.ValveOk → v.engine.valve = none) : Lawful s v.parkAgain :=
  (works_parkAgain v).lawful_from hv hcell hboard (parkAgain_cell v) fun hs => (works_parkAgain v).valve_none (hshut hs)

/-- FAULT in a program (R92): the valve shut and the program over. -/
theorem lawful_faultInProgram {s v : State} (code : Nat) (hv : Still s v) (hcell : v.engine.cell = s.engine.cell)
    (hboard : v.engine.board = s.engine.board) (hvalve : v.engine.valve = s.engine.valve) :
    Lawful s (v.faultInProgram code) := by
  have hw := works_faultInProgram v code
  by_cases hrun : v.engine.cell = .running
  · cases hb : v.engine.board with
    | none =>
      have hsame : v.faultInProgram code = v := by
        unfold State.faultInProgram
        simp only [hrun, hb]
      rw [hsame]
      refine
        { index := hv.index, holds := hv.holds, range := hv.range, places := fun _ => hv.placesOk hcell hboard
          valve := fun _ hp _ => ?_ }
      obtain ⟨t, ht, -⟩ := cellBoard_running (placesOk_iff.1 hp).cell (hcell ▸ hrun)
      rw [← hboard, hb] at ht
      cases ht
    | some t =>
      refine hw.lawful_from hv hcell hboard (fun _ => by rw [hrun]; trivial) fun _ => ?_
      unfold State.faultInProgram
      simp only [hrun, hb]
      split
      · exact closeValve_shut v
      · exact ((rests_recordFault _ _ _ _ _).works.trans (works_endProgram _ _)).valve_none (closeValve_shut v)
  · have hsame : v.faultInProgram code = v := by
      unfold State.faultInProgram
      split
      · exact absurd ‹_› hrun
      · rfl
    rw [hsame]
    exact hv.lawful_shut hcell hboard fun hs => by rw [hvalve]; exact valve_shut_of_cell (hcell ▸ hrun) hs

/-! ### The start of a program (R78) -/

theorem programReady_spec {s : State} {t : Nat} (h : s.programReady = some t) :
    s.engine.cell = .ready ∧ (s.mode = .run ∨ s.mode = .drain) ∧ s.engine.board = some t := by
  unfold State.programReady at h
  split at h
  · rename_i hc
    exact ⟨hc.1, hc.2.1, h⟩
  · cases h

theorem lawful_startProgram {s : State} {t : Nat} (h : s.programReady = some t) : Lawful s (s.startProgram t) := by
  obtain ⟨hready, hmode, -⟩ := programReady_spec h
  have hshut : s.ValveOk → s.engine.valve = none := valve_shut_of_cell (by rw [hready]; nofun)
  have hwork : s.engine.cell.atWork := by rw [hready]; trivial
  unfold State.startProgram
  split
  · exact Lawful.refl s
  rename_i r hr
  split
  · have hstill : Still s (s.setTraveler t { r with sprayEnd := some s.now }) :=
      Rests.toStill (rests_setTraveler hr rfl id)
    exact (hstill.trans (still_onEngine _ _)).lawful_atWork hwork rfl nofun nofun (fun _ => nofun) hshut
  · dsimp only
    let r' : Traveler := { r with
      program := .running, strokeCursor := 0, passCursor := 0,
      coat := { run := 0, skipped := 0, faults := 0, first := none }, sprayEnd := none }
    let v := (s.setTraveler t r').onEngine fun e => { e with cell := .running, work := none, lastClose := none }
    have hclear : Rests s (s.setTraveler t r') := rests_setTraveler hr rfl id
    have hv : Still s v := hclear.toStill.trans (still_onEngine _ _)
    have hw := works_takeUp t ((programRange r (s.recipeOf r).strokes.length).2 + 1 -
      (programRange r (s.recipeOf r).strokes.length).1) (programRange r (s.recipeOf r).strokes.length).1 v
    have hcell : (State.takeUp t _ _ v).engine.cell = .running ∨ (State.takeUp t _ _ v).engine.cell = .parking := hw.cell
    refine (hv.trans hw.toStill).lawful_atWork hwork hw.board ?_ ?_ (fun _ _ => hmode) fun hs => hw.valve_none (hshut hs)
    · rcases hcell with h | h <;> rw [h] <;> nofun
    · rcases hcell with h | h <;> rw [h] <;> nofun

end Sys2Proof.Machine
end

section
/-! PROOF of the invariants, ninth part: the line's modes, induction, the oven, and every step. -/

namespace Sys2Proof.Machine

/-! ### The line's modes -/

/-- A change of mode in which no RUNNING cell is left out of RUN and DRAIN. -/
theorem lawful_setMode {s : State} {m : LineMode} (c : Option HaltCause) (d : Option HaltDetail)
    (h : Placed s → s.ValveOk → s.engine.cell = .running → m = .run ∨ m = .drain) : Lawful s (s.setMode m c d) where
  index := id
  holds := id
  range := id
  places := fun _ => id
  valve := fun _ hp hv => ⟨h (placesOk_iff.1 hp) hv, hv.2⟩

theorem lawful_run (s : State) : Lawful s s.run :=
  (lawful_setMode none none fun _ _ _ => .inl rfl).trans (lawful_decidePre _)

theorem lawful_drainDone (s : State) : Lawful s s.drainDone := by
  unfold State.drainDone
  split
  · rename_i h
    refine lawful_setMode none none fun hp _ hr => ?_
    obtain ⟨t, -, r, hr, hstage, -⟩ := cellBoard_running hp.cell hr
    have hempty : s.anyTraveler pastQueue = false := by simpa [State.lineEmpty] using h.2
    have : s.anyTraveler pastQueue = true := anyTraveler_iff.2 ⟨t, r, hr, by simp [pastQueue, hstage]⟩
    rw [hempty] at this
    cases this
  · exact Lawful.refl s

/-! ### The entry into HALT (R10, R95) -/

theorem lawful_haltTransfers (s : State) : Lawful s s.haltTransfers where
  index := id
  holds := id
  range := id
  valve := fun _ _ => id
  places := fun _ hp => by
    have h := placesOk_iff.1 hp
    have htransfers : s.haltTransfers.table.transfers = s.table.transfers.map fun e => { e with deadline := none } := rfl
    have hmem {p : Transfer → Prop} (hp : ∀ e : Transfer, p e → p { e with deadline := none }) :
        (∃ e ∈ s.table.transfers, p e) → ∃ e ∈ s.haltTransfers.table.transfers, p e := fun ⟨e, he, hpe⟩ =>
      ⟨_, htransfers ▸ List.mem_map_of_mem he, hp e hpe⟩
    refine placesOk_iff.2 ⟨h.queue, h.flash, h.oven, h.exit, fun e he => ?_, ?_, ?_⟩
    · rw [htransfers] at he
      obtain ⟨x, hx, rfl⟩ := List.mem_map.1 he
      exact h.entries x hx
    · rw [htransfers, List.map_map]
      exact h.once
    · have hc := h.cell
      unfold State.CellOk at hc ⊢
      show match s.engine.cell, s.engine.board with
        | .vacant, b => b = none
        | .loading, some t => ∃ e ∈ s.haltTransfers.table.transfers, e.traveler = t ∧ e.dest = .cell
        | .done, some t => s.IsAt t .spray .present ∨
          ∃ e ∈ s.haltTransfers.table.transfers, e.traveler = t ∧ e.source = .cell ∧ e.dest = .flashBelt
        | _, some t => s.IsAt t .spray .present
        | _, none => False
      cases hb : s.engine.board <;> cases hs : s.engine.cell <;> rw [hb, hs] at hc
      case some.loading => exact hmem (fun _ h => h) hc
      case some.done => exact hc.imp_right (hmem fun _ h => h)
      all_goals exact hc

theorem rests_abort (s : State) (t : Nat) :
    Rests s (s.onTraveler t fun r => { r with program := .aborted, sprayEnd := some s.now }) :=
  rests_onTraveler s t (fun _ => rfl) fun _ => rfl

theorem still_haltEngine (s : State) : Still s s.haltEngine := by
  unfold State.haltEngine
  split
  · have hstop := ((works_closeValve s).trans (works_stopMotion _)).toStill
    refine (hstop.trans (Rests.toStill ?_)).trans (still_onEngine _ _)
    exact (rests_abort _ _).trans (rests_raiseInterrupted _ _)
  · exact (works_stopMotion s).toStill
  · exact Still.refl s

theorem stopMotion_cell (s : State) : s.stopMotion.engine.cell = s.engine.cell := by
  unfold State.stopMotion
  split
  · split <;> rfl
  all_goals rfl

theorem raiseInterrupted_engine (s : State) (t : Nat) : (s.raiseInterrupted t).engine = s.engine :=
  (rests_raiseInterrupted s t).engine

/-- The cell's board stands through the entry into HALT, and the cell but for a RUNNING one, which is ABORTED with its
valve shut (R95). -/
theorem haltEngine_cell (s : State) : s.haltEngine.engine.board = s.engine.board ∧
    (s.engine.cell ≠ .running ∧ s.haltEngine.engine.cell = s.engine.cell ∧
        s.haltEngine.engine.valve = s.engine.valve ∨
      s.engine.cell = .running ∧ s.engine.board = none ∨
      s.engine.cell = .running ∧ s.haltEngine.engine.cell = .aborted ∧ s.haltEngine.engine.valve = none) := by
  have hstop := works_stopMotion s
  unfold State.haltEngine
  split
  · rename_i t hc hb
    have hwork := (works_closeValve s).trans (works_stopMotion s.closeValve)
    refine ⟨?_, .inr (.inr ⟨hc, rfl, ?_⟩)⟩
    · simp only [onEngine_engine, raiseInterrupted_engine, onTraveler_engine]
      exact hwork.board
    · simp only [onEngine_engine, raiseInterrupted_engine, onTraveler_engine]
      exact (works_stopMotion _).valve_none (closeValve_shut s)
  · rename_i hc
    refine ⟨hstop.board, .inl ⟨by rw [hc]; nofun, stopMotion_cell s, ?_⟩⟩
    unfold State.stopMotion
    split
    · split <;> rfl
    all_goals rfl
  · rename_i hno
    refine ⟨rfl, ?_⟩
    by_cases hc : s.engine.cell = .running
    · cases hb : s.engine.board with
      | none => exact .inr (.inl ⟨hc, rfl⟩)
      | some t => exact absurd hb (hno t hc)
    · exact .inl ⟨hc, rfl, rfl⟩

theorem lawful_haltEngine {s v : State} (hengine : v.engine = s.engine) (hindex : s.IndexOk → v.IndexOk)
    (hholds : s.HoldsOk → v.HoldsOk) (hrange : s.RangeOk → v.RangeOk) (hplaces : s.PlacesOk → v.PlacesOk) :
    Lawful s v.haltEngine := by
  have hstill := still_haltEngine v
  obtain ⟨hboard, hcell⟩ := haltEngine_cell v
  have hnone (hp : s.PlacesOk) : ¬ (v.engine.cell = .running ∧ v.engine.board = none) := by
    rintro ⟨hc, hb⟩
    obtain ⟨t, ht, -⟩ := cellBoard_running (placesOk_iff.1 hp).cell (hengine ▸ hc)
    rw [← hengine, hb] at ht
    cases ht
  refine
    { index := hstill.index ∘ hindex, holds := hstill.holds ∘ hholds, range := hstill.range ∘ hrange
      places := fun _ hp => ?_, valve := fun _ hp hv => ?_ }
  · rcases hcell with ⟨-, hc, -⟩ | hn | ⟨hr, hc, -⟩
    · exact hstill.placesOk hc hboard (hplaces hp)
    · exact absurd hn (hnone hp)
    · exact placesOk_iff.2 (hstill.placed_atWork (placesOk_iff.1 (hplaces hp)) (by rw [hr]; trivial) hboard
        (by rw [hc]; nofun) (by rw [hc]; nofun))
  · rcases hcell with ⟨hr, hc, hs⟩ | hn | ⟨-, hc, hs⟩
    · exact valveOk_shut (fun h => absurd (hc ▸ h) hr) (by rw [hs, hengine]; exact valve_shut_of_cell (hengine ▸ hr) hv)
    · exact absurd hn (hnone hp)
    · exact valveOk_shut (by rw [hc]; nofun) hs

theorem lawful_enterHalt (s : State) (c : HaltCause) (d : Option HaltDetail) : Lawful s (s.enterHalt c d) := by
  unfold State.enterHalt
  split
  · exact Lawful.refl s
  · refine Lawful.trans ?_ (lawful_haltTransfers _)
    exact (lawful_haltEngine (s := s) (v := (s.setMode .halt (some c) d).post (.halted c d)) rfl id id id id).trans
      (rests_driveOutput _).lawful

/-! ### Recover (R12, R13) -/

/-- The part of the laws that holds without the places. -/
structure Kept (s u : State) : Prop where
  index : s.IndexOk → u.IndexOk
  holds : s.HoldsOk → u.HoldsOk
  range : s.RangeOk → u.RangeOk
  mode  : u.mode = s.mode

theorem Kept.trans {s t u : State} (h : Kept s t) (k : Kept t u) : Kept s u :=
  ⟨k.index ∘ h.index, k.holds ∘ h.holds, k.range ∘ h.range, k.mode.trans h.mode⟩

theorem moves_giveBack (s : State) (e : Transfer) : Moves e.traveler s (s.giveBack e) := by
  unfold State.giveBack
  split
  · exact (rests_freeSlot s _).moves _
  · exact moves_onEngine s _ _ rfl rfl
  · exact (rests_onCure s (fun c => { c with overdue := c.overdue.filter (· != e.traveler) }) rfl).moves _
  · exact Moves.refl _ s

theorem moves_rejoin (s : State) (e : Transfer) : Moves e.traveler s (s.rejoin e) := by
  unfold State.rejoin
  split
  · exact { Moves.refl e.traveler s with
      queue := fun n hn h => by
        have h' : n ∈ e.traveler :: s.table.queue := h
        simpa [hn] using h' }
  · exact { Moves.refl e.traveler s with
      exit := fun n hn h => by
        have h' : n ∈ e.traveler :: s.cure.exit := h
        simpa [hn] using h' }
  · exact Moves.refl _ s

theorem moves_returnBoard (s : State) (e : Transfer) : Moves e.traveler s (s.returnBoard e) := by
  rw [returnBoard_eq]
  exact ((moves_giveBack s e).trans (moves_rejoin _ e)).trans (moves_moveStage _ _ _ _)

theorem returnBoard_fields (s : State) (e : Transfer) :
    (s.returnBoard e).table.transfers = s.table.transfers ∧
      (s.returnBoard e).table.queue = (if e.source = .queue then e.traveler :: s.table.queue else s.table.queue) ∧
      (s.returnBoard e).cure.flash = s.cure.flash ∧ (s.returnBoard e).cure.belt = s.cure.belt ∧
      (s.returnBoard e).cure.exit = (if e.source = .accumulator then e.traveler :: s.cure.exit else s.cure.exit) ∧
      (s.returnBoard e).engine = (if e.dest = .cell then s.engine.vacate else s.engine) := by
  have hgive := recordsOnly_fields (recordsOnly_giveBack s e)
  have hmove := recordsOnly_fields (recordsOnly_moveStage ((s.giveBack e).rejoin e) e.traveler e.source.stage .present)
  have hcure : (s.giveBack e).cure.lists = s.cure.lists := by
    unfold State.giveBack
    split
    · exact (rests_freeSlot s _).cure
    all_goals rfl
  have hengine : (s.giveBack e).engine = (if e.dest = .cell then s.engine.vacate else s.engine) := by
    unfold State.giveBack
    split <;> simp_all [State.freeSlot]
  have hrejoin : ∀ y : State, (y.rejoin e).table.transfers = y.table.transfers ∧
      (y.rejoin e).table.queue = (if e.source = .queue then e.traveler :: y.table.queue else y.table.queue) ∧
      (y.rejoin e).cure.flash = y.cure.flash ∧ (y.rejoin e).cure.belt = y.cure.belt ∧
      (y.rejoin e).cure.exit = (if e.source = .accumulator then e.traveler :: y.cure.exit else y.cure.exit) ∧
      (y.rejoin e).engine = y.engine := fun y => by
    unfold State.rejoin
    split <;> simp_all [CureMonitor.belt]
  obtain ⟨h1, h2, h3, h4, h5, h6⟩ := hrejoin (s.giveBack e)
  simp only [CureMonitor.lists, Prod.mk.injEq] at hcure
  rw [returnBoard_eq, hmove.1, hmove.2.1, moveStage_cure, moveStage_engine, h1, h2, h3, h4, h5, h6, hgive.1, hgive.2.1,
    hengine]
  simp [CureMonitor.belt, hcure]

theorem lands_returnBoard {s v : State} {e : Transfer} (hp : Placed s) (he : e ∈ s.table.transfers) (hv : Leaves s v e) :
    Lands e.traveler s (v.returnBoard e) := by
  obtain ⟨hat, hcell, hflash⟩ := hp.entries e he
  obtain ⟨r, hr, -⟩ : v.IsAt e.traveler e.dest.stage .arriving := by
    unfold State.IsAt State.traveler
    rw [hv.records]
    exact hat
  obtain ⟨⟨r', hr', hstage, hplace, -⟩, -⟩ := returnBoard_live (e := e) hr
  have hpresent : (v.returnBoard e).IsAt e.traveler e.source.stage .present := ⟨r', hr', hstage, hplace⟩
  obtain ⟨hq, hf, ho, hx⟩ := hp.arriving_gone hat
  obtain ⟨htransfers, hqueue, hflash', hbelt, hexit, hengine⟩ := returnBoard_fields v e
  have hoven : (v.returnBoard e).cure.oven = s.cure.oven := by
    rw [← hv.lists]
    exact congrArg Prod.fst hbelt
  rw [hv.queue] at hqueue
  rw [hv.lists] at hflash' hexit
  rw [hv.rests] at hengine
  refine ⟨fun hm => ?_, fun hm => ?_, fun x hm ht => ?_, fun hm => ?_, fun x hm ht => ?_, ?_, ?_⟩
  · rw [hqueue] at hm
    split at hm
    · rename_i hs
      rw [hs] at hpresent
      exact hpresent
    · exact absurd hm hq
  · rw [hflash'] at hm
    exact absurd hm hf
  · rw [hoven] at hm
    exact absurd ht (ho x hm)
  · rw [hexit] at hm
    split at hm
    · rename_i hs
      rw [hs] at hpresent
      exact hpresent
    · exact absurd hm hx
  · rw [htransfers, hv.transfers] at hm
    simp [ht] at hm
  · rw [htransfers, hv.transfers]
    exact (List.filter_sublist.map _).nodup hp.once
  · by_cases hc : e.dest = .cell
    · obtain ⟨hload, hboard⟩ := hcell hc
      rw [if_pos hc] at hengine
      exact .inr (cell_of_vacate hboard (by rw [hload]; nofun) (by rw [hengine]; rfl) (by rw [hengine]; rfl))
    rw [if_neg hc] at hengine
    by_cases hbelt : e.dest = .flashBelt
    · obtain ⟨hs, hdone, hboard⟩ := hflash hbelt
      refine .inr ⟨fun b hb => by rw [hboard] at hb; cases hb; rfl, by rw [hdone]; nofun, by rw [hengine, hdone]; nofun, ?_⟩
      unfold State.CellOk
      rw [hengine, hdone, hboard]
      rw [hs] at hpresent
      exact .inl hpresent
    · refine .inl ⟨by rw [hengine], by rw [hengine], fun hb => ?_⟩
      rcases hp.board_arriving he hb with ⟨-, h⟩ | ⟨-, h⟩
      · exact hc h
      · exact hbelt h

theorem moves_resolve (s : State) (e : Transfer) : Moves e.traveler s (s.resolve e) := by
  refine (moves_removeTransfer s e.traveler).trans ?_
  unfold State.resolve
  dsimp only
  split
  · exact moves_settle _ e
  split
  · exact moves_returnBoard _ e
  · exact moves_retire _ _ _

theorem range_resolve (s : State) (e : Transfer) : s.RangeOk → (s.resolve e).RangeOk := by
  intro h
  have hremove : (s.removeTransfer e.traveler).RangeOk := h
  unfold State.resolve
  dsimp only
  split
  · exact range_settle _ e hremove
  split
  · exact rangeOk_congr (returnBoard_fields _ e).2.2.2.1 hremove
  · exact range_retire _ _ _ hremove

theorem lawful_resolve {s : State} {e : Transfer} (he : e ∈ s.table.transfers) : Lawful s (s.resolve e) := by
  refine (moves_resolve s e).lawful (range_resolve s e) fun _ hp => ?_
  have hv := leaves_removeTransfer s e
  unfold State.resolve
  dsimp only
  split
  · exact lands_settle hp he hv
  split
  · exact lands_returnBoard hp he hv
  · obtain ⟨r, hr, -⟩ := (hp.entries e he).1
    refine lands_retire _ (v := s.removeTransfer e.traveler) hr hv.rests ?_ fun hb => ?_
    · rw [hv.transfers]
      exact (List.filter_sublist.map _).nodup hp.once
    · rcases hp.board_arriving he hb with ⟨h, -⟩ | ⟨h, -⟩ <;> rw [h] <;> nofun

theorem kept_resolveAll (es : List Transfer) (s : State) : Kept s (es.foldl State.resolve s) := by
  induction es generalizing s with
  | nil => exact ⟨id, id, id, rfl⟩
  | cons e es ih =>
    have h := moves_resolve s e
    exact Kept.trans ⟨h.index, h.holds, range_resolve s e, h.mode⟩ (ih _)

/-- Entries of the list, one per board, resolved in turn (R13). -/
theorem lawful_resolveAll (es : List Transfer) {s : State} (hmem : ∀ e ∈ es, e ∈ s.table.transfers)
    (once : (es.map (·.traveler)).Nodup) : Lawful s (es.foldl State.resolve s) := by
  induction es generalizing s with
  | nil => exact Lawful.refl s
  | cons e es ih =>
    rw [List.map_cons, List.nodup_cons] at once
    refine (lawful_resolve (hmem e List.mem_cons_self)).trans (ih (fun x hx => ?_) once.2)
    have hne : x.traveler ≠ e.traveler := fun h => once.1 (List.mem_map.2 ⟨x, hx, h⟩)
    exact ((moves_resolve s e).entries x hne).2 (hmem x (List.mem_cons_of_mem _ hx))

theorem lawful_leaveHaltEngine (s : State) : Lawful s s.leaveHaltEngine := by
  unfold State.leaveHaltEngine
  split
  · rename_i hp
    have hw := works_sendStop s
    exact hw.lawful (fun h => absurd rfl h) fun hs =>
      hw.valve_none (valve_shut_of_port hs fun o _ _ _ _ ho => by rw [hp] at ho; cases ho)
  · by_cases hq : s.engine.port = .quiet
    · exact lawful_parkAgain (Still.refl s) rfl rfl fun hs =>
        valve_shut_of_port hs fun o _ _ _ _ ho => by rw [hq] at ho; cases ho
    · have : s.parkAgain = s := by simp [State.parkAgain, hq]
      rw [this]
      exact Lawful.refl s

theorem rests_inspectFound (s : State) (e : Transfer) : Rests s (s.inspectFound e) := by
  unfold State.inspectFound
  split
  · exact rests_inspectAt s _ _
  · exact Rests.refl s

theorem lawful_recoverLine {s : State} (hm : s.mode = .halt) : Lawful s s.recoverLine := by
  let v := s.table.transfers.foldl State.resolve s
  let w := s.table.transfers.foldl State.inspectFound (v.setMode .idle none none)
  have hu : s.recoverLine = w.driveOutput.examineStall.leaveHaltEngine.decideExit := rfl
  have hkept : Kept s v := kept_resolveAll _ s
  have hv : s.PlacesOk → Lawful s v := fun hp => lawful_resolveAll _ (fun _ h => h) (placesOk_iff.1 hp).once
  have hmode : Lawful v (v.setMode .idle none none) := lawful_setMode none none fun _ hok hr => by
    have := hok.1 hr
    rw [hkept.mode, hm] at this
    simp at this
  have hlast : Lawful v s.recoverLine := by
    rw [hu]
    refine hmode.trans (Lawful.trans ?_ (lawful_decideExit _))
    refine Lawful.trans ?_ (lawful_leaveHaltEngine _)
    exact (((rests_foldl rests_inspectFound _ _).trans (rests_driveOutput w)).trans (rests_examineStall _)).lawful
  exact
    { index := hlast.index ∘ hkept.index, holds := hlast.holds ∘ hkept.holds, range := hlast.range ∘ hkept.range
      places := fun hi hp => ((hv hp).trans hlast).places hi hp
      valve := fun hi hp => ((hv hp).trans hlast).valve hi hp }

end Sys2Proof.Machine
end

section
/-! PROOF of the invariants, tenth part: induction, re-entry and the oven; every effect and every event is lawful, and so
every step keeps range, index, hold sets, places and valve. -/

namespace Sys2Proof.Machine

/-! ### Induction (R4) -/

theorem inductBoard_traveler {s : State} {t : Nat} (rest : List Nat) (tag : Text) (slot : Nat) (x : RecipeSlot)
    (h1 : 1 ≤ t) (h2 : t ≤ s.table.records.length) (n : Nat) :
    (s.inductBoard t rest tag slot x).traveler n =
      if n = t then some (freshTraveler s.now s.io.straps.heads tag slot x) else s.traveler n := by
  show (nth (putNth s.table.records t _) n).join = _
  rw [nth_putNth]
  by_cases hn : n = t
  · simp [hn, h1, h2]
  · simp [hn, State.traveler]

/-- The head of the free list is a free record (R1). -/
theorem free_head {s : State} {t : Nat} {rest : List Nat} (hfree : s.table.free = t :: rest) (h : s.IndexOk) :
    1 ≤ t ∧ t ≤ s.table.records.length ∧ s.traveler t = none := by
  obtain ⟨hlen, -, hmem, -⟩ := h
  obtain ⟨h1, h2, h3⟩ := (hmem t).1 (by rw [hfree]; exact List.mem_cons_self)
  exact ⟨h1, hlen ▸ h2, h3⟩

/-- A tag that names no live traveler is not in the index (R2). -/
theorem tagged_none {s : State} {tag : Text} (h : s.tagged tag = none) (hi : s.IndexOk) :
    ∀ t, (tag, t) ∉ s.table.index := by
  obtain ⟨-, -, -, -, hpairs⟩ := hi
  intro t ht
  unfold State.tagged at h
  split at h
  · rename_i hf
    exact List.find?_eq_none.1 hf _ ht (by simp)
  · rename_i e hf
    obtain ⟨r, hr, -⟩ := (hpairs e.1 e.2).1 (List.mem_of_find?_eq_some hf)
    rw [hr] at h
    cases h

theorem indexOk_inductBoard {s : State} {t : Nat} {rest : List Nat} {tag : Text} (slot : Nat) (x : RecipeSlot)
    (hfree : s.table.free = t :: rest) (hnew : s.tagged tag = none) (h : s.IndexOk) :
    (s.inductBoard t rest tag slot x).IndexOk := by
  obtain ⟨h1, h2, hnone⟩ := free_head hfree h
  have htag := tagged_none hnew h
  have hat := inductBoard_traveler (s := s) rest tag slot x h1 h2
  obtain ⟨hlen, hnodup, hmem, hkeys, hpairs⟩ := h
  rw [hfree, List.nodup_cons] at hnodup
  refine ⟨(length_putNth _ _ _).trans hlen, hnodup.2, fun n => ?_, ?_, fun g n => ?_⟩
  · show n ∈ rest ↔ _
    have hn := hmem n
    rw [hfree, List.mem_cons] at hn
    rw [hat]
    by_cases he : n = t
    · subst he
      simp [hnodup.1]
    · simpa [he] using hn
  · show ((s.table.index ++ [(tag, t)]).map Prod.fst).Nodup
    rw [List.map_append]
    refine List.nodup_append.2 ⟨hkeys, by simp, ?_⟩
    rintro g hg m hm rfl
    obtain ⟨⟨g', n⟩, hp, rfl⟩ := List.mem_map.1 hg
    rw [List.map_cons, List.map_nil, List.mem_singleton] at hm
    cases hm
    exact htag n hp
  · show (g, n) ∈ s.table.index ++ [(tag, t)] ↔ _
    rw [List.mem_append, List.mem_singleton, hpairs, hat, Prod.mk.injEq]
    by_cases he : n = t
    · subst he
      simp [hnone, freshTraveler, eq_comm]
    · simp [he]

theorem lawful_inductBoard {s : State} {t : Nat} {rest : List Nat} {tag : Text} (slot : Nat) (x : RecipeSlot)
    (hfree : s.table.free = t :: rest) (hnew : s.tagged tag = none) : Lawful s (s.inductBoard t rest tag slot x) := by
  let u := s.inductBoard t rest tag slot x
  have hqueue : u.table.queue = s.table.queue ++ [t] := rfl
  have hholds : s.HoldsOk → u.HoldsOk := fun h y hy => by
    rcases mem_putNth hy with hy | hy
    · cases hy
      exact List.Pairwise.nil
    · exact h y hy
  have hmoves (hi : s.IndexOk) : Moves t s u := by
    obtain ⟨h1, h2, -⟩ := free_head hfree hi
    exact { Moves.refl t s with
      index := indexOk_inductBoard slot x hfree hnew
      holds := hholds
      others := fun n hn => by rw [inductBoard_traveler rest tag slot x h1 h2, if_neg hn]
      queue := fun n hn h => by rw [hqueue] at h; simpa [hn] using h }
  have hlands (hi : s.IndexOk) (hp : Placed s) : Lands t s u := by
    obtain ⟨h1, h2, hnone⟩ := free_head hfree hi
    have hdead {g : Stage} {p : PlaceState} (h : s.IsAt t g p) : False := by
      obtain ⟨r, hr, -⟩ := h
      rw [hnone] at hr
      cases hr
    have hentry : ∀ e ∈ s.table.transfers, e.traveler ≠ t := fun e he ht => hdead (ht ▸ (hp.entries e he).1)
    have hat : u.IsAt t .queued .present :=
      ⟨freshTraveler s.now s.io.straps.heads tag slot x, by rw [inductBoard_traveler rest tag slot x h1 h2, if_pos rfl],
        rfl, rfl⟩
    refine ⟨fun _ => hat, fun h => (hdead (hp.flash t h)).elim, fun e he ht => (hdead (ht ▸ hp.oven e he)).elim,
      fun h => (hdead (hp.exit t h)).elim, fun e he ht => absurd ht (hentry e he), hp.once, .inl ⟨rfl, rfl, fun hb => ?_⟩⟩
    rcases cellBoard_cases hp.cell hb with h | ⟨e, he, ht, -⟩
    · exact hdead h
    · exact hentry e he ht
  exact
    { index := indexOk_inductBoard slot x hfree hnew
      holds := hholds
      range := id
      places := fun hi hp => ((hmoves hi).lawful id fun _ hp => hlands hi hp).places hi hp
      valve := fun hi hp => ((hmoves hi).lawful id fun _ hp => hlands hi hp).valve hi hp }

/-! ### Re-entry (R157 to R160) -/

theorem reentryFields_standing (x : RecipeSlot) (route : Route) (r : Traveler) :
    (reentryFields x route r).standing = r.standing := by cases route <;> rfl

theorem reentryFields_holds (x : RecipeSlot) (route : Route) (r : Traveler) :
    (reentryFields x route r).holds = dropReleased r.holds := by cases route <;> rfl

theorem dropReleased_inOrder {l : List Hold} (h : HoldsInOrder l) : HoldsInOrder (dropReleased l) :=
  h.sublist List.filter_sublist

theorem lawful_reenter {s : State} {t : Nat} {r : Traveler} (route : Route) (hr : s.traveler t = some r)
    (hstage : r.stage = .shelved) (hplace : r.place = .present) : Lawful s (s.reenter t r route) := by
  let v := (s.setTraveler t (reentryFields (s.recipeOf r) route r)).freeSlot t
  let w := v.onTable fun b => { b with queue := b.queue ++ [t] }
  have hu : s.reenter t r route = (w.moveStage t .queued .present).decideBoth := rfl
  have hv : Rests s v := by
    refine Rests.trans (rests_setTraveler hr (reentryFields_standing _ _ _) fun h => ?_) (rests_freeSlot _ t)
    rw [reentryFields_holds]
    exact dropReleased_inOrder h
  have hqueue : Moves t v w := { Moves.refl t v with
    queue := fun n hn h => by
      have h' : n ∈ v.table.queue ++ [t] := h
      simpa [hn] using h' }
  rw [hu]
  refine (hv.lawful.trans ?_).trans (lawful_decideBoth _)
  refine (hqueue.trans (moves_moveStage w t _ _)).lawful (rangeOk_congr (by simp; rfl)) fun _ hp => ?_
  have hat : v.IsAt t .shelved .present := (hv.isAt _ _ _).2 ⟨r, hr, hstage, hplace⟩
  obtain ⟨htransfers, -⟩ := recordsOnly_fields (recordsOnly_moveStage w t .queued .present)
  have absent {g : Stage} (h : v.IsAt t g .present) (hg : g ≠ .shelved) : False := hg (isAt_unique h hat).1
  have hcure : (w.moveStage t .queued .present).cure = v.cure := moveStage_cure w t _ _
  refine ⟨fun _ => isAt_moveStage (s := w) hat, fun h => (absent (hp.flash t (hcure ▸ h)) nofun).elim,
    fun e he ht => (absent (g := .cure) (ht ▸ hp.oven e (hcure ▸ he)) nofun).elim,
    fun h => (absent (hp.exit t (hcure ▸ h)) nofun).elim,
    fun e he ht => absurd ht (hp.no_entry hat e (htransfers ▸ he)), htransfers ▸ hp.once, .inl ⟨?_, ?_, fun hb => ?_⟩⟩
  · rw [moveStage_engine]
    rfl
  · rw [moveStage_engine]
    rfl
  · exact nomatch hp.board_present hat hb

/-! ### The oven -/

theorem within_clamp {lo hi v : Nat} (h : lo ≤ hi) : lo ≤ clamp lo hi v ∧ clamp lo hi v ≤ hi := by
  unfold clamp
  split
  · omega
  · split <;> omega

theorem setSpeed_belt (s : State) (v : Nat) (c : SpeedCause) :
    (s.setSpeed v c).cure.belt = (s.cure.oven, s.cure.rangeLow, s.cure.rangeHigh, v) := by
  unfold State.setSpeed
  dsimp only
  split <;> rfl

/-- A setpoint clamped into I stays within it (R115, R121). -/
theorem rangeOk_clamp {s u : State} {v : Nat} (hrange : (s.cure.rangeLow, s.cure.rangeHigh) = admittedRange s.cure.oven)
    (hne : s.cure.rangeLow ≤ s.cure.rangeHigh)
    (hu : u.cure.belt = (s.cure.oven, s.cure.rangeLow, s.cure.rangeHigh, clamp s.cure.rangeLow s.cure.rangeHigh v)) :
    u.RangeOk := by
  obtain ⟨ho, hl, hh, hp⟩ : u.cure.oven = s.cure.oven ∧ u.cure.rangeLow = s.cure.rangeLow ∧
      u.cure.rangeHigh = s.cure.rangeHigh ∧ u.cure.setpoint = clamp s.cure.rangeLow s.cure.rangeHigh v := by
    simpa [CureMonitor.belt] using hu
  have hin := within_clamp (v := v) hne
  have hbelt := (inside_belt s.cure.oven).2
  rw [← hrange] at hbelt
  unfold State.RangeOk
  rw [ho, hl, hh, hp]
  exact ⟨hrange, hne, Nat.le_trans hin.2 hbelt, fun _ => hin⟩

theorem moves_setSpeed (s : State) (v : Nat) (c : SpeedCause) (t : Nat) : Moves t s (s.setSpeed v c) := by
  unfold State.setSpeed
  dsimp only
  split <;> exact { Moves.refl t s with }

theorem placesOk_setSpeed {s : State} (v : Nat) (c : SpeedCause) (h : s.PlacesOk) : (s.setSpeed v c).PlacesOk := by
  unfold State.setSpeed
  dsimp only
  split <;> exact h

theorem valveOk_setSpeed {s : State} (v : Nat) (c : SpeedCause) (h : s.ValveOk) : (s.setSpeed v c).ValveOk := by
  unfold State.setSpeed
  dsimp only
  split <;> exact h

theorem lawful_setSpeed (s : State) (v : Nat) (c : SpeedCause) :
    Lawful s (s.setSpeed (clamp s.cure.rangeLow s.cure.rangeHigh v) c) where
  index := (moves_setSpeed s _ c 0).index
  holds := (moves_setSpeed s _ c 0).holds
  range := fun ⟨hrange, hne, _⟩ => rangeOk_clamp hrange hne (setSpeed_belt s _ c)
  places := fun _ => placesOk_setSpeed _ c
  valve := fun _ _ => valveOk_setSpeed _ c

/-- What an admission takes (R116, R117): the head of the flash list, an ordinary one with a range that meets I. -/
theorem admission_spec {s : State} {a : Admission} (h : s.admission = some a) :
    a.traveler ∈ s.cure.flash ∧
      ∀ r, a.form = .none → a.range = some r → max r.1 s.cure.rangeLow ≤ min r.2 s.cure.rangeHigh := by
  unfold State.admission at h
  split at h
  · rename_i t rest g hflash hgeometry
    split at h
    · cases h
    split at h
    · cases h
    dsimp only at h
    split at h
    · obtain ⟨f, hf, ha⟩ := Option.map_eq_some_iff.1 h
      cases ha
      refine ⟨by rw [hflash]; exact List.mem_cons_self, fun r hform hrange => ?_⟩
      unfold admissionForm at hf
      dsimp only at hform hrange
      rw [hrange, hform] at hf
      split at hf
      · cases hf
      · cases hf
      · rename_i hr
        cases hr
        split at hf
        · assumption
        · split at hf <;> cases hf
    · cases h
  · cases h

/-- The board of an admission in the oven list, before I and the setpoint follow (R118). -/
def State.enterOven (s : State) (a : Admission) : State :=
  (((s.raiseForced a.traveler a.form).onCure fun c =>
    { c with flash := c.flash.filter (· != a.traveler), overdue := c.overdue.filter (· != a.traveler),
             overCured := c.overCured.filter (· != a.traveler), stopUp := false,
             oven := c.oven ++
               [{ traveler := a.traveler, stamp := (s.raiseForced a.traveler a.form).now, range := a.range,
                  form := a.form }] }).onTraveler a.traveler fun r =>
      { r with lead := some 0, passDose := 0, forced := a.form != .none }).moveStage a.traveler .cure .present

theorem admitBoard_eq (s : State) (a : Admission) :
    s.admitBoard a = ((s.enterOven a).onCure (·.narrow a.form a.range)).setSpeed
      (clamp ((s.enterOven a).onCure (·.narrow a.form a.range)).cure.rangeLow
        ((s.enterOven a).onCure (·.narrow a.form a.range)).cure.rangeHigh
        ((s.enterOven a).onCure (·.narrow a.form a.range)).cure.setpoint) .admission := rfl

theorem narrow_lists (c : CureMonitor) (f : ForcedForm) (r : Option (Nat × Nat)) :
    (c.narrow f r).flash = c.flash ∧ (c.narrow f r).oven = c.oven ∧ (c.narrow f r).exit = c.exit := by
  unfold CureMonitor.narrow
  split <;> exact ⟨rfl, rfl, rfl⟩

theorem enterOven_fields (s : State) (a : Admission) :
    RecordsOnly s (s.enterOven a) ∧ (s.enterOven a).engine = s.engine ∧
      (s.enterOven a).cure.flash = s.cure.flash.filter (· != a.traveler) ∧
      (∃ stamp, (s.enterOven a).cure.oven =
        s.cure.oven ++ [{ traveler := a.traveler, stamp := stamp, range := a.range, form := a.form }]) ∧
      (s.enterOven a).cure.exit = s.cure.exit ∧ (s.enterOven a).cure.rangeLow = s.cure.rangeLow ∧
      (s.enterOven a).cure.rangeHigh = s.cure.rangeHigh := by
  have h := rests_raiseForced s a.traveler a.form
  have hcure := h.cure
  simp only [CureMonitor.lists, Prod.mk.injEq] at hcure
  obtain ⟨hf, ho, hx, hl, hh, -⟩ := hcure
  unfold State.enterOven
  refine ⟨?_, ?_, ?_, ?_, ?_, ?_, ?_⟩
  · refine RecordsOnly.trans ?_ (recordsOnly_moveStage _ _ _ _)
    exact RecordsOnly.trans (t := (s.raiseForced a.traveler a.form).onCure _) h.lists (recordsOnly_onTraveler _ _ _)
  all_goals simp [hf, ho, hx, hl, hh, h.engine]

theorem rests_admitFields (s : State) (t : Nat) (b : Bool) :
    Rests s (s.onTraveler t fun r => { r with lead := some 0, passDose := 0, forced := b }) :=
  rests_onTraveler s t (fun _ => rfl) fun _ => rfl

/-- I narrowed by an admission is I narrowed by its oven entry (R118). -/
theorem narrow_range (c : CureMonitor) (e : OvenEntry) :
    ((c.narrow e.form e.range).rangeLow, (c.narrow e.form e.range).rangeHigh) =
      e.narrow (c.rangeLow, c.rangeHigh) := by
  obtain ⟨t, stamp, range, form⟩ := e
  cases form <;> cases range <;> rfl

theorem moves_enterOven (s : State) (a : Admission) : Moves a.traveler s (s.enterOven a) := by
  have hraise := (rests_raiseForced s a.traveler a.form).moves a.traveler
  refine (hraise.trans ?_).trans (moves_moveStage _ _ _ _)
  refine Moves.trans ?_ ((rests_admitFields _ a.traveler _).moves a.traveler)
  exact { Moves.refl a.traveler (s.raiseForced a.traveler a.form) with
    flash := fun n _ h => (List.mem_filter.1 h).1
    oven := fun e he h => by
      rcases List.mem_append.1 h with h | h
      · exact h
      · rw [List.mem_singleton] at h
        exact absurd (by rw [h]) he }

theorem lands_enterOven {s : State} {a : Admission} (hp : Placed s) (hm : a.traveler ∈ s.cure.flash) :
    Lands a.traveler s (s.enterOven a) := by
  have hat := hp.flash _ hm
  obtain ⟨hrecords, hengine, hflash, ⟨stamp, hoven⟩, hexit, -⟩ := enterOven_fields s a
  obtain ⟨htransfers, hqueue, -⟩ := recordsOnly_fields hrecords
  have hcure : (s.enterOven a).IsAt a.traveler .cure .present := by
    have h : (s.raiseForced a.traveler a.form).IsAt a.traveler .flash .present :=
      ((rests_raiseForced s a.traveler a.form).isAt _ _ _).2 hat
    refine isAt_moveStage (g := .flash) (p := .present) ?_
    exact ((rests_admitFields _ a.traveler _).isAt _ _ _).2 h
  refine ⟨fun h => ?_, fun h => ?_, fun _ _ _ => hcure, fun h => ?_, fun e he ht => ?_, htransfers ▸ hp.once,
    .inl ⟨by rw [hengine], by rw [hengine], fun hb => nomatch hp.board_present hat hb⟩⟩
  · exact nomatch (isAt_unique hat (hp.queue _ (hqueue ▸ h))).1
  · rw [hflash] at h
    simp at h
  · exact nomatch (isAt_unique hat (hp.exit _ (hexit ▸ h))).1
  · exact absurd ht (hp.no_entry hat e (htransfers ▸ he))

theorem rangeOk_admitBoard {s : State} {a : Admission} (h : s.admission = some a) (hs : s.RangeOk) :
    (s.admitBoard a).RangeOk := by
  obtain ⟨-, hmeet⟩ := admission_spec h
  obtain ⟨-, -, -, ⟨stamp, hoven⟩, -, hlow, hhigh⟩ := enterOven_fields s a
  obtain ⟨hrange, hne, -⟩ := hs
  rw [admitBoard_eq]
  refine rangeOk_clamp ?_ ?_ (setSpeed_belt _ _ _)
  · simp only [onCure_cure, (narrow_lists _ _ _).2.1, hoven, admittedRange_append, ← hrange, ← hlow, ← hhigh]
    exact narrow_range _ { traveler := a.traveler, stamp := stamp, range := a.range, form := a.form }
  · simp only [onCure_cure, CureMonitor.narrow]
    split
    · rename_i r hform hr
      have := hmeet r hform hr
      simp only [hlow, hhigh]
      omega
    · rw [hlow, hhigh]
      exact hne

theorem lawful_admitBoard {s : State} {a : Admission} (h : s.admission = some a) : Lawful s (s.admitBoard a) := by
  obtain ⟨hm, -⟩ := admission_spec h
  have hmoves : Moves a.traveler s ((s.enterOven a).onCure (·.narrow a.form a.range)) := by
    obtain ⟨hf, ho, hx⟩ := narrow_lists (s.enterOven a).cure a.form a.range
    exact (moves_enterOven s a).trans { Moves.refl a.traveler (s.enterOven a) with
      flash := fun n _ h => by rw [onCure_cure, hf] at h; exact h
      oven := fun e _ h => by rw [onCure_cure, ho] at h; exact h
      exit := fun n _ h => by rw [onCure_cure, hx] at h; exact h }
  have hlands (hp : Placed s) : Lands a.traveler s ((s.enterOven a).onCure (·.narrow a.form a.range)) := by
    obtain ⟨hf, ho, hx⟩ := narrow_lists (s.enterOven a).cure a.form a.range
    have l := lands_enterOven hp hm
    exact { l with
      flash := fun h => by rw [onCure_cure, hf] at h; exact l.flash h
      oven := fun e h => by rw [onCure_cure, ho] at h; exact l.oven e h
      exit := fun h => by rw [onCure_cure, hx] at h; exact l.exit h }
  have hspeed := moves_setSpeed ((s.enterOven a).onCure (·.narrow a.form a.range))
    (clamp ((s.enterOven a).onCure (·.narrow a.form a.range)).cure.rangeLow
      ((s.enterOven a).onCure (·.narrow a.form a.range)).cure.rangeHigh
      ((s.enterOven a).onCure (·.narrow a.form a.range)).cure.setpoint) .admission a.traveler
  exact
    { index := (hmoves.trans hspeed).index
      holds := (hmoves.trans hspeed).holds
      range := rangeOk_admitBoard h
      places := fun _ hp => placesOk_setSpeed _ _ (placesOk_iff.2 (hmoves.placed (hlands (placesOk_iff.1 hp)) (placesOk_iff.1 hp)))
      valve := fun _ hp hv => valveOk_setSpeed _ _ (hmoves.valveOk (hlands (placesOk_iff.1 hp)) hv) }

theorem exitMove_mem {s : State} {e : OvenEntry} (h : s.exitMove = some e) : e ∈ s.cure.oven := by
  unfold State.exitMove at h
  split at h
  · cases h
  rename_i x hx
  split at h
  · cases h
    unfold State.atOvenEnd at hx
    split at hx
    · rename_i y rest g ho hg
      split at hx
      · cases hx
      split at hx
      · cases hx
        rw [ho]
        exact List.mem_cons_self
      · cases hx
    · cases hx
  · cases h

/-- The board out of the oven, before its dose is judged (R132). -/
def State.leaveOven (s : State) (t : Nat) : State :=
  ((s.onCure fun c => { c.dropOven t with exit := (c.dropOven t).exit ++ [t] }).onTraveler t fun r =>
    { r with lead := none }).moveStage t .ovenExit .present

theorem moveOut_eq (s : State) (e : OvenEntry) :
    s.moveOut e = ((s.leaveOven e.traveler).exitVerdict e).endStall e.traveler := rfl

theorem lawful_leaveOven {s : State} {e : OvenEntry} (he : e ∈ s.cure.oven) : Lawful s (s.leaveOven e.traveler) := by
  let t := e.traveler
  let v := s.onCure fun c => { c.dropOven t with exit := (c.dropOven t).exit ++ [t] }
  have hv : Moves t s v := { Moves.refl t s with
    flash := fun n _ h => by simpa [v] using h
    oven := fun x _ h => (mem_dropOven (c := s.cure) h).1
    exit := fun n hn h => by simpa [v, hn] using h }
  have hrest := rests_onTraveler v t (f := fun r => { r with lead := none }) (fun _ => rfl) fun _ => rfl
  have hmove := moves_moveStage (v.onTraveler t fun r => { r with lead := none }) t .ovenExit .present
  have hcure : (s.leaveOven t).cure = v.cure := by simp [State.leaveOven, v]
  have hengine : (s.leaveOven t).engine = s.engine := by simp [State.leaveOven]
  have hrecords : RecordsOnly s (s.leaveOven t) :=
    RecordsOnly.trans (t := v) rfl ((recordsOnly_onTraveler v t _).trans (recordsOnly_moveStage _ _ _ _))
  obtain ⟨htransfers, hqueue, -⟩ := recordsOnly_fields hrecords
  refine ((hv.trans (hrest.moves t)).trans hmove).lawful (range_dropOven (t := t) (by
    show (s.leaveOven t).cure.belt = _
    rw [hcure]
    rfl)) fun _ hp => ?_
  have hat := hp.oven e he
  have hexit : (s.leaveOven t).IsAt t .ovenExit .present :=
    isAt_moveStage (g := .cure) (p := .present) ((hrest.isAt _ _ _).2 hat)
  refine ⟨fun h => ?_, fun h => ?_, fun x h hx => ?_, fun _ => hexit, fun x h hx => ?_, htransfers ▸ hp.once,
    .inl ⟨by rw [← hengine]; rfl, by rw [← hengine]; rfl, fun hb => nomatch hp.board_present hat hb⟩⟩
  · exact nomatch (isAt_unique hat (hp.queue _ (hqueue ▸ h))).1
  · have h' : t ∈ v.cure.flash := hcure ▸ h
    exact nomatch (isAt_unique hat (hp.flash _ (by simpa [v] using h'))).1
  · have h' : x ∈ v.cure.oven := hcure ▸ h
    exact absurd hx (mem_dropOven (c := s.cure) h').2
  · exact absurd hx (hp.no_entry hat x (htransfers ▸ h))

theorem lawful_moveOut {s : State} {e : OvenEntry} (h : s.exitMove = some e) : Lawful s (s.moveOut e) := by
  rw [moveOut_eq]
  exact (lawful_leaveOven (exitMove_mem h)).trans ((rests_exitVerdict _ e).trans (rests_endStall _ _)).lawful

end Sys2Proof.Machine
end

section
/-! PROOF of the invariants, last part: every effect and every event is lawful, and so every step keeps the index, the hold
sets, the range, the places and the valve (O7, O12, O13); the reset state has them all (O5). -/

namespace Sys2Proof.Machine

/-! ### An empty line -/

/-- No traveler is live and no list holds one. -/
structure Emptied (s : State) : Prop where
  records   : s.table.records = List.replicate Config.travelerCount none
  free      : s.table.free = (List.range Config.travelerCount).map (· + 1)
  index     : s.table.index = []
  queue     : s.table.queue = []
  transfers : s.table.transfers = []
  flash     : s.cure.flash = []
  oven      : s.cure.oven = []
  exit      : s.cure.exit = []
  cell      : s.engine.cell = .vacant
  board     : s.engine.board = none

theorem Emptied.traveler {s : State} (h : Emptied s) (t : Nat) : s.traveler t = none := by
  cases hr : s.traveler t with
  | none => rfl
  | some r =>
    have := mem_of_traveler hr
    rw [h.records] at this
    simp at this

theorem Emptied.indexOk {s : State} (h : Emptied s) : s.IndexOk := by
  refine ⟨by rw [h.records]; exact List.length_replicate, ?_, fun t => ?_, by rw [h.index]; exact List.nodup_nil,
    fun tag t => by simp [h.index, h.traveler]⟩
  · rw [h.free]
    exact List.Nodup.map (fun _ _ he => Nat.succ.inj he) List.nodup_range
  · rw [h.free, h.traveler, List.mem_map]
    constructor
    · rintro ⟨n, hn, rfl⟩
      exact ⟨Nat.le_add_left 1 n, List.mem_range.1 hn, rfl⟩
    · rintro ⟨h1, h2, -⟩
      exact ⟨t - 1, List.mem_range.2 (by omega), by omega⟩

theorem Emptied.holdsOk {s : State} (h : Emptied s) : s.HoldsOk := by
  intro r hr
  rw [h.records] at hr
  simp at hr

theorem Emptied.placesOk {s : State} (h : Emptied s) : s.PlacesOk :=
  placesOk_iff.2 ⟨by simp [h.queue], by simp [h.flash], by simp [h.oven], by simp [h.exit], by simp [h.transfers],
    by simp [h.transfers], cellOk_of_vacant h.cell h.board⟩

theorem emptied_clear (s : State) : Emptied s.clear := ⟨rfl, rfl, rfl, rfl, rfl, rfl, rfl, rfl, rfl, rfl⟩

theorem emptied_reset (straps : Straps) (x : Inputs) (l : List Instr) : Emptied (State.afterReset straps x l) :=
  ⟨rfl, rfl, rfl, rfl, rfl, rfl, rfl, rfl, rfl, rfl⟩

theorem rangeOk_of_empty {s : State} (ho : s.cure.oven = []) (hl : s.cure.rangeLow = Config.beltMin)
    (hh : s.cure.rangeHigh = Config.beltMax) (hp : s.cure.setpoint ≤ Config.beltMax) : s.RangeOk := by
  unfold State.RangeOk
  rw [ho, hl, hh]
  exact ⟨rfl, by decide, hp, fun h => absurd rfl h⟩

theorem rangeOk_reset (straps : Straps) (x : Inputs) (l : List Instr) : (State.afterReset straps x l).RangeOk :=
  rangeOk_of_empty rfl rfl rfl (Nat.zero_le _)

theorem valveOk_reset (straps : Straps) (x : Inputs) (l : List Instr) : (State.afterReset straps x l).ValveOk :=
  valveOk_shut nofun rfl

/-- A line clear in IDLE or HALT finds every valve shut (R20, R88). -/
theorem lawful_clear {s : State} (hm : s.mode = .idle ∨ s.mode = .halt) : Lawful s s.clear where
  index := fun _ => (emptied_clear s).indexOk
  holds := fun _ => (emptied_clear s).holdsOk
  range := fun h => rangeOk_of_empty rfl rfl rfl h.2.2.1
  places := fun _ _ => (emptied_clear s).placesOk
  valve := fun _ _ hv => by
    refine valveOk_shut nofun (valve_shut_of_cell (s := s) (fun hr => ?_) hv)
    have := hv.1 hr
    rcases hm with hm | hm <;> rw [hm] at this <;> simp at this

theorem lawful_reset (s : State) (p : StrapPins) : Lawful s (s.resetBlocks p) where
  index := fun _ => (emptied_reset _ _ _).indexOk
  holds := fun _ => (emptied_reset _ _ _).holdsOk
  range := fun _ => rangeOk_reset _ _ _
  places := fun _ _ => (emptied_reset _ _ _).placesOk
  valve := fun _ _ _ => valveOk_reset _ _ _

/-! ### Effects and events -/

theorem Effect.lawful {s u : State} (h : Effect s u) : Lawful s u := by
  cases h with
  | nothing => exact Lawful.refl s
  | induct free new room => exact lawful_inductBoard _ _ free new
  | run => exact lawful_run s
  | drain =>
    exact ((lawful_setMode none none fun _ _ _ => .inr rfl).trans (lawful_decidePre _)).trans (lawful_drainDone _)
  | halt l => exact lawful_enterHalt s _ _
  | recover mode => exact lawful_recoverLine mode
  | clear mode => exact lawful_clear mode
  | slot n x => exact (rests_onRecipes s _).lawful
  | profile n p => exact (rests_onRecipes s _).lawful
  | head n c => exact (rests_onLots s _).lawful
  | mount n head m => exact (rests_mount s n head m).lawful
  | unmount => exact ((rests_setLot s _ _).trans (rests_onLots _ _)).lawful
  | record live alike =>
    refine (rests_setTraveler live ?_ fun h => by rwa [alike.holds]).lawful
    simp [Traveler.standing, alike.tag, alike.stage, alike.place]
  | complete x i t =>
    exact ((rests_endInspection s x i .completed).trans (rests_evaluate _ x t)).lawful.trans (lawful_decideAt _ x)
  | limits l => exact (still_onEngine s _).lawful rfl rfl rfl rfl
  | geometry g => exact (rests_onCure s (fun c => { c with geometry := some g }) rfl).lawful
  | speed => exact lawful_setSpeed s _ _
  | levels r n => exact (rests_onHolds s _).lawful
  | raise t k w g d => exact (rests_raiseHold s t k w g d).lawful
  | raiseDecide t k w g d => exact (rests_raiseHold s t k w g d).lawful.trans (lawful_decideFor _ t)
  | release t h l n => exact (rests_releaseRecord s t h l n).lawful.trans (lawful_decideFor _ t)
  | releaseAll t hs l n =>
    exact (rests_foldl (fun s h => rests_releaseRecord s t h l n) hs s).lawful.trans (lawful_decideFor _ t)
  | reenter route live stage place => exact lawful_reenter route live stage place
  | retire o live stage place =>
    refine (lawful_retire o fun hp hb => ?_).trans (lawful_decideBoth _)
    exact nomatch hp.board_present ⟨_, live, stage, place⟩ hb
  | settings l => exact (rests_onLink s l _).lawful
  | restart l => exact ((rests_onLink s l _).trans ((rests_dropClaim _ l .pre).trans (rests_dropClaim _ l .post))).lawful
  | timeouts t => exact (rests_onIo s _ rfl).lawful

theorem lawful_expireInspection (s : State) (x : Station) (i : Inspection) : Lawful s (s.expireInspection x i) := by
  unfold State.expireInspection
  dsimp only
  split
  · exact (rests_endInspection s x i .expired).lawful
  · refine Lawful.trans ?_ (lawful_decideAt _ x)
    refine Rests.lawful (Rests.trans ?_ (rests_post _ _))
    exact ((rests_endInspection s x i .expired).trans (rests_raiseHold _ _ _ _ _ _)).trans (rests_evaluate _ _ _)

theorem still_fault {s : State} (code : Nat) : Still s (s.onEngine fun e => { e with lastFault := some code }) :=
  still_onEngine s _

/-- The E-stop asserted shuts the valve (R181). -/
theorem lawful_estop {s v : State} (htable : v.table = s.table) (hcure : v.cure = s.cure) (hengine : v.engine = s.engine) :
    Lawful s v.closeValve where
  index := fun h => (works_closeValve v).index (indexOk_congr (by rw [htable]) (by rw [htable]) (by rw [htable])
    (fun t => by unfold State.traveler; rw [htable]) h)
  holds := fun h => (works_closeValve v).holds (by unfold State.HoldsOk; rw [htable]; exact h)
  range := fun h => (works_closeValve v).range (rangeOk_congr (by rw [hcure]) h)
  places := fun _ h => by
    refine (works_closeValve v).toStill.placesOk (closeValve_cell v) (works_closeValve v).board ?_
    unfold State.PlacesOk State.CellOk State.IsAt State.traveler at h ⊢
    rwa [htable, hcure, hengine]
  valve := fun _ _ h => valveOk_shut (by
    rw [closeValve_cell, hengine, mode_of_recordsOnly (works_closeValve v).lists]
    unfold State.mode
    rw [htable]
    exact h.1) (closeValve_shut v)

theorem Happening.lawful {s u : State} (h : Happening s u) : Lawful s u := by
  cases h with
  | nothing => exact Lawful.refl s
  | link l => exact (rests_onLink s l _).lawful
  | reset p => exact lawful_reset s p
  | secondTick => exact ((rests_onIo s _ rfl).trans (rests_foldl rests_accrue _ _)).lawful
  | lotExpiry => exact ((rests_setLot s _ _).trans (rests_post _ _)).lawful
  | flashOverdue t => exact (rests_examineOverdue s t).lawful
  | sampling k n l => exact (rests_sampleFrom k n l s).lawful
  | blink => exact (rests_onIo s _ rfl).lawful
  | belt =>
    exact (((rests_onCure s (fun c => { c with prescaler := s.io.timeouts.reload }) rfl).trans (rests_advance _)).trans
      (rests_examineStall _)).lawful
  | sensor x o => exact (rests_onIo s _ rfl).lawful
  | flashEndVacant x o =>
    exact ((rests_onIo s (·.setSensor x o) rfl).trans (rests_onCure _ (fun c => { c with stopUp := true }) rfl)).lawful
  | transferEnd due => exact (lawful_finish (transferEnds_mem due)).trans (lawful_handArrival _ _)
  | jam => exact lawful_enterHalt s _ _
  | inspection =>
    exact lawful_expireInspection s _ _
  | valveTimer =>
    rename_i v _
    let w := s.onEngine fun e => { e with valve := some { v with openMs := v.duration } }
    exact ((still_onEngine s _).trans (works_closeValve w).toStill).lawful_shut (closeValve_cell w)
      (works_closeValve w).board fun _ => closeValve_shut w
  | portTimeout =>
    have hstill : Still s (s.closeValve.onEngine fun e => { e with port := .lost, reference := none }) :=
      (works_closeValve s).toStill.trans (still_onEngine _ _)
    exact (hstill.lawful_shut (closeValve_cell s) (works_closeValve s).board fun _ => closeValve_shut s).trans
      (lawful_enterHalt _ _ _)
  | parked port message =>
    exact lawful_parked (still_quiet s _) rfl rfl (valve_shut_of_message port (by rw [message]; nofun)) (Still.refl _) rfl
  | arrived port message => exact lawful_arrived port message
  | passDone _ cell _ => exact lawful_passDone cell
  | passOver =>
    rename_i o _
    let w := s.quiet o.target
    exact ((still_quiet s _).trans (works_closeValve w).toStill).lawful_shut (closeValve_cell w)
      (works_closeValve w).board fun _ => closeValve_shut w
  | stopped port message =>
    exact lawful_parkAgain (still_quiet s _) rfl rfl (valve_shut_of_message port (by rw [message]; nofun))
  | faultCode code => exact (still_fault code).lawful rfl rfl rfl rfl
  | faultAtStop code port message =>
    exact lawful_parkAgain ((still_fault code).trans (still_quiet _ _)) rfl rfl
      (valve_shut_of_message port (by rw [message]; nofun))
  | faultAtPark code port message =>
    rename_i o
    let w := (s.onEngine fun e => { e with lastFault := some code }).quiet none
    have hw : Still s w := (still_fault code).trans (still_quiet _ _)
    have hshut : s.ValveOk → w.engine.valve = none := valve_shut_of_message port fun h x y v hm => by
      rw [hm] at message
      cases message
    show Lawful s (w.faultAtPark code)
    unfold State.faultAtPark
    split
    · exact lawful_parked hw rfl rfl hshut (Rests.toStill (rests_recordFault _ _ _ _ _)) (rests_recordFault _ _ _ _ _).engine
    · exact hw.lawful_shut rfl rfl hshut
  | faultInProgram code => exact lawful_faultInProgram code ((still_fault code).trans (still_quiet _ _)) rfl rfl rfl
  | estopAsserted => exact lawful_estop rfl rfl rfl
  | estopTaken => exact (rests_onIo s (fun io => { io with estopHanded := false }) rfl).lawful.trans (lawful_enterHalt _ _ _)
  | estopReleased =>
    exact
      { index := id, holds := id, range := id, places := fun _ => id
        valve := fun _ _ h => ⟨h.1, fun v hv => by
          obtain ⟨hc, -, hp⟩ := h.2 v hv
          exact ⟨hc, rfl, hp⟩⟩ }
  | queueRelease due => exact (lawful_start (queueReady_starts due)).trans (lawful_handArrival _ _)
  | decidePre => exact lawful_decidePre s
  | decideExit => exact lawful_decideExit s
  | programStart due => exact lawful_startProgram due
  | flashStart due => exact lawful_start fun _ => flashReady_starts due
  | flashStartDecide due => exact (lawful_start fun _ => flashReady_starts due).trans (lawful_decidePre _)
  | admission due => exact lawful_admitBoard due
  | exitMove due => exact lawful_moveOut due
  | exitStart due => exact lawful_start (exitReady_starts due)
  | drainDone => exact lawful_drainDone s

/-! ### The idle moment -/

theorem Idles.traveler {s u : State} (h : Idles s u) (t : Nat) : u.traveler t = s.traveler t := by
  unfold State.traveler
  rw [h.table]

theorem Idles.range {s u : State} (h : Idles s u) : s.RangeOk → u.RangeOk :=
  rangeOk_congr (by rw [h.cure]; rfl)

theorem Idles.index {s u : State} (h : Idles s u) : s.IndexOk → u.IndexOk :=
  indexOk_congr (by rw [h.table]) (by rw [h.table]) (by rw [h.table]) fun t => by rw [h.traveler]

theorem Idles.holdsOk {s u : State} (h : Idles s u) : s.HoldsOk → u.HoldsOk := by
  unfold State.HoldsOk
  rw [h.table]
  exact id

theorem Idles.places {s u : State} (h : Idles s u) (hp : s.PlacesOk) : u.PlacesOk := by
  unfold State.PlacesOk State.CellOk State.IsAt State.traveler at hp ⊢
  rw [h.table, h.cure, h.cell, h.board]
  exact hp

theorem Idles.mode {s u : State} (h : Idles s u) : u.mode = s.mode := by
  unfold State.mode
  rw [h.table]

/-- A millisecond counts in an open valve and at an outstanding PASS (R88, R91). -/
theorem Idles.valveOk {s u : State} (h : Idles s u) (hv : s.ValveOk) : u.ValveOk := by
  refine ⟨by rw [h.cell, h.mode]; exact hv.1, fun v hu => ?_⟩
  obtain ⟨w, hw, hhead⟩ : ∃ w, s.engine.valve = some w ∧ w.head = v.head := by
    rcases h.valve with he | he
    · exact ⟨v, he ▸ hu, rfl⟩
    · rw [he] at hu
      obtain ⟨w, hw, rfl⟩ := Option.map_eq_some_iff.1 hu
      exact ⟨w, hw, rfl⟩
  obtain ⟨hc, hestop, o, x, y, speed, hport, hm⟩ := hv.2 w hw
  refine ⟨h.cell.trans hc, h.estop.trans hestop, ?_⟩
  rcases h.port with hp | hp
  · exact ⟨o, x, y, speed, hp.trans hport, hhead ▸ hm⟩
  · rw [hport] at hp
    exact ⟨_, x, y, speed, hp, hhead ▸ hm⟩

/-! ### The invariants -/

theorem Idles.lawful {s u : State} (h : Idles s u) : Lawful s u :=
  ⟨h.index, h.holdsOk, h.range, fun _ => h.places, fun _ _ => h.valveOk⟩

/-- Every step is lawful. -/
theorem step_lawful {s u : State} (h : step s = .next u) : Lawful s u := by
  have hlink (v : State) (l f) : Lawful v (v.onLink l f) := (rests_onLink v l f).lawful
  have hpending (v : State) (l) : Lawful v (v.withPending l) := ⟨id, id, id, fun _ => id, fun _ _ => id⟩
  have hlight (v : State) : Lawful v v.relight := ⟨id, id, id, fun _ => id, fun _ _ => id⟩
  exact step_keeps (J := Lawful s) (fun v l f hv => hv.trans (hlink v l f)) (fun v hv => hv.trans (hlight v))
    (fun v l hv => hv.trans (hpending v l)) (fun he hv => hv.trans he.lawful) (fun he hv => hv.trans he.lawful)
    (fun hi hv => hv.trans hi.lawful) (Lawful.refl s) h

/-- Settles O7: the output by what is sound, I and the setpoint by what is lawful. -/
theorem stepKeepsBeltOutput : Obligations.StepKeepsBeltOutput :=
  ⟨fun _ _ h hs => step_keeps_belt h hs, fun _ _ h hs => (step_lawful hs).range h⟩

/-- Settles O12: the sizes by what is sound, the index and the hold sets by what is lawful. -/
theorem stepKeepsTableSizes : Obligations.StepKeepsTableSizes :=
  ⟨fun _ _ h hs => step_keeps_shaped h hs, fun _ _ h hs => (step_lawful hs).index h,
    fun _ _ h hs => (step_lawful hs).holds h⟩

/-- Settles O13: every step is lawful. -/
theorem stepKeepsPlacesAndValve : Obligations.StepKeepsPlacesAndValve :=
  ⟨fun _ _ hi hp hs => (step_lawful hs).places hi hp, fun _ _ hi hp hv hs => (step_lawful hs).valve hi hp hv⟩

/-- Settles O5: the line is empty, and every other block at a value that its invariant allows. -/
theorem resetSatisfiesInvariants : Obligations.ResetSatisfiesInvariants := by
  have hempty : Emptied State.reset := emptied_reset _ _ _
  refine ⟨linksOk_reset _ _ _, rfl, ?_, ?_, ?_, ?_, Nat.zero_le _, ?_, rangeOk_reset _ _ _, hempty.indexOk,
    hempty.placesOk, valveOk_reset _ _ _, hempty.holdsOk⟩
  · exact haltOk_of_none nofun rfl rfl
  · exact ⟨rfl, rfl, rfl⟩
  · intro m hm
    simp [State.reset, State.afterReset, LotTable.reset] at hm
  · intro r hr
    rw [hempty.records] at hr
    simp at hr
  · exact ⟨List.length_replicate, List.length_replicate, List.length_replicate, List.length_replicate, rfl, rfl,
      List.length_replicate, rfl, List.length_replicate, List.length_replicate, List.length_replicate⟩

end Sys2Proof.Machine
end

section
/-! PROOF of the step, of a reset and of the idle moment (O1, O2, O3). -/

namespace Sys2Proof.Machine

/-- Settles O1: a step is the dispatch of the front command. -/
theorem stepRunsFrontCommand : Obligations.StepRunsFrontCommand := fun _ _ => rfl

/-- Settles O3: every block stands at its reset value, and no traveler is live. -/
theorem resetLeavesGivenValues : Obligations.ResetLeavesGivenValues := by
  intro s p i hi
  have hexec : exec i s = .next (s.resetBlocks p).relight := by rcases hi with rfl | rfl <;> rfl
  have hlink (l : Link) : (s.resetBlocks p).relight.link l = LinkState.reset := by cases l <;> rfl
  refine ⟨_, hexec, rfl, rfl, (emptied_reset _ _ _).traveler, rfl, rfl, rfl, rfl, rfl, rfl, rfl, rfl, rfl, rfl, rfl,
    ?_, ?_, rfl, rfl, rfl, rfl, rfl, rfl, rfl, rfl, rfl, rfl, rfl, rfl, rfl, rfl, rfl, rfl, rfl, rfl, rfl, rfl, rfl,
    ?_, rfl, ?_, rfl, fun l => ?_, rfl, rfl, rfl, rfl, ?_, rfl, ?_⟩
  case refine_4 => exact fun x hx => List.eq_of_mem_replicate hx
  case refine_5 => rw [hlink]; exact ⟨rfl, rfl, rfl, rfl, rfl, rfl, rfl⟩
  case refine_6 => exact fun d hd => by rw [List.eq_of_mem_replicate hd]
  case refine_7 => rfl
  all_goals exact fun o ho => List.eq_of_mem_replicate ho

/-! ### What an idle moment queues -/

/-- A row that the millisecond count alone makes due (R124, R177, R178). -/
def Instr.timed : Instr → Prop
  | .secondTick | .blinkToggle | .samplingRound _ => True
  | _ => False

theorem timed_of_request {i : Instr} (h : requestParts i ≠ none) : ¬ Instr.timed i := by
  cases i <;> first | exact id | exact absurd rfl h

/-- Everything a reader reads satisfies `P`. -/
def Reader.Yields {α : Type} (r : Reader α) (P : α → Prop) : Prop := ∀ l a rest, r l = some (a, rest) → P a

theorem yields_pure {α : Type} {a : α} {P : α → Prop} (h : P a) : (Reader.pure a).Yields P := by
  intro l b rest hb
  cases hb
  exact h

theorem yields_bind {α β : Type} {x : Reader α} {f : α → Reader β} {P : β → Prop} (h : ∀ a, (f a).Yields P) :
    (Reader.bind x f).Yields P := by
  intro l b rest hb
  unfold Reader.bind at hb
  split at hb
  · cases hb
  · exact h _ _ _ _ hb

/-- What the body of a frame is read as is a request (R164). -/
theorem requestReader_yields {q : Req} {code : Nat} {r : Reader Instr} (h : requestReader q code = some r) :
    r.Yields fun i => requestParts i ≠ none := by
  unfold requestReader at h
  split at h <;> cases h <;> (repeat' (refine yields_bind fun _ => ?_)) <;> refine yields_pure ?_
  case h_16 | h_35 => split <;> exact Option.some_ne_none _
  all_goals exact Option.some_ne_none _

theorem readRequest_request {q : Req} {code : Nat} {body : List Byte} {i : Instr}
    (h : readRequest q code body = some i) : requestParts i ≠ none := by
  unfold readRequest at h
  split at h
  · cases h
  rename_i r hr
  split at h
  · cases h
  split at h
  · rename_i j hj
    cases h
    exact requestReader_yields hr _ _ _ hj
  · cases h

theorem frameCommand_untimed (l : Link) (bytes : List Byte) : ¬ Instr.timed (frameCommand l bytes) := by
  unfold frameCommand
  dsimp only
  split
  · exact id
  split
  · split
    · exact timed_of_request (readRequest_request ‹_›)
    · exact id
  · exact id

theorem receiveByte_untimed (l : Link) (r : Reception) (b : Byte) : ∀ i ∈ (receiveByte l r b).2, ¬ Instr.timed i := by
  intro i hi
  unfold receiveByte at hi
  split at hi
  · split at hi
    · cases hi; exact id
    · cases hi
  · dsimp only at hi
    split at hi
    · cases hi
    split at hi
    · cases hi; exact id
    split at hi
    · cases hi
    · cases hi; exact frameCommand_untimed l _

theorem firstDue_mem {l : List (Option Instr)} {i : Instr} (h : firstDue l = some i) : some i ∈ l := by
  induction l with
  | nil => cases h
  | cons o l ih =>
    cases o with
    | none => exact List.mem_cons_of_mem _ (ih h)
    | some j => cases h; exact List.mem_cons_self

theorem whenDue_eq {b : Bool} {i j : Instr} : whenDue b i = some j ↔ b = true ∧ i = j := by
  cases b <;> simp [whenDue]

theorem nextMove_untimed {s : State} {i : Instr} (h : s.nextMove = some i) : ¬ Instr.timed i := by
  have hmem := firstDue_mem h
  simp only [List.mem_cons, List.not_mem_nil, or_false, eq_comm (a := some i), whenDue_eq, firstTraveler,
    State.nextExpiry, Option.map_eq_some_iff] at hmem
  rcases hmem with ⟨-, rfl⟩ | ⟨_, -, rfl⟩ | ⟨_, -, rfl⟩ | ⟨-, rfl⟩ | ⟨-, rfl⟩ | ⟨_, -, rfl⟩ | ⟨_, -, rfl⟩ | ⟨-, rfl⟩ |
    ⟨-, rfl⟩ | ⟨-, rfl⟩ | ⟨-, rfl⟩ | ⟨-, rfl⟩ | ⟨-, rfl⟩ | ⟨-, rfl⟩ | ⟨-, rfl⟩ | ⟨-, rfl⟩ <;> exact id

/-! ### The idle moment by its branches -/

theorem step_idle {s : State} (h : s.pending = []) : step s = .next s.idle := by
  unfold step
  rw [h]

theorem idle_move {s : State} {i : Instr} (hp : s.pending = []) (h : s.nextMove = some i) :
    s.idle = s.withPending [i] := by
  unfold State.idle
  rw [h]
  show { s with pending := s.pending ++ [i] } = _
  rw [hp]
  rfl

theorem idle_still {s : State} (hm : s.nextMove = none) (hb : s.byteDue = none) (hx : s.io.inputs.pulses = 0) :
    s.idle = if s.io.inputs.clock = true then s.tick else s := by
  unfold State.idle
  simp [hm, hb, hx]

/-- With the reference clock standing an idle moment queues no timed row and moves no count (R177). -/
theorem idle_clock_stands {s : State} (hp : s.pending = []) (hc : s.io.inputs.clock = false) :
    KeptBut s s.idle [.pending, .cure, .clock] ∧ s.idle.io = { s.io with inputs := s.idle.io.inputs } ∧
      s.idle.cure = { s.cure with prescaler := s.idle.cure.prescaler } ∧ ∀ i ∈ s.idle.pending, ¬ Instr.timed i := by
  have kept {u : State} (h : u.table = s.table ∧ u.recipes = s.recipes ∧ u.lots = s.lots ∧ u.mask = s.mask ∧
      u.engine = s.engine ∧ u.holds = s.holds) : KeptBut s u [.pending, .cure, .clock] := by
    obtain ⟨h1, h2, h3, h4, h5, h6⟩ := h
    intro p hp
    cases p
    case pending | cure | clock => simp at hp
    all_goals assumption
  have same : ∀ i ∈ s.pending, ¬ Instr.timed i := fun i hi => by
    rw [hp] at hi
    exact absurd hi List.not_mem_nil
  unfold State.idle
  split
  · rename_i i hi
    refine ⟨kept ⟨rfl, rfl, rfl, rfl, rfl, rfl⟩, rfl, rfl, ?_⟩
    simpa [hp] using nextMove_untimed hi
  split
  · rename_i l b rest _
    refine ⟨kept ⟨rfl, rfl, rfl, rfl, rfl, rfl⟩, rfl, rfl, ?_⟩
    have hpend : (s.takeByte l b rest).pending = (receiveByte l (s.link l).reception b).2.toList := by
      show s.pending ++ _ = _
      rw [hp, List.nil_append]
    rw [hpend]
    exact fun i hi => receiveByte_untimed l (s.link l).reception b i (Option.mem_toList.1 hi)
  split
  · unfold State.countPulse
    dsimp only
    split
    · exact ⟨kept ⟨rfl, rfl, rfl, rfl, rfl, rfl⟩, rfl, rfl, by simp [hp, Instr.timed]⟩
    · exact ⟨kept ⟨rfl, rfl, rfl, rfl, rfl, rfl⟩, rfl, rfl, same⟩
  · rw [hc]
    exact ⟨kept ⟨rfl, rfl, rfl, rfl, rfl, rfl⟩, rfl, rfl, same⟩

/-! ### The millisecond tick -/

theorem sensorDue_eq {s : State} {x : Sensor} {i : Instr} : s.sensorDue x = some i ↔
    ∃ d, s.io.sensors[Sensor.index x]? = some d ∧ 20 ≤ d.run ∧ i = .sensorChange x (!d.reading) := by
  unfold State.sensorDue
  split
  · rename_i h
    simp [h]
  · rename_i d h
    rw [whenDue_eq, decide_eq_true_eq, h]
    constructor
    · rintro ⟨h20, rfl⟩
      exact ⟨d, rfl, h20, rfl⟩
    · rintro ⟨d', hd, h20, rfl⟩
      cases hd
      exact ⟨h20, rfl⟩

/-- The rows a tick makes due that are no sensor's and no link's (R124, R177, R178). -/
theorem mem_dueRows_timed {s : State} {i : Instr} (ht : Instr.timed i) : i ∈ s.dueRows ↔
    s.io.ms % 250 = 0 ∧ .samplingRound s.io.inputs.channels = i ∨ s.io.ms % 500 = 0 ∧ .blinkToggle = i ∨
      s.io.ms = 0 ∧ .secondTick = i := by
  have hsensor : ∀ x, s.sensorDue x ≠ some i := fun x hx => by
    obtain ⟨d, -, -, rfl⟩ := sensorDue_eq.1 hx
    exact ht
  unfold State.dueRows
  simp only [List.mem_filterMap, id_eq, exists_eq_right, List.mem_append, List.mem_cons, List.not_mem_nil, or_false,
    List.mem_map, eq_comm (a := some i), whenDue_eq, decide_eq_true_eq]
  simp only [Config.samplePeriod, Config.blinkPeriod]
  cases i <;> first | exact absurd ht id | simp [hsensor]

theorem mem_dueRows_sensor {s : State} {x : Sensor} {b : Bool} :
    .sensorChange x b ∈ s.dueRows ↔ x ∈ allSensors ∧ s.sensorDue x = some (.sensorChange x b) := by
  unfold State.dueRows
  simp only [List.mem_filterMap, id_eq, exists_eq_right, List.mem_append, List.mem_cons, List.not_mem_nil, or_false,
    List.mem_map, eq_comm (a := some (Instr.sensorChange x b)), whenDue_eq, reduceCtorEq, and_false, false_or]
  constructor
  · rintro ⟨y, hy, hd⟩
    obtain ⟨d, -, -, he⟩ := sensorDue_eq.1 hd
    cases he
    exact ⟨hy, hd⟩
  · rintro ⟨hx, hd⟩
    exact ⟨x, hx, hd⟩

theorem mem_allSensors {x : Sensor} (h : x.exists? = true) : x ∈ allSensors := by
  cases x with
  | shelf n =>
    have hn : 1 ≤ n ∧ n ≤ Config.shelfCount := by simpa [Sensor.exists?] using h
    refine List.mem_append_right _ (List.mem_map_of_mem (List.mem_range'.2 ⟨n - 1, ?_, ?_⟩))
    · exact Nat.sub_one_lt_of_le hn.1 hn.2
    · omega
  | _ => exact List.mem_append_left _ (by simp)

/-- The debounce of a sensor at a tick (R179). -/
theorem tick_sensor {s : State} {x : Sensor} {d : SensorState} {level : Bool}
    (hd : s.io.sensors[Sensor.index x]? = some d) (hl : s.io.inputs.sensors[Sensor.index x]? = some level) :
    s.tick.io.sensors[Sensor.index x]? = some (d.tick level) := by
  show (List.zipWith SensorState.tick s.io.sensors s.io.inputs.sensors)[Sensor.index x]? = _
  rw [List.getElem?_zipWith, hd, hl]

theorem tick_pending {s : State} (hp : s.pending = []) : s.tick.pending = s.countTick.dueRows := by
  show s.pending ++ s.countTick.dueRows = _
  rw [hp, List.nil_append]

/-- Settles O2: the branches of the idle moment, and the rows a tick makes due. -/
theorem idleQueuesMoveOrTicks : Obligations.IdleQueuesMoveOrTicks := by
  refine ⟨fun s hp => ⟨fun i hi => ?move, fun hc => ⟨fun hm hb hx => ?nothing, ?stands⟩, fun hm hb hx hc => ?tick⟩,
    fun s x d level hp hm hb hx hc hex hd hl => ?debounce⟩
  case move => rw [step_idle hp, idle_move hp hi]
  case nothing => rw [step_idle hp, idle_still hm hb hx, hc]; rfl
  case stands =>
    obtain ⟨hkept, hio, hcure, huntimed⟩ := idle_clock_stands hp hc
    exact ⟨_, step_idle hp, hkept, hio, hcure, fun h => huntimed _ h trivial, fun h => huntimed _ h trivial,
      fun l h => huntimed _ h trivial⟩
  case tick =>
    refine ⟨s.tick, by rw [step_idle hp, idle_still hm hb hx, if_pos hc], rfl, rfl, ?_⟩
    have hms : s.countTick.io.ms = (s.io.ms + 1) % 1000 := rfl
    have hchannels : s.countTick.io.inputs.channels = s.io.inputs.channels := rfl
    rw [tick_pending hp, mem_dueRows_timed (i := .secondTick) trivial, mem_dueRows_timed (i := .blinkToggle) trivial,
      mem_dueRows_timed (i := .samplingRound _) trivial, hms, hchannels]
    simp
  case debounce =>
    have htick := tick_sensor hd hl
    have hdue (b : Bool) : .sensorChange x b ∈ s.tick.pending ↔
        20 ≤ (d.tick level).run ∧ b = !(d.tick level).reading := by
      rw [tick_pending hp, mem_dueRows_sensor, sensorDue_eq]
      have hsame : s.countTick.io.sensors[Sensor.index x]? = some (d.tick level) := htick
      simp [hsame, mem_allSensors hex]
    refine ⟨s.tick, by rw [step_idle hp, idle_still hm hb hx, if_pos hc], fun h => ?_, fun h => ?_, fun h h19 => ?_,
      fun h hrun b => ?_⟩
    · rw [htick, SensorState.tick, if_pos h]
    · rw [htick, SensorState.tick, if_neg h]
    · rw [hdue, SensorState.tick, if_neg h]
      exact ⟨Nat.succ_le_succ h19, rfl⟩
    · rw [hdue, SensorState.tick, if_neg h]
      exact fun h20 => Nat.not_le.2 (Nat.succ_lt_succ hrun) h20.1

end Sys2Proof.Machine
end

section
/-! PROOF of what a link answers of its own, of the stack light, and of sensors and E-stop (O52, O53, O56, O59, O60). -/

namespace Sys2Proof.Machine

/-! ### A step that changes one link's frames alone -/

/-- No notice, no setting, no other link's frames and no part of the block changes. -/
structure LinkAlone (l : Link) (s u : State) : Prop where
  posted   : Posted s u []
  settings : SettingsKept s u
  others   : OthersKept l s u
  kept     : KeptBut s u []

theorem linkAlone_onLink {s : State} {l : Link} {f : LinkState → LinkState} (hq : (f (s.link l)).queue = (s.link l).queue)
    (hs : (f (s.link l)).subs = (s.link l).subs) (ht : (f (s.link l)).trigger = (s.link l).trigger) :
    LinkAlone l s (s.onLink l f).relight ∧ (s.onLink l f).relight.link l = f (s.link l) := by
  have same : (s.onLink l f).relight.link l = f (s.link l) := link_onLink_same s.links l f
  have other {k : Link} (hk : k ≠ l) : (s.onLink l f).relight.link k = s.link k := link_onLink_other s.links l k f hk
  have each (k : Link) {α : Type} (g : LinkState → α) (hg : g (f (s.link l)) = g (s.link l)) :
      g ((s.onLink l f).relight.link k) = g (s.link k) := by
    by_cases hk : k = l
    · rw [hk, same, hg]
    · rw [other hk]
  refine ⟨⟨⟨?_, fun k => ?_⟩, fun k => ⟨each k _ hs, each k _ ht⟩, fun k hk => by simp [other hk], fun p _ => ?_⟩, same⟩
  · show (s.links.onLink l f).serial = s.links.serial + BitVec.ofNat 32 0
    simp
  · exact each k LinkState.queue hq
  · cases p <;> rfl

/-- A frame that ends with an answer of the interface itself. -/
theorem linkAlone_frameEnded {s : State} (l : Link) (a : List Answer) :
    LinkAlone l s (s.onLink l fun x => { x.frameEnded with answers := x.answers ++ a }).relight ∧
      (s.onLink l fun x => { x.frameEnded with answers := x.answers ++ a }).relight.link l =
        { s.link l with reception := .searching, answers := (s.link l).answers ++ a } :=
  linkAlone_onLink (f := fun x => { x.frameEnded with answers := x.answers ++ a }) rfl rfl rfl

/-! ### Requests that are not taken (R164 to R166) -/

/-- The answer that the interface itself gives a request, if any. -/
def State.answersAlone (s : State) (q : Req) (code need : Nat) : Option (List Answer) :=
  let bare (w : Status) (level : Nat) (fields : List Field) : Answer :=
    { code := code, level := level, corr := q.corr, status := w, fields := fields }
  if (s.link q.link).answersFull then some []
  else if (s.link q.link).inService || q.overlaps then some [bare .linkBusy (s.strapped q.link) []]
  else if 3 < q.level then some [bare .format (s.strapped q.link) []]
  else if need < s.effective q then some [bare .level (s.effective q) [u1 need]]
  else none

theorem serve_alone {s : State} {q : Req} {code need : Nat} {l : List Answer} (owner : Nat → State → State × Reply)
    (h : s.answersAlone q code need = some l) :
    s.serve q code need owner = s.onLink q.link fun x => { x.frameEnded with answers := x.answers ++ l } := by
  have hlink : (s.onLink q.link LinkState.frameEnded).link q.link = (s.link q.link).frameEnded := link_frameEnded s _
  unfold State.answersAlone at h
  unfold State.serve
  dsimp only
  rw [hlink]
  have hfull : (s.link q.link).frameEnded.answersFull = (s.link q.link).answersFull := rfl
  have hbusy : (s.link q.link).frameEnded.inService = (s.link q.link).inService := rfl
  have heff : (s.onLink q.link LinkState.frameEnded).effective q = s.effective q := rfl
  have hstrap : (s.onLink q.link LinkState.frameEnded).strapped q.link = s.strapped q.link := rfl
  rw [hfull, hbusy, heff, hstrap]
  split at h
  · rename_i hf
    cases h
    rw [if_pos hf]
    exact onLink_congr (by simp [LinkState.frameEnded])
  rename_i hf
  rw [if_neg hf]
  split at h
  · rename_i hb
    cases h
    rw [if_pos hb, onLink_onLink]
    rfl
  rename_i hb
  rw [if_neg hb]
  split at h
  · rename_i hl
    cases h
    rw [if_pos hl, onLink_onLink]
    rfl
  rename_i hl
  rw [if_neg hl]
  split at h
  · rename_i hw
    cases h
    rw [if_pos hw, onLink_onLink]
    rfl
  · cases h

theorem request_alone {s : State} {q : Req} {code need : Nat} {l : List Answer} (owner : Nat → State → State × Reply)
    (h : s.answersAlone q code need = some l) : ∃ u, request q code need owner s = .next u ∧
      LinkAlone q.link s u ∧
      u.link q.link = { s.link q.link with reception := .searching, answers := (s.link q.link).answers ++ l } := by
  unfold request
  rw [serve_alone owner h]
  exact ⟨_, rfl, linkAlone_frameEnded q.link l⟩

/-- A request that the interface does not answer alone is taken. -/
theorem takes_of_answersAlone {s : State} {q : Req} {code need : Nat} (h : s.answersAlone q code need = none) :
    s.Takes q need := by
  unfold State.answersAlone at h
  split at h
  · cases h
  rename_i hf
  split at h
  · cases h
  rename_i hb
  split at h
  · cases h
  rename_i hl
  split at h
  · cases h
  rename_i hw
  obtain ⟨hidle, halone⟩ : (s.link q.link).inService = false ∧ q.overlaps = false := by simpa using hb
  have hroom := placesTaken_lt hf
  rw [placesTaken_idle hidle] at hroom
  exact ⟨hroom, hidle, halone, Nat.not_lt.1 hl, Nat.not_lt.1 hw⟩

theorem answersFull_iff {x : LinkState} : x.answersFull = true ↔
    8 ≤ x.answers.length + (if x.inService = true then 1 else 0) := by
  unfold LinkState.answersFull
  rw [decide_eq_true_eq]
  rfl

/-- The level a request needs of its link (11.3). -/
def neededLevel (code : Nat) : Nat :=
  if code ∈ [6, 10, 11, 12, 13, 14, 15, 17, 18, 19, 29, 30, 33, 43] then 0
  else if code ∈ [1, 2, 3, 5, 31] then 1
  else if code ∈ [4, 20, 21, 23, 24, 25, 26, 27, 28, 34, 36] then 2
  else 3

/-- Settles O53: the interface's own answers, in the order it judges a frame. -/
theorem interfaceAnswersUntakenRequest : Obligations.InterfaceAnswersUntakenRequest := by
  have room {s : State} {q : Req} (hlen : (s.link q.link).answers.length < 8)
      (hidle : (s.link q.link).inService = false) : (s.link q.link).answersFull = false := by
    rw [← Bool.not_eq_true, answersFull_iff, hidle]
    simpa using hlen
  refine ⟨fun i s q code body hi => ?_, fun i s q code body hi hlen hidle halone hlevel => ?_⟩
  · obtain ⟨owner, hexec, -⟩ := request_owner i q code body hi
    rw [hexec]
    have answered {l : List Answer} (h : s.answersAlone q code (neededLevel code) = some l) :=
      request_alone (code := code) owner h
    refine ⟨fun hfull => ?_, fun hroom hbusy => ?_, fun hlen hidle halone hlevel => ?_,
      fun hlen hidle halone hlevel hweak hcode => ?_⟩
    · obtain ⟨u, hu, h, hl⟩ := answered (l := []) (by rw [State.answersAlone, if_pos (answersFull_iff.2 hfull)])
      exact ⟨u, hu, by rw [hl]; simp, h.posted, h.settings, h.others, h.kept⟩
    · have hfull : ¬ (s.link q.link).answersFull = true := by rw [answersFull_iff]; omega
      obtain ⟨u, hu, h, hl⟩ := answered (by
        rw [State.answersAlone, if_neg hfull, if_pos (by simpa using hbusy)])
      exact ⟨u, hu, by rw [hl], h.posted, h.settings, h.others, h.kept⟩
    · obtain ⟨u, hu, h, hl⟩ := answered (by
        rw [State.answersAlone, if_neg (by simp [room hlen hidle]), if_neg (by simp [hidle, halone]), if_pos hlevel])
      exact ⟨u, hu, by rw [hl], h.posted, h.settings, h.others, h.kept⟩
    · have hneed : neededLevel code = 1 := by
        simp only [List.mem_cons, List.not_mem_nil, or_false] at hcode
        rcases hcode with rfl | rfl | rfl | rfl | rfl <;> rfl
      obtain ⟨u, hu, h, hl⟩ := answered (by
        rw [State.answersAlone, if_neg (by simp [room hlen hidle]), if_neg (by simp [hidle, halone]),
          if_neg (by omega), if_pos (by rw [hneed, State.effective, hweak]; decide)])
      refine ⟨u, hu, ?_, h.posted, h.settings, h.others, h.kept⟩
      rw [hl, State.effective, hweak, hneed]
  · obtain ⟨owner, hexec, -⟩ := request_owner i q code body hi
    intro need hweak
    rw [hexec]
    obtain ⟨u, hu, h, hl⟩ := request_alone (s := s) (q := q) (code := code) (need := need) owner (by
      rw [State.answersAlone, if_neg (by simp [room hlen hidle]), if_neg (by simp [hidle, halone]),
        if_neg (by omega), State.effective, if_pos hweak])
    refine ⟨u, hu, ⟨by rw [hl], by rw [hl]; exact hidle, by rw [hl]⟩, h.posted, h.kept⟩

/-! ### Requests that their owner refuses (R167) -/

/-- FinishRecipe without OK writes no block but the recipe store, and that only where it answers INVALID (R31). -/
theorem ownFinishRecipe_cases (slot : Nat) (s : State) : (ownFinishRecipe slot s).2.status = .ok ∨
    (ownFinishRecipe slot s).1 = s ∨
      (ownFinishRecipe slot s).2.status = .invalid ∧ ∃ y, (ownFinishRecipe slot s).1 = s.setSlot slot y := by
  unfold ownFinishRecipe
  split
  · exact .inr (.inl rfl)
  split
  · split
    · exact .inl rfl
    · exact .inr (.inr ⟨rfl, _, rfl⟩)
  · exact .inr (.inl rfl)

/-- The answer at the tail of a taken request's link is its owner's. -/
theorem answered_last {t : State} {q : Req} {code n : Nat} {r : Reply} {l : List Answer} {a : Answer}
    (h : ((t.answered q code n r).link q.link).answers = l ++ [a]) : a.status = r.status := by
  rw [link_answered, if_pos rfl] at h
  have := List.append_inj_right' (h : _ ++ [_] = _) rfl
  cases this
  rfl

theorem finishRecipe_of_code {i : Instr} {q : Req} {body : List Field} (h : requestParts i = some (q, 14, body)) :
    ∃ slot, i = .finishRecipe q slot := by
  cases i <;> simp only [requestParts, Option.some.injEq, Prod.mk.injEq, reduceCtorEq] at h
  case finishRecipe => exact ⟨_, by rw [h.1]⟩
  all_goals exact absurd h.2.1 (by decide)

/-- A taken request with what its owner makes of the block. -/
theorem request_outcome {s : State} {q : Req} {need : Nat} (code : Nat) (owner : Nat → State → State × Reply)
    {ks : List NoticeKind} {c : List Part} (h : s.Takes q need)
    (hh : Happened (s.inServiceOf q) (owner (max (s.strapped q.link) q.level) (s.inServiceOf q)).1 ks c) :
    let out := owner (max (s.strapped q.link) q.level) (s.inServiceOf q)
    Done s (out.1.answered q code (max (s.strapped q.link) q.level) out.2) q code out.2.status out.2.fields ks c :=
  (request_done code (owner := owner) (t := (owner (max (s.strapped q.link) q.level) (s.inServiceOf q)).1) h rfl hh).2

/-- Settles O52: the interface's own answers change one link's frames, and an owner that refuses hands back the state of
its service. -/
theorem refusedRequestChangesNothing : Obligations.RefusedRequestChangesNothing := by
  intro i s u q code body a hi hu hanswers hok hclamped
  have done {w : Status} {fields : List Field} {c : List Part} (h : Done s u q code w fields [] c)
      (hc : c ⊆ if code = 14 ∧ a.status = .invalid then [.recipes] else []) :
      Posted s u [] ∧ SettingsKept s u ∧ OthersKept q.link s u ∧
        KeptBut s u (if code = 14 ∧ a.status = .invalid then [.recipes] else []) :=
    ⟨h.2.1, h.2.2.1, h.2.2.2.1, h.2.2.2.2.mono hc⟩
  obtain ⟨owner, hexec, hrefusing⟩ := request_owner i q code body hi
  have hexec' : exec i s = request q code (neededLevel code) owner s := hexec s
  cases halone : s.answersAlone q code (neededLevel code) with
  | some l =>
    obtain ⟨v, hv, h, -⟩ := request_alone owner halone
    rw [hexec', hv] at hu
    cases hu
    exact ⟨h.posted, h.settings, h.others, h.kept.mono (List.nil_subset _)⟩
  | none =>
    have htakes := takes_of_answersAlone halone
    by_cases hcode : code = 14
    · subst hcode
      obtain ⟨slot, rfl⟩ := finishRecipe_of_code hi
      have hfinish : exec (.finishRecipe q slot) s = request q 14 0 (fun _ => ownFinishRecipe slot) s := rfl
      have htakes : s.Takes q 0 := htakes
      rw [hfinish, request_taken 14 _ htakes] at hu
      cases hu
      have hstatus := answered_last hanswers
      rcases ownFinishRecipe_cases slot (s.inServiceOf q) with hw | h | ⟨hw, f, h⟩
      · exact absurd (hstatus.trans hw) hok
      · have hh : Happened (s.inServiceOf q) (ownFinishRecipe slot (s.inServiceOf q)).1 [] [] := by
          rw [h]; exact Happened.refl _
        exact done (request_outcome 14 (fun _ => ownFinishRecipe slot) htakes hh) (List.nil_subset _)
      · have hh : Happened (s.inServiceOf q) (ownFinishRecipe slot (s.inServiceOf q)).1 [] [.recipes] := by
          rw [h]; exact happened_onRecipes _ _
        refine done (request_outcome 14 (fun _ => ownFinishRecipe slot) htakes hh) ?_
        rw [if_pos ⟨rfl, hstatus.trans hw⟩]
        exact List.Subset.refl _
    · rw [hexec', request_taken code _ htakes] at hu
      cases hu
      have hstatus := answered_last hanswers
      have h := hrefusing hcode (max (s.strapped q.link) q.level) (s.inServiceOf q) (by rw [← hstatus]; exact hok)
        (by rw [← hstatus]; exact hclamped)
      exact done (request_outcome code owner htakes (by rw [h]; exact Happened.refl _)) (List.nil_subset _)

/-! ### Frames at a link (R163 to R165) -/

/-- Settles O56: each event of a link changes its reception or its answer list alone. -/
theorem linkFramesAndAnswers : Obligations.LinkFramesAndAnswers := by
  intro s l cause q code kept
  have alone {u : State} {k : Link} (h : LinkAlone k s u) : kept u k := ⟨h.posted, h.settings, h.others, h.kept⟩
  have ended := linkAlone_onLink (s := s) (l := l) (f := LinkState.frameEnded) rfl rfl rfl
  refine ⟨fun hs => ?start, ⟨_, rfl, alone ended.1, ended.2⟩, ⟨_, rfl, alone ended.1, ended.2⟩,
    fun hlen hidle halone => ?bad, fun a rest ha hidle => ?sent⟩
  case start =>
    have h := linkAlone_onLink (s := s) (l := l) (f := fun x => { x with reception := .inFrame [] 0 }) rfl rfl rfl
    refine ⟨_, ?_, alone h.1, h.2⟩
    exact congrArg event (onLink_congr (by simp [hs]))
  case bad =>
    have hfull : ¬ (s.link q.link).frameEnded.answersFull = true := by
      show ¬ (s.link q.link).answersFull = true
      rw [answersFull_iff, hidle]
      simpa using hlen
    have hbusy : ((s.link q.link).frameEnded.inService || q.overlaps) = false := by
      rw [halone, Bool.or_false]
      exact hidle
    have h := linkAlone_frameEnded (s := s) q.link
      [{ code := code, level := s.strapped q.link, corr := q.corr, status := .format, fields := [] }]
    refine ⟨_, ?_, alone h.1, h.2⟩
    refine congrArg event ?_
    unfold State.badFrame
    dsimp only
    rw [link_frameEnded, if_neg hfull, hbusy, if_neg Bool.false_ne_true, onLink_onLink]
    rfl
  case sent =>
    have h := linkAlone_onLink (s := s) (l := l) (f := fun x => { x with answers := rest }) rfl rfl rfl
    refine ⟨_, ?_, alone h.1, h.2⟩
    exact congrArg event (onLink_congr (by simp [hidle, ha]))

/-! ### The stack light (R182) -/

/-- Every command leaves the lamps as the state of the line sets them. -/
theorem exec_lampsOk {i : Instr} {s u : State} (h : exec i s = .next u) : u.LampsOk := by
  have lit (v : State) : v.relight.LampsOk := ⟨rfl, rfl, rfl⟩
  cases hi : requestParts i with
  | none =>
    obtain ⟨v, -, hv⟩ := exec_happening hi s
    rw [hv] at h
    cases h
    exact lit v
  | some x =>
    obtain ⟨need, owner, hx, -⟩ := request_effects (q := x.1) (code := x.2.1) (body := x.2.2) hi
    rw [hx] at h
    cases h
    exact lit _

theorem greenLamp_iff (s : State) :
    (s.greenLamp = .blinking ↔ s.mode = .drain) ∧ (s.greenLamp = .steady ↔ s.mode = .run) := by
  unfold State.greenLamp State.mode
  cases s.table.mode <;> simp

theorem freeSlots_zero (s : State) : s.freeSlots = 0 ↔ ∀ x ∈ s.holds.shelf, x ≠ .free := by
  unfold State.freeSlots
  rw [List.countP_eq_zero]
  simp

theorem held_iff_open (s : State) : s.anyTraveler Traveler.held = true ↔
    ∃ r, some r ∈ s.table.records ∧ ∃ h ∈ r.holds, h.state = .isOpen := by
  unfold State.anyTraveler Traveler.held
  constructor
  · intro h
    obtain ⟨o, ho, hr⟩ := List.any_eq_true.1 h
    cases o with
    | none => cases hr
    | some r => exact ⟨r, ho, by simpa using hr⟩
  · rintro ⟨r, hr, h⟩
    exact List.any_eq_true.2 ⟨some r, hr, by simpa using h⟩

theorem amberLamp_iff (s : State) :
    (s.amberLamp = .blinking ↔ (∀ x ∈ s.holds.shelf, x ≠ .free) ∨ s.cure.stalled = true) ∧
      (s.amberLamp = .steady ↔ (∃ x ∈ s.holds.shelf, x = .free) ∧ s.cure.stalled = false ∧
        ∃ r, some r ∈ s.table.records ∧ ∃ h ∈ r.holds, h.state = .isOpen) := by
  have hsome : (∃ x ∈ s.holds.shelf, x = .free) ↔ s.freeSlots ≠ 0 := by
    rw [Ne, freeSlots_zero]
    simp
  rw [← freeSlots_zero, ← held_iff_open, hsome]
  unfold State.amberLamp
  by_cases h0 : s.freeSlots = 0 <;> cases hs : s.cure.stalled <;> cases ha : s.anyTraveler Traveler.held <;> simp [h0]

theorem redLamp_iff (s : State) :
    (s.redLamp = .blinking ↔ s.mode = .halt ∧ (s.table.cause = some .jam ∨ s.table.cause = some .gantry)) ∧
      (s.redLamp = .steady ↔ s.mode = .halt ∧ (s.table.cause = some .estop ∨ s.table.cause = some .request)) := by
  unfold State.redLamp State.mode
  cases s.table.mode with
  | halt =>
    cases s.table.cause with
    | none => simp
    | some c => cases c <;> simp
  | _ => simp

/-- Settles O59: the lamps by the table of R182 from the state that a command leaves, and the blink phase. -/
theorem stackLightFollowsLine : Obligations.StackLightFollowsLine := by
  refine ⟨fun i s u h => ?_, fun s => ?_, fun phase => ⟨rfl, rfl, rfl⟩⟩
  · obtain ⟨hgreen, hamber, hred⟩ := exec_lampsOk h
    rw [hgreen, hamber, hred]
    exact ⟨(greenLamp_iff u).1, (greenLamp_iff u).2, (amberLamp_iff u).1, (amberLamp_iff u).2, (redLamp_iff u).1,
      (redLamp_iff u).2⟩
  · obtain ⟨u, hu, h⟩ := event_done (happened_onIo s fun io => { io with blinkOn := !io.blinkOn })
    refine ⟨u, hu, h, ?_⟩
    cases hu
    refine ⟨rfl, rfl, fun ⟨hgreen, hamber, hred⟩ => ?_⟩
    show { s.io.outputs with green := s.greenLamp, amber := s.amberLamp, red := s.redLamp } = s.io.outputs
    rw [← hgreen, ← hamber, ← hred]

/-! ### Sensors and the E-stop input (R110, R179, R181) -/

theorem sensorIndex_lt {x : Sensor} (h : x.exists? = true) : Sensor.index x < 24 := by
  cases x with
  | shelf n =>
    have hn : 1 ≤ n ∧ n ≤ Config.shelfCount := by simpa [Sensor.exists?] using h
    have h16 : n ≤ 16 := hn.2
    show 8 + n - 1 < 24
    omega
  | _ => decide

theorem sensorIndex_inj {x y : Sensor} (hx : x.exists? = true) (hy : y.exists? = true)
    (h : Sensor.index x = Sensor.index y) : x = y := by
  have slot {n : Nat} (hn : Sensor.exists? (.shelf n) = true) : 1 ≤ n ∧ Sensor.index (.shelf n) = 8 + n - 1 :=
    ⟨by have : 1 ≤ n ∧ n ≤ Config.shelfCount := by simpa [Sensor.exists?] using hn
        exact this.1, rfl⟩
  have line {n : Nat} {y : Sensor} (hn : Sensor.exists? (.shelf n) = true) (hy : Sensor.index y < 8) :
      Sensor.index (.shelf n) ≠ Sensor.index y := by
    have := slot hn
    omega
  cases x <;> cases y
  case shelf.shelf n m =>
    have hn := slot hx
    have hm := slot hy
    rw [hn.2, hm.2] at h
    congr 1
    omega
  case shelf.queueHead | shelf.preArrival | shelf.cellArrival | shelf.flashEntry | shelf.flashEnd
      | shelf.accumulatorHead | shelf.postArrival | shelf.outfeedExit => exact absurd h (line hx (by decide))
  case queueHead.shelf | preArrival.shelf | cellArrival.shelf | flashEntry.shelf | flashEnd.shelf
      | accumulatorHead.shelf | postArrival.shelf | outfeedExit.shelf => exact absurd h.symm (line hy (by decide))
  all_goals revert h; decide

theorem occupied_setSensor (s : State) {x y : Sensor} (level : Bool) (hx : x.exists? = true) (hy : y.exists? = true)
    (hlen : s.io.sensors.length = 24) : (s.onIo (·.setSensor x level)).occupied y = if y = x then level else s.occupied y := by
  have hlt : Sensor.index x < s.io.sensors.length := hlen.symm ▸ sensorIndex_lt hx
  show (match (s.io.sensors.set (Sensor.index x) _)[Sensor.index y]? with | none => false | some d => d.reading) = _
  rw [List.getElem?_set]
  by_cases h : y = x
  · subst h
    simp [hlt]
  · rw [if_neg fun h' => h (sensorIndex_inj hx hy h').symm, if_neg h]
    rfl

theorem closeValve_none {s : State} (h : s.engine.valve = none) : s.closeValve = s := by
  unfold State.closeValve
  rw [h]

/-- Settles O60: the change of one debounced reading with the end stop it raises, and the E-stop input. -/
theorem sensorsAndEstopRecognised : Obligations.SensorsAndEstopRecognised := by
  refine ⟨fun s x level hx hlen => ⟨fun hne => ?changed, fun he => ?same⟩, fun s => ⟨fun hr hvalve => ?assertion, fun ha => ?release⟩⟩
  case changed =>
    have hreading (y : Sensor) := occupied_setSensor s (y := y) level hx
    have hset := happened_onIo s (·.setSensor x level)
    have hexec : exec (.sensorChange x level) s = execSensorChange x level s := rfl
    rw [hexec, execSensorChange, if_neg hne]
    by_cases hstop : x = .flashEnd ∧ level = false
    · obtain ⟨u, hu, hp, hs, hf, hk⟩ := event_done (hset.then rfl (happened_onCure _ fun c => { c with stopUp := true })
        (e := [.cure, .clock]) (by decide))
      refine ⟨u, by rw [if_pos hstop]; exact hu, hp, hs, hf, hk.mono (by simp), ?_⟩
      cases hu
      refine ⟨?_, fun y hy hyx => ?_, rfl, by rw [if_pos hstop]; rfl⟩
      · exact (hreading x hx hlen).trans (if_pos rfl)
      · exact (hreading y hy hlen).trans (if_neg hyx)
    · obtain ⟨u, hu, hp, hs, hf, hk⟩ := event_done hset
      refine ⟨u, by rw [if_neg hstop]; exact hu, hp, hs, hf, hk.mono (by simp), ?_⟩
      cases hu
      refine ⟨?_, fun y hy hyx => ?_, rfl, by rw [if_neg hstop]; rfl⟩
      · exact (hreading x hx hlen).trans (if_pos rfl)
      · exact (hreading y hy hlen).trans (if_neg hyx)
  case same =>
    have hexec : exec (.sensorChange x level) s = execSensorChange x level s := rfl
    rw [hexec, execSensorChange, if_pos he]
    exact event_done (Happened.refl s)
  case assertion =>
    have hexec : exec .estopAssertion s = execEstopAssertion s := rfl
    rw [hexec, execEstopAssertion, if_neg (by simp [hr]),
      closeValve_none (s := s.onIo fun io =>
        { io with estop := true, estopHanded := true, estopRun := 0, inputs := { io.inputs with estopLow := true } })
        hvalve]
    obtain ⟨u, hu, h⟩ := event_done (happened_onIo s fun io =>
      { io with estop := true, estopHanded := true, estopRun := 0, inputs := { io.inputs with estopLow := true } })
    refine ⟨u, hu, h, ?_⟩
    cases hu
    exact ⟨rfl, rfl, rfl, rfl, rfl, rfl⟩
  case release =>
    have hexec : exec .estopRelease s = execEstopRelease s := rfl
    rw [hexec, execEstopRelease, if_pos ha]
    obtain ⟨u, hu, h⟩ := event_done (happened_onIo s fun io =>
      { io with estop := false, estopRun := 0, inputs := { io.inputs with estopLow := false } })
    refine ⟨u, hu, h, ?_⟩
    cases hu
    exact ⟨rfl, rfl, rfl, rfl, rfl, rfl⟩

end Sys2Proof.Machine
end

section
/-! PROOF of the notices and notice settings of a link (O57, O58). -/

namespace Sys2Proof.Machine

/-! ### A request that changes the notice state of its own link -/

/-- In `u` the requesting link is what `f` makes of it in service, with the answer placed; every other link and the serial
counter are as in `s`. -/
structure NoticeEdit (s u : State) (q : Req) (f : LinkState → LinkState) : Prop where
  own    : ∃ a, u.link q.link = (f { s.link q.link with reception := .searching, inService := true }).finish a
  others : ∀ l, l ≠ q.link → u.link l = s.link l
  serial : u.links.serial = s.links.serial

theorem NoticeEdit.framesOfOthers {s u : State} {q : Req} {f : LinkState → LinkState} (h : NoticeEdit s u q f) :
    OthersKept q.link s u := fun l hl => by simp [h.others l hl]

/-- A taken request whose owner accepts with its own link's notice state written. -/
theorem request_onLink {s v : State} {q : Req} {need : Nat} (code : Nat) {owner : Nat → State → State × Reply}
    {f : LinkState → LinkState} {fields : List Field} {c : List Part} (h : s.Takes q need)
    (ho : owner (max (s.strapped q.link) q.level) (s.inServiceOf q) = accept v fields)
    (hl : v.links = (s.inServiceOf q).links.onLink q.link f) (hk : KeptBut s v c)
    (hf : ∀ x, (f x).answers = x.answers ∧ (f x).reception = x.reception) :
    ∃ u, request q code need owner s = .next u ∧ Answered s u q code .ok fields ∧ KeptBut s u c ∧
      NoticeEdit s u q f ∧ u.table = v.table := by
  have hv : v.link q.link = f { s.link q.link with reception := .searching, inService := true } := by
    have : (s.inServiceOf q).links.link q.link = _ := (link_inServiceOf s q q.link).trans (if_pos rfl)
    rw [State.link, hl, link_onLink_same, this]
  have hkept : KeptBut v (v.answered q code (max (s.strapped q.link) q.level) (accept v fields).2) [] := by
    intro p _
    cases p <;> rfl
  refine ⟨v.answered q code (max (s.strapped q.link) q.level) (accept v fields).2,
    by rw [request_taken code owner h, ho]; rfl, ⟨?_, ?_, ?_⟩, by simpa using hk.trans hkept,
    ⟨⟨⟨code, max (s.strapped q.link) q.level, q.corr, .ok, fields⟩, ?_⟩, fun l hn => ?_, ?_⟩, rfl⟩
  · rw [link_answered, if_pos rfl, hv, LinkState.finish, (hf _).1]
    rfl
  · rw [link_answered, if_pos rfl]
    rfl
  · rw [link_answered, if_pos rfl, hv, LinkState.finish, (hf _).2]
  · rw [link_answered, if_pos rfl, hv]
    rfl
  · rw [link_answered, if_neg hn, State.link, hl, link_onLink_other _ _ _ _ hn]
    exact (link_inServiceOf s q l).trans (if_neg hn)
  · rw [answered_serial, hl]
    simp

/-! ### Subscribe and SetTrigger (R171, R173) -/

theorem ofCode_code (c : NoticeClass) : NoticeClass.ofCode c.code = some c := by cases c <;> rfl

theorem readClasses_codes (named : List NoticeClass) : readClasses (named.map NoticeClass.code) = some named := by
  induction named with
  | nil => rfl
  | cons c rest ih => simp [readClasses, ofCode_code, ih]

theorem ofCode_outside {n : Nat} (h : 5 < n) : NoticeClass.ofCode n = none := by
  unfold NoticeClass.ofCode
  split <;> simp_all

theorem readClasses_outside {words : List Nat} (h : ∃ c ∈ words, 5 < c) : readClasses words = none := by
  induction words with
  | nil => simp at h
  | cons n rest ih =>
    obtain ⟨c, hc, h5⟩ := h
    unfold readClasses
    rcases List.mem_cons.1 hc with rfl | hc
    · rw [ofCode_outside h5]
    · rw [ih ⟨c, hc, h5⟩]
      cases NoticeClass.ofCode n <;> rfl

theorem mem_allClasses (c : NoticeClass) : c ∈ allClasses := by cases c <;> decide

theorem nextSubs_spec {mode : Nat} (h : mode ≤ 1) (subs named : List NoticeClass) :
    ∃ l, nextSubs mode subs named = some l ∧
      ∀ c, c ∈ l ↔ if mode = 0 then c ∈ subs ∨ c ∈ named else c ∈ subs ∧ c ∉ named := by
  match mode, h with
  | 0, _ => exact ⟨_, rfl, fun c => by simp [List.mem_filter, mem_allClasses]⟩
  | 1, _ => exact ⟨_, rfl, fun c => by simp [List.mem_filter, mem_allClasses]⟩

theorem nextSubs_outside {mode : Nat} (h : 1 < mode) (subs named : List NoticeClass) : nextSubs mode subs named = none := by
  match mode, h with
  | _ + 2, _ => rfl

theorem link_inService (s : State) (q : Req) :
    (s.inServiceOf q).link q.link = { s.link q.link with reception := .searching, inService := true } :=
  (link_inServiceOf s q q.link).trans (if_pos rfl)

theorem wantsAttention_iff (x : LinkState) : x.wantsAttention = true ↔
    x.trigger ≤ x.queue.length ∨ ∃ n ∈ x.queue, n.kind.cls = .alarm := by
  simp [LinkState.wantsAttention]

theorem subscribe_refused {s : State} {q : Req} {mode : Nat} {words : List Nat} (h : s.Takes q 3)
    (hr : readClasses words = none ∨ ∃ named, readClasses words = some named ∧ 1 < mode) :
    ∃ u, exec (.subscribe q mode words) s = .next u ∧ Done s u q 37 .invalid [] [] [] := by
  refine refused 37 (owner := fun _ => ownSubscribe q.link mode words) h ?_
  unfold ownSubscribe
  rcases hr with hr | ⟨named, hr, hm⟩
  · rw [hr]
    rfl
  · rw [hr]
    simp only [nextSubs_outside hm]
    rfl

/-! ### Restart (R70, R175) -/

theorem claimsAt_none {s : State} {l : Link} {x : Station} (h : s.record x = none) : s.claimsAt l x = none := by
  rw [State.claimsAt, h]

theorem claimsAt_live {s : State} {l : Link} {x : Station} {i : Inspection} {r : Traveler} (hi : s.record x = some i)
    (hr : s.traveler i.traveler = some r) :
    s.claimsAt l x = if r.claim = some l then some i.traveler else none := by
  simp [State.claimsAt, hi, hr]

theorem dropClaim_none {s : State} {l : Link} {x : Station} (h : s.claimsAt l x = none) : s.dropClaim l x = s := by
  rw [State.dropClaim, h]

theorem dropClaim_live {s : State} {l : Link} {x : Station} {i : Inspection} {r : Traveler} (hi : s.record x = some i)
    (hr : s.traveler i.traveler = some r) (hc : r.claim = some l) :
    s.dropClaim l x = s.setTraveler i.traveler { r with claim := none } := by
  rw [State.dropClaim, claimsAt_live hi hr, if_pos hc]
  exact onTraveler_live _ hr

theorem happened_dropClaim (s : State) (l : Link) (x : Station) : Happened s (s.dropClaim l x) [] [.table] := by
  unfold State.dropClaim
  split
  · exact (Happened.refl s).mono (by simp)
  · exact happened_onTraveler _ _ _

theorem dropClaim_links (s : State) (l : Link) (x : Station) : (s.dropClaim l x).links = s.links := by
  unfold State.dropClaim
  split
  · rfl
  · exact onTraveler_links _ _ _

theorem now_dropClaim (s : State) (l : Link) (x : Station) : (s.dropClaim l x).now = s.now := by
  unfold State.dropClaim
  split
  · rfl
  · exact now_onTraveler _ _ _

/-- The block after both claims of a link are dropped. -/
def State.claimsDropped (s : State) (l : Link) : State := (s.dropClaim l .pre).dropClaim l .post

/-- The number of stations at which a link holds the claim. -/
def State.claimCount (s : State) (l : Link) : Nat :=
  (if (s.claimsAt l .pre).isSome then 1 else 0) + (if (s.claimsAt l .post).isSome then 1 else 0)

theorem claimsDropped_none {s : State} {l : Link} (h : ∀ x, s.claimsAt l x = none) :
    s.claimCount l = 0 ∧ s.claimsDropped l = s := by
  refine ⟨by simp [State.claimCount, h], ?_⟩
  rw [State.claimsDropped, dropClaim_none (h .pre), dropClaim_none (h .post)]

/-- With a record at one station alone, one claim at most is dropped. -/
theorem claimsDropped_one {s : State} {l : Link} {x y : Station} {i : Inspection} {r : Traveler} (hxy : x ≠ y)
    (hi : s.record x = some i) (hy : s.record y = none) (hr : s.traveler i.traveler = some r) (hc : r.claim = some l) :
    s.claimCount l = 1 ∧ s.claimsDropped l = s.setTraveler i.traveler { r with claim := none } := by
  have hx : s.claimsAt l x = some i.traveler := (claimsAt_live hi hr).trans (if_pos hc)
  have hn : s.claimsAt l y = none := claimsAt_none hy
  cases x <;> cases y <;> try exact absurd rfl hxy
  · refine ⟨by simp [State.claimCount, hx, hn], ?_⟩
    rw [State.claimsDropped, dropClaim_live hi hr hc]
    exact dropClaim_none (claimsAt_none hy)
  · refine ⟨by simp [State.claimCount, hx, hn], ?_⟩
    rw [State.claimsDropped, dropClaim_none hn]
    exact dropClaim_live hi hr hc

/-- With both stations' boards claimed, both claims are dropped. -/
theorem claimsDropped_both {s : State} {l : Link} {i j : Inspection} {r k : Traveler} (hi : s.record .pre = some i)
    (hj : s.record .post = some j) (hij : i.traveler ≠ j.traveler) (hr : s.traveler i.traveler = some r)
    (hk : s.traveler j.traveler = some k) (hrc : r.claim = some l) (hkc : k.claim = some l) :
    s.claimCount l = 2 ∧ s.claimsDropped l =
      (s.setTraveler i.traveler { r with claim := none }).setTraveler j.traveler { k with claim := none } := by
  have hpre : s.claimsAt l .pre = some i.traveler := (claimsAt_live hi hr).trans (if_pos hrc)
  have hpost : s.claimsAt l .post = some j.traveler := (claimsAt_live hj hk).trans (if_pos hkc)
  refine ⟨by simp [State.claimCount, hpre, hpost], ?_⟩
  rw [State.claimsDropped, dropClaim_live hi hr hrc]
  exact dropClaim_live (s := s.setTraveler i.traveler _) hj
    ((traveler_setTraveler_other _ _ _ _ (Ne.symm hij)).trans hk) hkc

theorem traveler_of_table {u v : State} (h : u.table = v.table) (t : Nat) : u.traveler t = v.traveler t := by
  rw [State.traveler, h]
  rfl

/-- Settles O58: each request writes the notice state of its own link; Restart also drops that link's claims. -/
theorem noticeSettingsChange : Obligations.NoticeSettingsChange := by
  refine ⟨fun s q named h hlen => ⟨fun mode hm => ?subscribe, fun mode hm => ?badMode, fun mode words hw => ?badClass⟩,
    fun s q k h => ⟨fun h1 h32 => ?trigger, fun hk => ?badTrigger⟩, fun s q h => ?restart⟩
  case subscribe =>
    obtain ⟨l, hl, hmem⟩ := nextSubs_spec hm (s.link q.link).subs named
    have ho : ownSubscribe q.link mode (named.map NoticeClass.code) (s.inServiceOf q) =
        accept ((s.inServiceOf q).onLink q.link fun x => { x with subs := l }) (classFields l) := by
      rw [ownSubscribe, readClasses_codes, link_inService]
      simp only [hl]
      rw [if_neg (by rw [List.length_map]; omega)]
    obtain ⟨u, hu, ha, hk, he, -⟩ := request_onLink 37 (owner := fun _ => ownSubscribe q.link mode _)
      (f := fun x => { x with subs := l }) h ho rfl (KeptBut.refl s []) fun x => ⟨rfl, rfl⟩
    obtain ⟨a, hown⟩ := he.own
    have hsubs : (u.link q.link).subs = l := by rw [hown]; rfl
    exact ⟨u, hu, by rw [hsubs]; exact ha, hk, he.framesOfOthers, he.serial, fun c => by rw [hsubs]; exact hmem c,
      by rw [hown]; rfl, by rw [hown]; rfl, he.others⟩
  case badMode => exact subscribe_refused h (.inr ⟨_, readClasses_codes named, hm⟩)
  case badClass => exact subscribe_refused h (.inl (readClasses_outside hw))
  case trigger =>
    have ho : ownSetTrigger q.link k (s.inServiceOf q) =
        accept ((s.inServiceOf q).onLink q.link fun x => LinkState.judge { x with trigger := k })
          [u1 (s.link q.link).queue.length] := by
      have hw : within 1 Config.noticeCapacity k = true := within_iff.2 ⟨h1, h32⟩
      rw [ownSetTrigger, hw, link_inService]
      rfl
    obtain ⟨u, hu, ha, hkept, he, -⟩ := request_onLink 40 (owner := fun _ => ownSetTrigger q.link k)
      (f := fun x => LinkState.judge { x with trigger := k }) h ho rfl (KeptBut.refl s []) fun x => ⟨rfl, rfl⟩
    obtain ⟨a, hown⟩ := he.own
    refine ⟨u, hu, ha, hkept, ⟨by rw [he.serial]; simp, fun l => ?_⟩, by rw [hown]; rfl, by rw [hown]; rfl, ?_, he.others⟩
    · by_cases hl : l = q.link
      · subst hl
        rw [hown]
        rfl
      · rw [he.others l hl]
        rfl
    · rw [hown]
      exact wantsAttention_iff _
  case badTrigger =>
    have hw : within 1 Config.noticeCapacity k = false := by
      rw [Bool.eq_false_iff, ne_eq, within_iff]
      have : Config.noticeCapacity = 32 := rfl
      omega
    exact refused 40 (owner := fun _ => ownSetTrigger q.link k) h (by rw [ownSetTrigger, hw]; rfl)
  case restart =>
    let v := (s.inServiceOf q).onLink q.link LinkState.restart
    have hrecord (x : Station) : v.record x = s.record x := rfl
    have hlinks : (v.claimsDropped q.link).links = v.links := by
      rw [State.claimsDropped, dropClaim_links, dropClaim_links]
    have hkept : KeptBut s (v.claimsDropped q.link) [.table] :=
      ((happened_dropClaim v q.link .pre).then (now_dropClaim _ _ _) (happened_dropClaim _ q.link .post) (by simp)).2.2.2
    obtain ⟨u, hu, ha, hk, he, ht⟩ := request_onLink 41 (owner := fun _ => ownRestart q.link)
      (fields := [u1 (s.claimCount q.link)]) h rfl hlinks hkept fun x => ⟨rfl, rfl⟩
    obtain ⟨a, hown⟩ := he.own
    have ht : u.table = (v.claimsDropped q.link).table := ht
    have quiet (hno : ∀ x, s.claimsAt q.link x = none) : s.claimCount q.link = 0 ∧ u.table = s.table :=
      ⟨(claimsDropped_none hno).1, by rw [ht, (claimsDropped_none (s := v) hno).2]; rfl⟩
    refine ⟨u, s.claimCount q.link, hu, ha, hk, by rw [hown]; rfl, by rw [hown]; rfl, by rw [hown]; rfl,
      by rw [hown]; rfl, by rw [hown]; rfl, he.serial, he.others, fun hpre hpost => quiet fun x => ?_,
      fun x y i t r hxy hi hy hit hr => ?_, fun i j r k hi hj hij hr hkt hrc hkc => ?_⟩
    · exact claimsAt_none (by cases x <;> assumption)
    · subst hit
      refine ⟨fun hc => ?_, fun hc => quiet fun z => ?_⟩
      · obtain ⟨hcount, hdrop⟩ := claimsDropped_one (s := v) hxy hi hy hr hc
        refine ⟨hcount, ?_, fun m hm => ?_⟩
        · rw [traveler_of_table ht, hdrop]
          exact traveler_setTraveler_same _ hr
        · rw [traveler_of_table ht, hdrop]
          exact traveler_setTraveler_other _ _ _ _ hm
      · by_cases hz : z = x
        · subst hz
          exact (claimsAt_live hi hr).trans (if_neg hc)
        · have : z = y := by cases x <;> cases y <;> cases z <;> simp_all
          exact claimsAt_none (this ▸ hy)
    · obtain ⟨hcount, hdrop⟩ := claimsDropped_both (s := v) hi hj hij hr hkt hrc hkc
      have hother := traveler_setTraveler_other (s := v) i.traveler j.traveler { r with claim := none } (Ne.symm hij)
      refine ⟨hcount, ?_, ?_, fun m hmi hmj => ?_⟩
      · rw [traveler_of_table ht, hdrop, traveler_setTraveler_other _ _ _ _ hij]
        exact traveler_setTraveler_same _ hr
      · rw [traveler_of_table ht, hdrop]
        exact traveler_setTraveler_same _ (hother.trans hkt)
      · rw [traveler_of_table ht, hdrop, traveler_setTraveler_other _ _ _ _ hmj]
        exact traveler_setTraveler_other _ _ _ _ hmi

/-! ### Take and the posting of a notice (R169, R170, R172, R174) -/

/-- Of short notices, as many fit as are asked for or queued. -/
theorem fitting_short {n room : Nat} {l : List Notice} (hl : ∀ x ∈ l, x.size ≤ 250) (hroom : 250 * n ≤ room) :
    fitting n room l = min n l.length := by
  induction n generalizing room l with
  | zero => simp [fitting]
  | succ n ih =>
    cases l with
    | nil => simp [fitting]
    | cons x rest =>
      have hx := hl x (by simp)
      rw [fitting, if_pos (by omega), ih (fun y hy => hl y (by simp [hy])) (by omega)]
      simp only [List.length_cons]
      omega

theorem start_inDrain {s : State} (hm : s.mode = .drain) (hpre : s.mask.pre = none) :
    ownStart s = accept (s.setMode .run none none) := by
  unfold ownStart
  rw [hm]
  simp only [State.run, decidePre_none (s := s.setMode .run none none) hpre]

/-- What an offered notice leaves of a link's queue, marker and attention output. -/
theorem offered_spec (x : LinkState) (n : Notice) :
    (n.kind.cls ∈ x.subs → x.queue.length < 32 → (x.offer n).queue = x.queue ++ [n] ∧ (x.offer n).overrun = x.overrun ∧
      (x.offer n).attention =
        (decide (x.trigger ≤ x.queue.length + 1) || (x.queue ++ [n]).any fun m => m.kind.cls == .alarm)) ∧
      (n.kind.cls ∈ x.subs → 32 ≤ x.queue.length → (x.offer n).queue = x.queue ∧ (x.offer n).overrun = true) ∧
      (n.kind.cls ∉ x.subs → x.offer n = x) := by
  unfold LinkState.offer
  refine ⟨fun hs hq => ?_, fun hs hq => ?_, fun hs => ?_⟩
  · rw [if_pos (by simpa using hs), if_pos (show x.queue.length < Config.noticeCapacity from hq)]
    simp [LinkState.judge, LinkState.wantsAttention]
  · rw [if_pos (by simpa using hs), if_neg (show ¬ x.queue.length < Config.noticeCapacity from Nat.not_lt.2 hq)]
    exact ⟨rfl, rfl⟩
  · rw [if_neg (by simpa using hs)]

/-- The notice state of every link after a request that posts one notice. -/
theorem answered_offered (s : State) (q : Req) (code level : Nat) (r : Reply) (m : LineMode) (l : Link) :
    let n : Notice := { serial := s.links.serial + 1, stamp := s.now, kind := .modeChanged s.mode m }
    let x := (((s.inServiceOf q).setMode m none none).answered q code level r).link l
    x.queue = ((s.link l).offer n).queue ∧ x.overrun = ((s.link l).offer n).overrun ∧
      x.attention = ((s.link l).offer n).attention := by
  have hserial := inServiceOf_serial s q
  dsimp only
  rw [link_answered]
  have hpost : ((s.inServiceOf q).setMode m none none).link l = ((s.inServiceOf q).link l).offer
      { serial := s.links.serial + 1, stamp := s.now, kind := .modeChanged s.mode m } := by
    rw [← hserial]
    exact post_link ((s.inServiceOf q).onTable _) _ l
  rw [hpost, link_inServiceOf]
  by_cases hl : l = q.link
  · rw [if_pos hl, if_pos hl]
    unfold LinkState.offer
    dsimp only
    split
    · split <;> exact ⟨rfl, rfl, rfl⟩
    · exact ⟨rfl, rfl, rfl⟩
  · rw [if_neg hl, if_neg hl]
    exact ⟨rfl, rfl, rfl⟩

/-- Settles O57: what an offer does to each link, seen at Start in DRAIN, and Take. -/
theorem noticePostedToSubscribers : Obligations.NoticePostedToSubscribers := by
  refine ⟨fun s q h hm hpre => ?posted, fun s q n h => ⟨fun hn => ?badCount, fun h1 h8 hshort => ?taken⟩⟩
  case posted =>
    have ho := start_inDrain (s := s.inServiceOf q) hm hpre
    refine ⟨_, (request_done 2 (owner := fun _ => ownStart) h ho (happened_setMode _ _ _ _)).1, ?_, fun l => ?_⟩
    · rw [answered_serial]
      show (s.inServiceOf q).links.serial + 1 = _
      rw [inServiceOf_serial]
    · obtain ⟨hqueue, hover, hatt⟩ := answered_offered s q 2 (max (s.strapped q.link) q.level) { status := .ok, fields := [] } .run l
      rw [hm] at hqueue hover hatt
      obtain ⟨hroom, hfull, hnot⟩ := offered_spec (s.link l)
        { serial := s.links.serial + 1, stamp := s.now, kind := .modeChanged .drain .run }
      dsimp only
      rw [hqueue, hover, hatt]
      refine ⟨fun hs hq => ?_, hfull, fun hs => ?_⟩
      · obtain ⟨ha, hb, hc⟩ := hroom hs hq
        refine ⟨ha, hb, hc.trans ?_⟩
        rw [List.any_append]
        exact congrArg _ (Bool.or_false _)
      · rw [hnot hs]
        exact ⟨rfl, rfl, rfl⟩
  case badCount =>
    have hw : within 1 8 n = false := by
      rw [Bool.eq_false_iff, ne_eq, within_iff]
      omega
    exact refused 38 (owner := fun _ => ownTake q.link n) h (by rw [ownTake, hw]; rfl)
  case taken =>
    dsimp only
    have hfit : fitting n (Config.bodyCapacity - takeHead) (s.link q.link).queue = min n (s.link q.link).queue.length :=
      fitting_short hshort (by show 250 * n ≤ 2048 - 4; omega)
    have ho : ownTake q.link n (s.inServiceOf q) =
        accept ((s.inServiceOf q).onLink q.link fun x =>
            LinkState.judge { x with queue := x.queue.drop (min n (s.link q.link).queue.length), overrun := false })
          ([u1 (min n (s.link q.link).queue.length),
              u1 ((s.link q.link).queue.length - min n (s.link q.link).queue.length),
              .word (markCode (s.link q.link).overrun)] ++
            ((s.link q.link).queue.take (min n (s.link q.link).queue.length)).flatMap Notice.fields) := by
      rw [ownTake, within_iff.2 ⟨h1, h8⟩, link_inService]
      dsimp only
      rw [hfit]
      rfl
    obtain ⟨u, hu, ha, hkept, he, -⟩ := request_onLink 38 (owner := fun _ => ownTake q.link n)
      (f := fun x => LinkState.judge { x with queue := x.queue.drop (min n (s.link q.link).queue.length), overrun := false })
      h ho rfl (KeptBut.refl s []) fun x => ⟨rfl, rfl⟩
    obtain ⟨a, hown⟩ := he.own
    refine ⟨u, hu, ha, hkept, he.framesOfOthers, fun l => ?_, he.serial, by rw [hown]; rfl, by rw [hown]; rfl, ?_,
      he.others⟩
    · by_cases hl : l = q.link
      · subst hl
        rw [hown]
        exact ⟨rfl, rfl⟩
      · rw [he.others l hl]
        exact ⟨rfl, rfl⟩
    · rw [hown, ← List.length_drop]
      rfl

end Sys2Proof.Machine
end

section
/-! PROOF of Induct, ClearLine and the readings (O14, O18, O19, O20). -/

namespace Sys2Proof.Machine

/-! ### Induct (R4) -/

theorem happened_inductBoard (s : State) (t : Nat) (rest : List Nat) (tag : Text) (slot : Nat) (x : RecipeSlot) :
    Happened s (s.inductBoard t rest tag slot x) [.boardInducted tag t slot] [.table, .recipes] :=
  ((happened_onTable s _).then rfl (happened_onRecipes _ _) (e := [.table, .recipes]) (by decide)).then rfl
    (happened_post _ _) (by decide)

theorem ownInduct_accept {s : State} {tag : Text} {slot t : Nat} {rest : List Nat} {x : RecipeSlot}
    (hm : s.mode ≠ .drain) (hf : tagForm tag = true) (hs : within 1 Config.recipeCount slot = true)
    (ht : s.tagged tag = none) (hx : nth s.recipes.slots slot = some x) (hr : x.state = .ready)
    (hfree : s.table.free = t :: rest) (ho : s.occupancy < Config.queueCapacity) :
    ownInduct tag slot s = accept (s.inductBoard t rest tag slot x) [u1 t] := by
  simp only [ownInduct, hm, hf, hs, ht, hx, hr, hfree]
  rw [if_neg (Nat.not_le.2 ho)]
  rfl

theorem ownInduct_full {s : State} {tag : Text} {slot : Nat} {x : RecipeSlot}
    (hm : s.mode ≠ .drain) (hf : tagForm tag = true) (hs : within 1 Config.recipeCount slot = true)
    (ht : s.tagged tag = none) (hx : nth s.recipes.slots slot = some x) (hr : x.state = .ready)
    (h : s.table.free = [] ∨ Config.queueCapacity ≤ s.occupancy) :
    ownInduct tag slot s = refuse s .full := by
  simp only [ownInduct, hm, hf, hs, ht, hx, hr]
  rcases h with h | h
  · rw [h]
    rfl
  · cases s.table.free with
    | nil => rfl
    | cons t rest =>
      dsimp only
      rw [if_pos h]
      rfl

/-- Settles O14: the induction, and each refusal in the order of R4. -/
theorem inductCreatesOrRefuses : Obligations.InductCreatesOrRefuses := by
  have slotOk {slot : Nat} (h1 : 1 ≤ slot) (h8 : slot ≤ 8) : within 1 Config.recipeCount slot = true := within_iff.2 ⟨h1, h8⟩
  refine ⟨fun s q tag slot t rest x h hm hf h1 h8 hx hr ht hfree ho ht1 htn => ?_, fun s q tag slot h =>
    ⟨fun hm => ?mode, fun hm hbad => ?invalid, fun hm hf h1 h8 => ⟨fun e he => ?duplicate,
      fun x ht hx => ⟨fun hr => ?notReady, fun hr hfull => ?full⟩⟩⟩⟩
  · obtain ⟨hu, hdone⟩ := request_done 1 (owner := fun _ => ownInduct tag slot) h
      (ownInduct_accept (s := s.inServiceOf q) hm hf (slotOk h1 h8) ht hx hr hfree ho)
      (happened_inductBoard _ _ _ _ _ _)
    refine ⟨_, hu, hdone, ?_, fun n hn => ?_, rfl, nth_putNth_live _ hx, fun n hn => nth_putNth_other _ _ _ _ hn, rfl⟩
    · exact congrArg Option.join (nth_putNth_same s.table.records t (some _) ht1 htn)
    · exact congrArg Option.join (nth_putNth_other s.table.records t n (some _) hn)
  case mode => exact refused 1 (owner := fun _ => ownInduct tag slot) h (by simp [ownInduct, hm, refuse])
  case invalid =>
    have hw : (tagForm tag && within 1 Config.recipeCount slot) = false := by
      rcases hbad with hf | hslot
      · rw [hf]
        rfl
      · have : within 1 Config.recipeCount slot = false := by
          rw [Bool.eq_false_iff, ne_eq, within_iff]
          have : Config.recipeCount = 8 := rfl
          omega
        rw [this, Bool.and_false]
    exact refused 1 (owner := fun _ => ownInduct tag slot) h (by simp [ownInduct, hm, hw, refuse])
  case duplicate =>
    exact refused 1 (owner := fun _ => ownInduct tag slot) h (by simp [ownInduct, hm, hf, slotOk h1 h8, he, refuse])
  case notReady =>
    exact refused 1 (owner := fun _ => ownInduct tag slot) h
      (ownInduct_notReady (s := s.inServiceOf q) hm hf (slotOk h1 h8) ht hx hr)
  case full =>
    exact refused 1 (owner := fun _ => ownInduct tag slot) h
      (ownInduct_full (s := s.inServiceOf q) hm hf (slotOk h1 h8) ht hx hr hfull)

/-! ### ClearLine (R20) -/

theorem happened_driveOutput (s : State) : Happened s s.driveOutput [] [.cure] := happened_onCure s _

theorem happened_clear (s : State) :
    Happened s s.clear [.lineCleared] [.table, .recipes, .mask, .engine, .cure, .holds, .clock] := by
  obtain ⟨hposted, hsettings, hframes, -⟩ := happened_post s .lineCleared
  refine ⟨hposted, hsettings, hframes, fun p hp => ?_⟩
  cases p
  case pending | lots => rfl
  all_goals exact absurd (by decide) hp

theorem traveler_clear (s : State) (t : Nat) : s.clear.traveler t = none := by
  cases h : s.clear.traveler t with
  | none => rfl
  | some r =>
    have := List.eq_of_mem_replicate (mem_of_traveler h : some r ∈ List.replicate Config.travelerCount none)
    cases this

/-- Settles O18, block by block. -/
theorem clearLineEmptiesLine : Obligations.ClearLineEmptiesLine := by
  refine fun s q h => ⟨fun hm => ?_, fun hm => ?_⟩
  · have ho : ownClearLine (s.inServiceOf q) = accept (s.inServiceOf q).clear := by
      unfold ownClearLine
      rcases hm with hm | hm <;> simp [hm]
    obtain ⟨hu, hdone⟩ := request_done 6 (owner := fun _ => ownClearLine) h ho (happened_clear _)
    refine ⟨_, hu, hdone, fun t => traveler_clear _ t, rfl, rfl, rfl, rfl, rfl, ?_, rfl, rfl⟩
    have houtput : (if s.mode = .halt ∨ false = true then 0 else s.cure.setpoint) =
        if s.mode = .halt then 0 else s.cure.setpoint := by simp
    exact congrArg (fun n => ({ s.cure with
      flash := [], overdue := [], stopUp := true, oven := [], rangeLow := 10, rangeHigh := 2000, exit := [],
      stalled := false, overCured := [], output := n } : CureMonitor)) houtput
  · exact refused 6 (owner := fun _ => ownClearLine) h (by unfold ownClearLine; rcases hm with hm | hm <;> simp [hm, refuse])

/-! ### GetConfig (R168) -/

/-- Settles O20: the configuration answered, the block as it was. -/
theorem getConfigReportsAll : Obligations.GetConfigReportsAll := by
  intro s q h
  refine refused 42 (owner := fun eff => reads (configReply eff)) h ?_
  simp only [reads, configReply, inServiceOf_io, inServiceOf_engine, inServiceOf_cure, inServiceOf_holds]
  cases s.engine.port <;> rfl

/-! ### Readings (R21, R22, R38, R53, R122, R173) -/

theorem slotFields_eq (s : State) : s.slotFields = fun
    | .free => [.word 0, .presence false]
    | .assigned t => [.word 1, .presence true] ++ [.text (s.tagOf t)]
    | .resting t => [.word 2, .presence true] ++ [.text (s.tagOf t)] := by
  funext x
  cases x <;> rfl

theorem headEntry_eq (c : Option HeadConfig) (n : Option Nat) :
    headEntry c n = .word (if c.isSome then 1 else 0) :: ((c.map headFields).getD [] ++ optional (fun n => [u1 n]) n) := by
  cases c <;> rfl

/-- The live travelers of a stage from a number on (R22). -/
theorem mem_listed {s : State} {stage first t : Nat} {r : Traveler} :
    (t, r) ∈ s.listed stage first ↔ s.traveler t = some r ∧ first ≤ t ∧ (stage = 8 ∨ r.stage.code = stage) := by
  have hlive : (t, r) ∈ s.travelers ↔ s.traveler t = some r := by
    unfold State.travelers
    rw [traveler_nth, List.mem_filterMap]
    constructor
    · rintro ⟨⟨o, n⟩, hmem, ho⟩
      obtain ⟨r', rfl, hr⟩ := Option.map_eq_some_iff.1 ho
      cases hr
      have := List.mem_zipIdx_iff_getElem?.1 hmem
      simpa [nth] using this
    · intro h
      obtain ⟨h1, -⟩ := nth_some h
      refine ⟨(some r, t - 1), List.mem_zipIdx_iff_getElem?.2 ?_, by simp [Nat.sub_add_cancel h1]⟩
      simpa [nth, show t ≠ 0 by omega] using h
  unfold State.listed
  rw [List.mem_filter, hlive]
  simp [stageAll]

theorem listed_ascending (s : State) (stage first : Nat) :
    (s.listed stage first).Pairwise fun x y => x.1 < y.1 := by
  refine List.Pairwise.filter _ (List.Pairwise.filterMap _ ?_ (l := s.table.records.zipIdx) (R := fun x y => x.2 < y.2) ?_)
  · intro x y hxy a ha b hb
    obtain ⟨-, -, rfl⟩ := Option.map_eq_some_iff.1 ha
    obtain ⟨-, -, rfl⟩ := Option.map_eq_some_iff.1 hb
    simpa using hxy
  · have := List.pairwise_lt_range' (s := 0) (n := s.table.records.length)
    rw [← List.zipIdx_map_snd 0 s.table.records, List.pairwise_map] at this
    exact this

/-- Settles O19: each reading answers from the block and hands it back as it was. -/
theorem readingsAnswerAndChangeNothing : Obligations.ReadingsAnswerAndChangeNothing := by
  refine ⟨fun s q h => ⟨?line, ?lot, refused 32 h rfl, ?peek⟩, fun s q tag stage first h =>
    ⟨fun t r hf ht => ?live, fun hf ht => ?unknown, fun hf => ?malformed, fun hs h1 h48 => ?list, fun hbad => ?badList⟩,
    fun s q slot part first h => ⟨fun x hx h1 hp => ?recipe, fun p hp => ?profile, fun hbad => ?badPart⟩⟩
  case line =>
    refine refused 7 h ?_
    show ((s.inServiceOf q), (s.inServiceOf q).lineReply) = _
    unfold State.lineReply
    rw [slotFields_eq]
    rfl
  case lot =>
    refine refused 22 h ?_
    show ((s.inServiceOf q), (s.inServiceOf q).lotReply) = _
    simp only [State.lotReply, headEntry_eq]
    rfl
  case peek =>
    refine refused 39 h ?_
    show ((s.inServiceOf q), peekReply q.link (s.inServiceOf q)) = _
    rw [peekReply, link_inService]
    rfl
  case live =>
    exact refused 8 (owner := fun _ => withTag tag fun t r s => accept s (travelerFields t r)) h
      (withTag_live (s := s.inServiceOf q) hf ht _)
  case unknown => exact refused 8 (owner := fun _ => withTag tag _) h (by simp [withTag, hf, ht, refuse])
  case malformed => exact refused 8 (owner := fun _ => withTag tag _) h (by simp [withTag, hf, refuse])
  case list =>
    have hw : (within 0 stageAll stage && within 1 Config.travelerCount first) = true := by
      rw [Bool.and_eq_true, within_iff, within_iff]
      exact ⟨⟨Nat.zero_le _, hs⟩, h1, h48⟩
    obtain ⟨u, hu, hdone⟩ := refused 9 (owner := fun _ => ownListTravelers stage first) h (by rw [ownListTravelers, hw]; rfl)
    exact ⟨u, s.listed stage first, hu, hdone, fun t r => mem_listed, listed_ascending s stage first⟩
  case badList =>
    have hw : (within 0 stageAll stage && within 1 Config.travelerCount first) = false := by
      rw [Bool.eq_false_iff, ne_eq, Bool.and_eq_true, within_iff, within_iff]
      have : stageAll = 8 := rfl
      have : Config.travelerCount = 48 := rfl
      omega
    exact refused 9 (owner := fun _ => ownListTravelers stage first) h (by rw [ownListTravelers, hw]; rfl)
  case recipe =>
    have hfirst : first ≠ 0 := by omega
    have hslot : nth (s.inServiceOf q).recipes.slots slot = some x := hx
    have answers {rest : List Field} (ho : ownGetRecipe slot part first (s.inServiceOf q) =
        accept (s.inServiceOf q) ([.word x.state.code, u1 x.useCount, u1 x.windows.length, u1 x.sites.length,
          u1 x.strokes.length] ++ rest)) := refused 16 (owner := fun _ => ownGetRecipe slot part first) h ho
    match part, hp with
    | 0, _ =>
      obtain ⟨u, hu, hdone⟩ := answers (rest := optional headerFields x.header)
        (by rw [ownGetRecipe, if_neg hfirst, hslot]; rfl)
      exact ⟨u, _, hu, hdone, fun _ => rfl, nofun, nofun, nofun⟩
    | 1, _ =>
      obtain ⟨u, hu, hdone⟩ := answers (rest := recordPage windowFields first x.windows)
        (by rw [ownGetRecipe, if_neg hfirst, hslot]; rfl)
      exact ⟨u, _, hu, hdone, nofun, fun _ => rfl, nofun, nofun⟩
    | 2, _ =>
      obtain ⟨u, hu, hdone⟩ := answers (rest := recordPage siteFields first x.sites)
        (by rw [ownGetRecipe, if_neg hfirst, hslot]; rfl)
      exact ⟨u, _, hu, hdone, nofun, nofun, fun _ => rfl, nofun⟩
    | 3, _ =>
      obtain ⟨u, hu, hdone⟩ := answers (rest := recordPage strokeFields first x.strokes)
        (by rw [ownGetRecipe, if_neg hfirst, hslot]; rfl)
      exact ⟨u, _, hu, hdone, nofun, nofun, nofun, fun _ => rfl⟩
  case profile =>
    have hslot : nth (s.inServiceOf q).recipes.profiles slot = some p := hp
    exact refused 16 (owner := fun _ => ownGetRecipeProfile slot) h (by rw [ownGetRecipeProfile, hslot]; rfl)
  case badPart =>
    refine refused 16 (owner := fun _ => ownGetRecipe slot part first) h ?_
    unfold ownGetRecipe
    by_cases h0 : first = 0
    · rw [if_pos h0]
      rfl
    rw [if_neg h0]
    obtain ⟨k, rfl⟩ : ∃ k, part = k + 4 := ⟨part - 4, by omega⟩
    cases nth (s.inServiceOf q).recipes.slots slot <;> rfl

end Sys2Proof.Machine
end

section
/-! PROOF of the recipe store's requests: loading and validation of recipes, and cure profiles (O23, O24, O26). -/

namespace Sys2Proof.Machine

/-! ### A request that writes one slot, whatever its answer -/

theorem request_writesSlot {s : State} {q : Req} {need slot : Nat} {x y : RecipeSlot} {w : Status} (code : Nat)
    {owner : Nat → State → State × Reply} {fields : List Field} (h : s.Takes q need)
    (hx : nth s.recipes.slots slot = some x)
    (ho : owner (max (s.strapped q.link) q.level) (s.inServiceOf q) =
      ((s.inServiceOf q).setSlot slot y, { status := w, fields := fields })) :
    ∃ u, request q code need owner s = .next u ∧ Done s u q code w fields [] [.recipes] ∧ SlotBecomes s u slot y := by
  obtain ⟨hu, hdone⟩ := request_done code h ho (happened_onRecipes _ _)
  exact ⟨_, hu, hdone, nth_putNth_live y hx, fun n hn => nth_putNth_other _ _ _ _ hn, rfl⟩

/-! ### Lists of records (R27) -/

theorem readAll_map {α β : Type} {read : α → Option β} {l : List α} {m : List β} (k : Nat)
    (h : l.map read = m.map some) : readAll read k l = .ok m := by
  induction l generalizing m k with
  | nil =>
    cases m with
    | nil => rfl
    | cons b bs => cases h
  | cons a rest ih =>
    cases m with
    | nil => cases h
    | cons b bs =>
      obtain ⟨ha, hrest⟩ := List.cons.inj h
      simp only [readAll, ha, ih (k + 1) hrest]

theorem readAll_formed {α β : Type} {read : α → Option β} {l : List α} (k : Nat)
    (h : ∀ n, n < l.length → (l[n]?.any fun a => (read a).isSome) = true) :
    ∃ m, readAll read k l = .ok m ∧ m.length = l.length := by
  induction l generalizing k with
  | nil => exact ⟨[], rfl, rfl⟩
  | cons a rest ih =>
    obtain ⟨b, hb⟩ := Option.isSome_iff_exists.1 (by simpa using h 0 (by simp))
    obtain ⟨m, hm, hlen⟩ := ih (k + 1) fun n hn => by simpa using h (n + 1) (by simpa using hn)
    exact ⟨b :: m, by simp only [readAll, hb, hm], by simp [hlen]⟩

theorem readAll_fails {α β : Type} {read : α → Option β} {l : List α} {n : Nat} (k : Nat) (hn : n < l.length)
    (hbefore : ∀ m, m < n → (l[m]?.any fun a => (read a).isSome) = true)
    (hat : (l[n]?.any fun a => (read a).isSome) = false) : readAll read k l = .error (k + n) := by
  induction l generalizing n k with
  | nil => cases hn
  | cons a rest ih =>
    cases n with
    | zero =>
      have ha : read a = none := by simpa using hat
      simp only [readAll, ha]
      rfl
    | succ n =>
      obtain ⟨b, hb⟩ := Option.isSome_iff_exists.1 (by simpa using hbefore 0 (by omega))
      have := ih (k + 1) (n := n) (by simpa using hn) (fun m hm => by simpa using hbefore (m + 1) (by omega))
        (by simpa using hat)
      simp only [readAll, hb, this]
      rw [show k + 1 + n = k + (n + 1) by omega]

section Put

variable {α β : Type} {read : α → Option β} {capacity : Nat} {get : RecipeSlot → List β}
  {put : RecipeSlot → List β → RecipeSlot} {slot : Nat} {l : List α} {s : State} {x : RecipeSlot}

theorem slotWithin (h1 : 1 ≤ slot) (h8 : slot ≤ 8) : within 1 Config.recipeCount slot = true := within_iff.2 ⟨h1, h8⟩

theorem ownPut_invalid (h : slot = 0 ∨ 8 < slot ∨ l.length = 0 ∨ 8 < l.length) :
    ownPut read capacity get put slot l s = refuse s .invalid := by
  have hw : (within 1 Config.recipeCount slot && within 1 8 l.length) = false := by
    rw [Bool.eq_false_iff, ne_eq, Bool.and_eq_true, within_iff, within_iff]
    have : Config.recipeCount = 8 := rfl
    omega
  rw [ownPut, hw]
  rfl

/-- Past the first check, a put is judged by its slot. -/
theorem ownPut_eq (h1 : 1 ≤ slot) (h8 : slot ≤ 8) (hl : 1 ≤ l.length) (hl8 : l.length ≤ 8)
    (hx : nth s.recipes.slots slot = some x) :
    ownPut read capacity get put slot l s =
      if x.state ≠ .loading then refuse s .stage
      else
        match readAll read 1 l with
        | .error k => refuse s .invalid [u1 k]
        | .ok new =>
          if capacity < (get x ++ new).length then refuse s .full
          else accept (s.setSlot slot (put x (get x ++ new))) [u1 (get x ++ new).length] := by
  have hw : (within 1 Config.recipeCount slot && within 1 8 l.length) = true := by
    rw [slotWithin h1 h8, within_iff.2 ⟨hl, hl8⟩]
    rfl
  rw [ownPut, hw, hx]
  rfl

theorem ownPut_appends {m : List β} (h1 : 1 ≤ slot) (h8 : slot ≤ 8) (hl : 1 ≤ l.length) (hl8 : l.length ≤ 8)
    (hx : nth s.recipes.slots slot = some x) (hs : x.state = .loading) (hm : l.map read = m.map some)
    (hroom : (get x).length + l.length ≤ capacity) :
    ownPut read capacity get put slot l s =
      accept (s.setSlot slot (put x (get x ++ m))) [u1 ((get x).length + l.length)] := by
  have hlen : l.length = m.length := by simpa using congrArg List.length hm
  rw [ownPut_eq h1 h8 hl hl8 hx, if_neg (not_not_intro hs), readAll_map 1 hm]
  dsimp only
  rw [List.length_append, ← hlen, if_neg (Nat.not_lt.2 hroom)]

theorem ownPut_stage (h1 : 1 ≤ slot) (h8 : slot ≤ 8) (hl : 1 ≤ l.length) (hl8 : l.length ≤ 8)
    (hx : nth s.recipes.slots slot = some x) (hs : x.state ≠ .loading) :
    ownPut read capacity get put slot l s = refuse s .stage := by
  rw [ownPut_eq h1 h8 hl hl8 hx, if_pos hs]

theorem ownPut_malformed {n : Nat} (h1 : 1 ≤ slot) (h8 : slot ≤ 8) (hl : 1 ≤ l.length) (hl8 : l.length ≤ 8)
    (hx : nth s.recipes.slots slot = some x) (hs : x.state = .loading) (hn : n < l.length)
    (hbefore : ∀ m, m < n → (l[m]?.any fun a => (read a).isSome) = true)
    (hat : (l[n]?.any fun a => (read a).isSome) = false) :
    ownPut read capacity get put slot l s = refuse s .invalid [u1 (n + 1 : Nat)] := by
  rw [ownPut_eq h1 h8 hl hl8 hx, if_neg (not_not_intro hs), readAll_fails 1 hn hbefore hat, Nat.add_comm]

theorem ownPut_full (h1 : 1 ≤ slot) (h8 : slot ≤ 8) (hl : 1 ≤ l.length) (hl8 : l.length ≤ 8)
    (hx : nth s.recipes.slots slot = some x) (hs : x.state = .loading)
    (hall : ∀ n, n < l.length → (l[n]?.any fun a => (read a).isSome) = true)
    (hroom : capacity < (get x).length + l.length) :
    ownPut read capacity get put slot l s = refuse s .full := by
  obtain ⟨m, hm, hlen⟩ := readAll_formed 1 hall
  rw [ownPut_eq h1 h8 hl hl8 hx, if_neg (not_not_intro hs), hm]
  dsimp only
  rw [List.length_append, hlen, if_pos hroom]

end Put

/-- A put request whose service is that of `ownPut` is refused in the order of R27. -/
theorem put_refused {α β : Type} {read : α → Option β} {capacity : Nat} {get : RecipeSlot → List β}
    {put : RecipeSlot → List β → RecipeSlot} {slot : Nat} {l : List α} {s : State} {q : Req} {i : Instr} {code : Nat}
    (h : s.Takes q 0) (hi : exec i s = request q code 0 (fun _ => ownPut read capacity get put slot l) s) :
    let fails (w : Status) (fields : List Field) : Prop := ∃ u, exec i s = .next u ∧ Done s u q code w fields [] []
    let formed (n : Nat) : Bool := l[n]?.any fun a => (read a).isSome
    ((slot = 0 ∨ 8 < slot ∨ l.length = 0 ∨ 8 < l.length) → fails .invalid []) ∧
      ∀ x, 1 ≤ slot → slot ≤ 8 → 1 ≤ l.length → l.length ≤ 8 → nth s.recipes.slots slot = some x →
        (x.state ≠ .loading → fails .stage []) ∧
        (∀ n, x.state = .loading → n < l.length → (∀ m, m < n → formed m = true) → formed n = false →
          fails .invalid [u1 (n + 1 : Nat)]) ∧
        (x.state = .loading → (∀ n, n < l.length → formed n = true) → capacity < (get x).length + l.length →
          fails .full []) := by
  intro fails formed
  have answered {w : Status} {fields : List Field}
      (ho : ownPut read capacity get put slot l (s.inServiceOf q) = refuse (s.inServiceOf q) w fields) :
      fails w fields := by
    obtain ⟨u, hu, hdone⟩ := refused code (owner := fun _ => ownPut read capacity get put slot l) h ho
    exact ⟨u, hi.trans hu, hdone⟩
  exact ⟨fun hbad => answered (ownPut_invalid hbad), fun x h1 h8 hl hl8 hx =>
    ⟨fun hs => answered (ownPut_stage (s := s.inServiceOf q) h1 h8 hl hl8 hx hs),
      fun n hs hn hb hat => answered (ownPut_malformed (s := s.inServiceOf q) h1 h8 hl hl8 hx hs hn hb hat),
      fun hs hall hroom => answered (ownPut_full (s := s.inServiceOf q) h1 h8 hl hl8 hx hs hall hroom)⟩⟩

/-- How PutWindows reads a window: as it is sent, where it is well formed. -/
theorem window_read_isSome : (fun w : Window => (if Window.form w then some w else none).isSome) = Window.form := by
  funext w
  cases Window.form w <;> rfl

/-- Settles O24: the three puts are one owner with three readers. -/
theorem putRecordsAppendOrRefuse : Obligations.PutRecordsAppendOrRefuse := by
  refine ⟨fun s q slot x h h1 h8 hx hs => ⟨fun l hl hl8 hf hroom => ?_, fun l m hl hl8 hm hroom => ?_,
    fun l m hl hl8 hm hroom => ?_⟩, fun s q slot windows sites strokes h => ⟨?_, ?_, ?_⟩⟩
  · have hm : l.map (fun w => if Window.form w then some w else none) = l.map some :=
      List.map_congr_left fun w hw => if_pos (hf w hw)
    exact request_setSlot 11 h hx (ownPut_appends (s := s.inServiceOf q) h1 h8 hl hl8 hx hs hm hroom)
  · exact request_setSlot 12 h hx (ownPut_appends (s := s.inServiceOf q) h1 h8 hl hl8 hx hs hm hroom)
  · exact request_setSlot 13 h hx (ownPut_appends (s := s.inServiceOf q) h1 h8 hl hl8 hx hs hm hroom)
  · have hput := put_refused (i := .putWindows q slot windows) (get := (·.windows)) h rfl
    rw [window_read_isSome] at hput
    exact hput
  · exact put_refused (i := .putSites q slot sites) (get := (·.sites)) h rfl
  · exact put_refused (i := .putStrokes q slot strokes) (get := (·.strokes)) h rfl

/-! ### Cure profiles (R39, R40) -/

theorem profileInUse_iff (s : State) (index : Nat) : s.profileInUse index = true ↔
    ∃ t r h, s.traveler t = some r ∧ (r.stage = .flash ∨ r.stage = .cure ∨ r.stage = .ovenExit) ∧
      (s.recipeOf r).header = some h ∧ h.profile = index := by
  unfold State.profileInUse
  rw [anyTraveler_iff]
  constructor
  · rintro ⟨t, r, hr, hp⟩
    rw [Bool.and_eq_true] at hp
    obtain ⟨hstage, hheader⟩ := hp
    obtain ⟨h, hh, hi⟩ := (Option.any_eq_true _ _).1 hheader
    exact ⟨t, r, h, hr, by simpa [inCureStages, or_assoc] using hstage, hh, by simpa using hi⟩
  · rintro ⟨t, r, h, hr, hstage, hh, hi⟩
    exact ⟨t, r, hr, by simp [inCureStages, hstage, hh, hi, or_assoc]⟩

/-- A taken request whose owner accepts with one profile slot written. -/
theorem request_setProfile {s : State} {q : Req} {need index : Nat} {o : Option Profile} (code : Nat)
    {owner : Nat → State → State × Reply} (h : s.Takes q need) (h1 : 1 ≤ index)
    (hn : index ≤ s.recipes.profiles.length)
    (ho : owner (max (s.strapped q.link) q.level) (s.inServiceOf q) = accept ((s.inServiceOf q).setProfile index o)) :
    ∃ u, request q code need owner s = .next u ∧ Done s u q code .ok [] [] [.recipes] ∧
      nth u.recipes.profiles index = some o ∧
      (∀ n, n ≠ index → nth u.recipes.profiles n = nth s.recipes.profiles n) ∧ u.recipes.slots = s.recipes.slots := by
  obtain ⟨hu, hdone⟩ := request_done code h ho (happened_onRecipes _ _)
  exact ⟨_, hu, hdone, nth_putNth_same _ _ _ h1 hn, fun n hne => nth_putNth_other _ _ _ _ hne, rfl⟩

theorem firstAtFault_head {b : Bool} {l : List Bool} (h : firstAtFault (b :: l) = none) : b = true := by
  cases b with
  | true => rfl
  | false => cases h

/-- Settles O26: a profile request is judged by its fields and by the use of the profile. -/
theorem cureProfileLoadedAndDropped : Obligations.CureProfileLoadedAndDropped := by
  intro s q index p h hlen used holds
  have hused : (s.inServiceOf q).profileInUse index = true ↔ used := profileInUse_iff s index
  refine ⟨fun hf => ?_, fun h1 h4 => ?_⟩
  · obtain ⟨h1, h4⟩ := within_iff.1 (firstAtFault_head hf)
    have ho : ownPutCureProfile index p (s.inServiceOf q) = if (s.inServiceOf q).profileInUse index then
        refuse (s.inServiceOf q) .inUse else accept ((s.inServiceOf q).setProfile index (some p)) := by
      rw [ownPutCureProfile, hf]
    refine ⟨fun hn => ?_, fun hu => ?_⟩
    · exact request_setProfile 17 (owner := fun _ => ownPutCureProfile index p) h h1 (hlen ▸ h4)
        (ho.trans (if_neg (mt hused.1 hn)))
    · exact refused 17 (owner := fun _ => ownPutCureProfile index p) h (ho.trans (if_pos (hused.2 hu)))
  · have hw : within 1 Config.profileCount index = true := within_iff.2 ⟨h1, h4⟩
    have ho : ownDropCureProfile index (s.inServiceOf q) = if (s.inServiceOf q).profileInUse index then
        refuse (s.inServiceOf q) .inUse else accept ((s.inServiceOf q).setProfile index none) := by
      rw [ownDropCureProfile, hw]
      rfl
    refine ⟨fun hn => ?_, fun hu => ?_⟩
    · exact request_setProfile 18 (owner := fun _ => ownDropCureProfile index) h h1 (hlen ▸ h4)
        (ho.trans (if_neg (mt hused.1 hn)))
    · exact refused 18 (owner := fun _ => ownDropCureProfile index) h (ho.trans (if_pos (hused.2 hu)))

/-! ### Validation (R31 to R36) -/

theorem firstFailure_none {α : Type} {list : ItemList} {check : α → Option ItemCause} {l : List α} (n : Nat)
    (h : ∀ a ∈ l, check a = none) : firstFailure list check n l = none := by
  induction l generalizing n with
  | nil => rfl
  | cons a rest ih =>
    rw [firstFailure, h a (by simp)]
    exact ih (n + 1) fun b hb => h b (by simp [hb])

theorem firstFailure_at {α : Type} {list : ItemList} {check : α → Option ItemCause} {before after : List α} {a : α}
    {c : ItemCause} (n : Nat) (h : ∀ b ∈ before, check b = none) (ha : check a = some c) :
    firstFailure list check n (before ++ a :: after) = some { list := list, index := n + before.length, cause := c } := by
  induction before generalizing n with
  | nil => simp [firstFailure, ha]
  | cons b rest ih =>
    rw [List.cons_append, firstFailure, h b (by simp)]
    have := ih (n + 1) fun d hd => h d (by simp [hd])
    simpa [Nat.add_assoc, Nat.add_comm 1] using this

/-- The window lies on the board (R33). -/
def onBoard (h : Header) (w : Window) : Prop := 0 ≤ w.x0 ∧ w.x1 ≤ h.length ∧ 0 ≤ w.y0 ∧ w.y1 ≤ h.width

theorem checkWindow_eq (h : Header) (n : Nat) (w : Window) :
    (onBoard h w → w.mask ≤ n → checkWindow h n w = none) ∧
      (¬ onBoard h w → checkWindow h n w = some .outsideBoard) ∧
      (onBoard h w → n < w.mask → checkWindow h n w = some .noSite) := by
  have hboard : (!(decide (0 ≤ w.x0) && decide (w.x1 ≤ h.length) && decide (0 ≤ w.y0) && decide (w.y1 ≤ h.width))) = true ↔
      ¬ onBoard h w := by
    simp only [onBoard, Bool.not_eq_true', ← Bool.not_eq_true, Bool.and_eq_true, decide_eq_true_eq, and_assoc]
  unfold checkWindow
  refine ⟨fun hb hm => ?_, fun hb => if_pos (hboard.2 hb), fun hb hm => ?_⟩
  · rw [if_neg fun hn => hboard.1 hn hb, if_neg fun hn => absurd hn.2 (Nat.not_lt.2 hm)]
  · rw [if_neg fun hn => hboard.1 hn hb, if_pos ⟨by omega, hm⟩]

theorem checkSite_eq (h : Header) (y : MaskSite) :
    ((0 ≤ y.x ∧ y.x ≤ h.length ∧ 0 ≤ y.y ∧ y.y ≤ h.width) → checkSite h y = none) ∧
      (¬ (0 ≤ y.x ∧ y.x ≤ h.length ∧ 0 ≤ y.y ∧ y.y ≤ h.width) → checkSite h y = some .outsideBoard) := by
  have hsite : (withinInt 0 h.length y.x && withinInt 0 h.width y.y) = true ↔
      (0 ≤ y.x ∧ y.x ≤ h.length ∧ 0 ≤ y.y ∧ y.y ≤ h.width) := by
    simp only [withinInt, Bool.and_eq_true, decide_eq_true_eq, and_assoc]
  unfold checkSite
  exact ⟨fun hs => if_pos (hsite.2 hs), fun hs => if_neg (mt hsite.1 hs)⟩

/-- The spray height is in the range of the stroke's head, where that is CONFIGURED (R34). -/
def Stroke.Reaches (heads : List (Option HeadConfig)) (k : Stroke) : Prop :=
  ∀ c, nth heads k.head = some (some c) → c.zMin ≤ k.height ∧ k.height ≤ c.zMax

/-- A point lies in a window's rectangle (R35). -/
def insideWindow (w : Window) (a b : Int) : Prop := w.x0 ≤ a ∧ a ≤ w.x1 ∧ w.y0 ≤ b ∧ b ≤ w.y1

/-- Every pass of the stroke starts and ends in the stroke's window (R35, R36). -/
def Stroke.Contained (windows : List Window) (k : Stroke) : Prop :=
  ∀ w, nth windows k.window = some w → ∀ n : Nat, n < k.passes →
    insideWindow w (k.startX + n * k.stepX) (k.startY + n * k.stepY) ∧ insideWindow w (k.endX + n * k.stepX) (k.endY + n * k.stepY)

theorem reaches_iff {heads : List (Option HeadConfig)} {k : Stroke} :
    ((nth heads k.head).join).any (fun c => !within c.zMin c.zMax k.height) = true ↔ ¬ k.Reaches heads := by
  have hjoin : ∀ c, (nth heads k.head).join = some c ↔ nth heads k.head = some (some c) := fun c => Option.join_eq_some_iff
  unfold Stroke.Reaches
  rw [Option.any_eq_true]
  simp only [hjoin, Bool.not_eq_true', ← Bool.not_eq_true, within_iff]
  push Not
  rfl

theorem inWindow_iff {w : Window} {p : Int × Int} : inWindow w p = true ↔ insideWindow w p.1 p.2 := by
  simp only [inWindow, withinInt, insideWindow, Bool.and_eq_true, decide_eq_true_eq, and_assoc]

/-- A pass lies in a window whichever end it starts from. -/
theorem passPoints_inside {w : Window} {k : Stroke} (n : Nat) :
    (inWindow w (k.passPoints n).1 && inWindow w (k.passPoints n).2) = true ↔
      insideWindow w (k.startX + n * k.stepX) (k.startY + n * k.stepY) ∧
        insideWindow w (k.endX + n * k.stepX) (k.endY + n * k.stepY) := by
  rw [Bool.and_eq_true, inWindow_iff, inWindow_iff]
  unfold Stroke.passPoints
  dsimp only
  split
  · exact and_comm
  · exact Iff.rfl

/-- Every check of a stroke before its containment passes. -/
structure Stroke.PassesChecks (heads : List (Option HeadConfig)) (windows : List Window) (k : Stroke) : Prop where
  present  : k.head ≤ heads.length
  windowed : k.window ≤ windows.length
  transit  : k.window = 0 → k.valveOn = false
  reaches  : k.Reaches heads
  long     : k.startX ≠ k.endX ∨ k.startY ≠ k.endY

section Strokes

variable {heads : List (Option HeadConfig)} {windows : List Window} {k : Stroke}

theorem checkStroke_head (h : ¬ k.head ≤ heads.length) : checkStroke heads windows k = some .headAbsent :=
  if_pos (Nat.not_le.1 h)

theorem checkStroke_window (h1 : k.head ≤ heads.length) (h : ¬ k.window ≤ windows.length) :
    checkStroke heads windows k = some .noWindow := by
  rw [checkStroke, if_neg (Nat.not_lt.2 h1), if_pos (Nat.not_le.1 h)]

theorem checkStroke_transit (h1 : k.head ≤ heads.length) (h2 : k.window ≤ windows.length)
    (h : ¬ (k.window = 0 → k.valveOn = false)) : checkStroke heads windows k = some .transitSpray := by
  rw [checkStroke, if_neg (Nat.not_lt.2 h1), if_neg (Nat.not_lt.2 h2), if_pos (by simpa using h)]

theorem checkStroke_height (h1 : k.head ≤ heads.length) (h2 : k.window ≤ windows.length)
    (h3 : k.window = 0 → k.valveOn = false) (h : ¬ k.Reaches heads) :
    checkStroke heads windows k = some .heightRange := by
  rw [checkStroke, if_neg (Nat.not_lt.2 h1), if_neg (Nat.not_lt.2 h2), if_neg (by simpa using h3),
    if_pos (reaches_iff.2 h)]

theorem checkStroke_short (h1 : k.head ≤ heads.length) (h2 : k.window ≤ windows.length)
    (h3 : k.window = 0 → k.valveOn = false) (h4 : k.Reaches heads)
    (h : ¬ (k.startX ≠ k.endX ∨ k.startY ≠ k.endY)) : checkStroke heads windows k = some .zeroLength := by
  rw [checkStroke, if_neg (Nat.not_lt.2 h1), if_neg (Nat.not_lt.2 h2), if_neg (by simpa using h3),
    if_neg fun hn => reaches_iff.1 hn h4, if_pos (by push Not at h; exact h)]

theorem checkStroke_contained (h : k.PassesChecks heads windows) :
    (k.Contained windows → checkStroke heads windows k = none) ∧
      (¬ k.Contained windows → checkStroke heads windows k = some .outsideWindow) := by
  obtain ⟨h1, h2, h3, h4, h5⟩ := h
  have hlong : ¬ (k.startX = k.endX ∧ k.startY = k.endY) := fun he => h5.elim (absurd he.1) (absurd he.2)
  rw [checkStroke, if_neg (Nat.not_lt.2 h1), if_neg (Nat.not_lt.2 h2), if_neg (by simpa using h3),
    if_neg fun hn => reaches_iff.1 hn h4, if_neg hlong]
  cases hw : nth windows k.window with
  | none => exact ⟨fun _ => rfl, fun hn => absurd (fun w hw' => by rw [hw] at hw'; cases hw') hn⟩
  | some w =>
    have hall : ((List.range k.passes).all fun n => inWindow w (k.passPoints n).1 && inWindow w (k.passPoints n).2) = true ↔
        k.Contained windows := by
      rw [List.all_eq_true]
      simp only [passPoints_inside, List.mem_range, Stroke.Contained, hw, Option.some.injEq, forall_eq']
    exact ⟨fun hc => if_pos (hall.2 hc), fun hc => if_neg (mt hall.1 hc)⟩

end Strokes

/-- A FinishRecipe of a LOADING slot, by what validation finds. -/
theorem ownFinishRecipe_loading {s : State} {slot : Nat} {x : RecipeSlot} {h : Header}
    (hx : nth s.recipes.slots slot = some x) (hs : x.state = .loading) (hh : x.header = some h) :
    (validate s.lots.heads h x = none → ownFinishRecipe slot s =
      accept (s.setSlot slot { x with state := .ready }) [u1 x.windows.length, u1 x.sites.length, u1 x.strokes.length]) ∧
    ∀ f, validate s.lots.heads h x = some f → ownFinishRecipe slot s =
      refuse (s.setSlot slot { emptySlot with useCount := x.useCount }) .invalid
        [.word f.list.code, u1 f.index, .word f.cause.code] := by
  unfold ownFinishRecipe
  simp only [hx, hs, hh]
  exact ⟨fun hv => by rw [hv], fun f hv => by rw [hv]⟩

/-- A FinishRecipe whose validation fails empties the slot and names the failing item. -/
theorem finishRecipe_fails {s : State} {q : Req} {slot : Nat} {x : RecipeSlot} {h : Header} {f : FailingItem}
    (ht : s.Takes q 0) (hx : nth s.recipes.slots slot = some x) (hs : x.state = .loading) (hh : x.header = some h)
    (hv : validate s.lots.heads h x = some f) :
    ∃ u, exec (.finishRecipe q slot) s = .next u ∧
      Done s u q 14 .invalid [.word f.list.code, u1 f.index, .word f.cause.code] [] [.recipes] ∧
      SlotBecomes s u slot { emptySlot with useCount := x.useCount } :=
  request_writesSlot 14 (owner := fun _ => ownFinishRecipe slot) ht hx
    ((ownFinishRecipe_loading (s := s.inServiceOf q) hx hs hh).2 f hv)

theorem validate_noWindows {heads : List (Option HeadConfig)} {h : Header} {x : RecipeSlot} (hw : x.windows = []) :
    validate heads h x = some { list := .header, index := 0, cause := .noWindows } := if_pos hw

theorem validate_noStrokes {heads : List (Option HeadConfig)} {h : Header} {x : RecipeSlot} (hw : x.windows ≠ [])
    (hk : x.strokes = []) : validate heads h x = some { list := .header, index := 0, cause := .noStrokes } := by
  rw [validate, if_neg hw, if_pos hk]

section Lists

variable {heads : List (Option HeadConfig)} {h : Header} {x : RecipeSlot} {f : FailingItem}

theorem validate_windows (hw : x.windows ≠ []) (hk : x.strokes ≠ [])
    (hf : firstFailure .windows (checkWindow h x.sites.length) 1 x.windows = some f) : validate heads h x = some f := by
  rw [validate, if_neg hw, if_neg hk, hf]

theorem validate_sites (hw : x.windows ≠ []) (hk : x.strokes ≠ [])
    (hwindows : ∀ w ∈ x.windows, checkWindow h x.sites.length w = none)
    (hf : firstFailure .sites (checkSite h) 1 x.sites = some f) : validate heads h x = some f := by
  rw [validate, if_neg hw, if_neg hk, firstFailure_none 1 hwindows, hf]

theorem validate_strokes (hw : x.windows ≠ []) (hk : x.strokes ≠ [])
    (hwindows : ∀ w ∈ x.windows, checkWindow h x.sites.length w = none) (hsites : ∀ y ∈ x.sites, checkSite h y = none) :
    validate heads h x = firstFailure .strokes (checkStroke heads x.windows) 1 x.strokes := by
  rw [validate, if_neg hw, if_neg hk, firstFailure_none 1 hwindows, firstFailure_none 1 hsites]

end Lists

theorem finishRecipe_outside {s : State} {q : Req} {slot : Nat} (h : s.Takes q 0)
    (hx : nth s.recipes.slots slot = none) :
    ∃ u, exec (.finishRecipe q slot) s = .next u ∧ Done s u q 14 .invalid [] [] [] := by
  have hx' : nth (s.inServiceOf q).recipes.slots slot = none := hx
  exact refused 14 (owner := fun _ => ownFinishRecipe slot) h (by rw [ownFinishRecipe, hx']; rfl)

theorem finishRecipe_notLoading {s : State} {q : Req} {slot : Nat} {x : RecipeSlot} (h : s.Takes q 0)
    (hx : nth s.recipes.slots slot = some x) (hs : x.state ≠ .loading) :
    ∃ u, exec (.finishRecipe q slot) s = .next u ∧ Done s u q 14 .stage [] [] [] := by
  refine refused 14 (owner := fun _ => ownFinishRecipe slot) h ?_
  have hx' : nth (s.inServiceOf q).recipes.slots slot = some x := hx
  unfold ownFinishRecipe
  rw [hx']
  dsimp only
  split
  · exact absurd ‹_› hs
  · rfl

/-- Settles O23: OpenRecipe, a recipe that passes every check, and the first record that fails one. -/
theorem recipeOpensAndValidates : Obligations.RecipeOpensAndValidates := by
  refine ⟨fun s q slot h ht => ⟨fun k hk => ?fault, fun x hf hx => ⟨fun hs hu => ?opens, fun hs => ?loading,
    fun hs hu => ?inUse⟩⟩, fun s q slot ht hlen => ⟨fun hout => ?outside, fun x hx hs => finishRecipe_notLoading ht hx hs,
    fun x h hx hs hh => ⟨fun hw hk hwindows hsites hstrokes => ?valid, fun hw => ?noWindows, fun hw hk => ?noStrokes⟩⟩,
    fun s q slot x h ht hx hs hh hw hk => ?fails⟩
  case fault => exact refused 10 (owner := fun _ => ownOpenRecipe slot h) ht (by rw [ownOpenRecipe, hk]; rfl)
  case opens =>
    have ho := ownOpenRecipe_opens (s := s.inServiceOf q) hf hx hs hu
    rw [hu] at ho
    exact request_setSlot 10 (owner := fun _ => ownOpenRecipe slot h) ht hx ho
  case loading => exact refused 10 (owner := fun _ => ownOpenRecipe slot h) ht (by simp [ownOpenRecipe, hf, hx, hs, refuse])
  case inUse => exact refused 10 (owner := fun _ => ownOpenRecipe slot h) ht (by simp [ownOpenRecipe, hf, hx, hs, hu, refuse])
  case outside => exact finishRecipe_outside ht (nth_outside (hlen.symm ▸ hout))
  case valid =>
    have hv : validate s.lots.heads h x = none := by
      rw [validate_strokes hw hk (fun w hm => ?_) (fun y hm => (checkSite_eq h y).1 (hsites y hm))]
      · refine firstFailure_none 1 fun k hm => ?_
        obtain ⟨h1, h2, h3, h5, h4, h6⟩ := hstrokes k hm
        exact (checkStroke_contained ⟨h1, h2, h3, h4, h5⟩).1 fun w hw n hn => by
          obtain ⟨a, b, c, d, e, f, g, i⟩ := h6 w hw n hn
          exact ⟨⟨a, b, c, d⟩, e, f, g, i⟩
      · obtain ⟨h1, h2, h3, h4, h5⟩ := hwindows w hm
        exact (checkWindow_eq h _ w).1 ⟨h1, h2, h3, h4⟩ h5
    exact request_setSlot 14 (owner := fun _ => ownFinishRecipe slot) ht hx
      ((ownFinishRecipe_loading (s := s.inServiceOf q) hx hs hh).1 hv)
  case noWindows => exact finishRecipe_fails ht hx hs hh (validate_noWindows hw)
  case noStrokes => exact finishRecipe_fails ht hx hs hh (validate_noStrokes hw hk)
  case fails =>
    intro fails _ _ _ _ _ _ _ _ contained
    have found {list : ItemList} {n : Nat} {c : ItemCause}
        (hv : validate s.lots.heads h x = some { list := list, index := 1 + n, cause := c }) :
        fails list.code (n + 1) c.code := by
      rw [Nat.add_comm n 1]
      exact finishRecipe_fails ht hx hs hh hv
    have windowPasses {v : Window} (hv : onBoard h v ∧ v.mask ≤ x.sites.length) : checkWindow h x.sites.length v = none :=
      (checkWindow_eq h _ v).1 hv.1 hv.2
    refine ⟨fun before w after he hb => ?_, fun hwindows => ⟨fun before y after he hb hy => ?_,
      fun hsites before k after he hb => ?_⟩⟩
    · have failsAt {c : ItemCause} (hc : checkWindow h x.sites.length w = some c) : fails 1 (before.length + 1) c.code :=
        found (list := .windows) (validate_windows hw hk (he ▸ firstFailure_at 1 (fun v hv => windowPasses (hb v hv)) hc))
      exact ⟨fun hn => failsAt ((checkWindow_eq h _ w).2.1 hn), fun hon hm => failsAt ((checkWindow_eq h _ w).2.2 hon hm)⟩
    · exact found (list := .sites) (validate_sites hw hk (fun w hm => windowPasses (hwindows w hm))
        (he ▸ firstFailure_at 1 (fun v hv => (checkSite_eq h v).1 (hb v hv)) ((checkSite_eq h y).2 hy)))
    · have failsAt {c : ItemCause} (hc : checkStroke s.lots.heads x.windows k = some c) :
          fails 3 (before.length + 1) c.code := by
        refine found (list := .strokes) ((validate_strokes hw hk (fun w hm => windowPasses (hwindows w hm))
          fun y hm => (checkSite_eq h y).1 (hsites y hm)).trans ?_)
        rw [he]
        refine firstFailure_at 1 (fun v hv => ?_) hc
        obtain ⟨h1, h2, h3, h4, h5, h6⟩ := hb v hv
        exact (checkStroke_contained ⟨h1, h2, h3, h4, h5⟩).1 h6
      exact ⟨fun h1 => failsAt (checkStroke_head h1), fun h1 h2 => failsAt (checkStroke_window h1 h2),
        fun h1 h2 h3 => failsAt (checkStroke_transit h1 h2 h3),
        fun h1 h2 h3 h4 => failsAt (checkStroke_height h1 h2 h3 h4),
        fun h1 h2 h3 h4 h5 => failsAt (checkStroke_short h1 h2 h3 h4 h5),
        fun h1 h2 h3 h4 h5 h6 => failsAt ((checkStroke_contained ⟨h1, h2, h3, h4, h5⟩).2 h6)⟩

end Sys2Proof.Machine
end

section
/-! PROOF of the configuration requests and of the mounting of lots (O27, O28). -/

namespace Sys2Proof.Machine

/-! ### The first field at fault -/

@[simp] theorem firstAtFault_true (l : List Bool) : firstAtFault (true :: l) = (firstAtFault l).map (· + 1) := rfl
@[simp] theorem firstAtFault_false (l : List Bool) : firstAtFault (false :: l) = some 0 := rfl
@[simp] theorem firstAtFault_nil : firstAtFault [] = none := rfl

theorem within_false {lo hi n : Nat} (h : n < lo ∨ hi < n) : within lo hi n = false := by
  rw [Bool.eq_false_iff, ne_eq, within_iff]
  omega

/-! ### SetHead (R44) -/

theorem ownSetHead_eq {s : State} {head : Nat} {c : HeadConfig}
    (hf : firstAtFault (headChecks s.lots.heads.length head c) = none) :
    (c.zMax < c.zMin → ownSetHead head c s = refuse s .invalid [.word 4]) ∧
      (c.zMin ≤ c.zMax → c.fanMax < c.fanMin → ownSetHead head c s = refuse s .invalid [.word 6]) ∧
      (c.zMin ≤ c.zMax → c.fanMin ≤ c.fanMax → c.vMax < c.vMin → ownSetHead head c s = refuse s .invalid [.word 8]) ∧
      (c.zMin ≤ c.zMax → c.fanMin ≤ c.fanMax → c.vMin ≤ c.vMax → ownSetHead head c s =
        if s.running then refuse s .busy else accept (s.onLots fun b => { b with heads := putNth b.heads head (some c) })) := by
  unfold ownSetHead headPairs
  rw [hf]
  refine ⟨fun hz => ?_, fun hz hw => ?_, fun hz hw hv => ?_, fun hz hw hv => ?_⟩
  · rw [decide_eq_false (Nat.not_le.2 hz)]
    rfl
  · rw [decide_eq_true hz, decide_eq_false (Nat.not_le.2 hw)]
    rfl
  · rw [decide_eq_true hz, decide_eq_true hw, decide_eq_false (Nat.not_le.2 hv)]
    rfl
  · rw [decide_eq_true hz, decide_eq_true hw, decide_eq_true hv]
    rfl

theorem running_iff (s : State) : s.running = true ↔ s.engine.cell = .running := beq_iff_eq

/-! ### SetOvenGeometry (R112) -/

theorem risingFrom_of_pairwise {low : Nat} {l : List Nat} (h : (low :: l).Pairwise (· < ·)) : risingFrom low l = true := by
  induction l generalizing low with
  | nil => rfl
  | cons b rest ih =>
    obtain ⟨hlow, hrest⟩ := List.pairwise_cons.1 h
    rw [risingFrom, decide_eq_true (hlow b (by simp)), ih hrest]
    rfl

theorem inCureStages_iff (r : Traveler) :
    inCureStages r = true ↔ r.stage = .flash ∨ r.stage = .cure ∨ r.stage = .ovenExit := by
  simp [inCureStages, or_assoc]

/-! ### SetReleaseLevel (R147) -/

theorem reasonOfCode (k : HoldReason) : HoldReason.ofCode k.code = some k := by cases k <;> rfl

theorem reasonOfCode_outside {n : Nat} (h : 13 < n) : HoldReason.ofCode n = none := by
  unfold HoldReason.ofCode
  split
  all_goals first | omega | rfl

theorem reasonCode_lt (k : HoldReason) : k.code < 14 := by cases k <;> decide

theorem levelOf_set (m : HoldManager) (k j : HoldReason) (level : Nat) (h : m.levels.length = 14) :
    HoldManager.levelOf { m with levels := m.levels.set k.code level } j = if j = k then level else m.levelOf j := by
  unfold HoldManager.levelOf
  rw [List.getElem?_set]
  by_cases hj : j = k
  · subst hj
    simp [h, reasonCode_lt j]
  · rw [if_neg fun hc => hj (code_injective hc).symm, if_neg hj]

/-- Settles O27, request by request. -/
theorem configurationReplacedWhole : Obligations.ConfigurationReplacedWhole := by
  refine ⟨fun s q head c h => ⟨fun k hk => ?headFault, fun hf => ?head⟩, fun s q l h => ⟨fun hf => ?gantry,
    fun k hk => ?gantryFault, fun hx hlo hhi => ?gantryCrossed⟩, fun s q length gap bounds h h1 h12 =>
    ⟨fun hzones hrise hlast hg1 hg5 => ?oven, fun hzones => ?ovenZones, fun other k hk => ?ovenFault⟩,
    fun s q word level h hlen => ⟨fun k hk hl => ?level, fun hbad => ?badLevel⟩, fun s q v h =>
    ⟨fun a1 a2 b1 b2 c1 c2 d1 d2 e1 e2 f1 f2 => ?timeouts, fun k hk => ?badTimeout, fun ht => ?badTransfer,
      fun h1 h30 hp => ?badPre⟩⟩
  case headFault => exact refused 19 (owner := fun _ => ownSetHead head c) h (by rw [ownSetHead, inServiceOf_lots, hk]; rfl)
  case head =>
    obtain ⟨hz, hw, hv, hall⟩ := ownSetHead_eq (s := s.inServiceOf q) hf
    have invalid {k : Nat} (ho : ownSetHead head c (s.inServiceOf q) = refuse (s.inServiceOf q) .invalid [.word k]) :=
      refused 19 (owner := fun _ => ownSetHead head c) h ho
    refine ⟨fun h1 => invalid (hz h1), fun h1 h2 => invalid (hw h1 h2), fun h1 h2 h3 => invalid (hv h1 h2 h3),
      fun h1 h2 h3 => ⟨fun hr => ?_, fun hr => ?_⟩⟩
    · obtain ⟨hu, hdone⟩ := request_done 19 (owner := fun _ => ownSetHead head c) h
        ((hall h1 h2 h3).trans (if_neg (mt (running_iff s).1 hr))) (happened_onLots _ _)
      obtain ⟨hlo, hhi⟩ := within_iff.1 (firstAtFault_head hf)
      exact ⟨_, hu, hdone, nth_putNth_same _ _ _ hlo hhi, fun n hn => nth_putNth_other _ _ _ _ hn, rfl⟩
    · exact refused 19 (owner := fun _ => ownSetHead head c) h ((hall h1 h2 h3).trans (if_pos ((running_iff s).2 hr)))
  case gantry =>
    refine ⟨fun hr hp ha => ?_, fun hb => ?_⟩
    · have ho : ownSetGantryLimits l (s.inServiceOf q) =
          accept ((s.inServiceOf q).onEngine fun e => { e with limits := some l }) := by
        unfold ownSetGantryLimits
        rw [hf, inServiceOf_engine]
        cases hc : s.engine.cell <;> simp_all
      obtain ⟨hu, hdone⟩ := request_done 29 (owner := fun _ => ownSetGantryLimits l) h ho (happened_onEngine _ _)
      exact ⟨_, hu, hdone, rfl⟩
    · refine refused 29 (owner := fun _ => ownSetGantryLimits l) h ?_
      unfold ownSetGantryLimits
      rw [hf, inServiceOf_engine]
      rcases hb with hb | hb | hb <;> rw [hb] <;> rfl
  case gantryFault => exact refused 29 (owner := fun _ => ownSetGantryLimits l) h (by rw [ownSetGantryLimits, hk]; rfl)
  case gantryCrossed =>
    have hk : firstAtFault (gantryChecks l) = some 1 := by
      have hmin : gantryPosition l.xMin = true := by simp [gantryPosition, withinInt, hlo, hhi]
      simp only [gantryChecks, hmin, decide_eq_false (Int.not_lt.2 hx), Bool.and_false, firstAtFault_true,
        firstAtFault_false]
      rfl
    exact refused 29 (owner := fun _ => ownSetGantryLimits l) h (by rw [ownSetGantryLimits, hk]; rfl)
  case oven =>
    have hf : firstAtFault (geometryChecks s.io.straps.zones length bounds gap) = none := by
      simp [geometryChecks, within_iff.2 ⟨h1, h12⟩, hzones, risingFrom_of_pairwise hrise, hlast, within_iff.2 ⟨hg1, hg5⟩]
    have ho : ownSetOvenGeometry length bounds gap (s.inServiceOf q) =
        if (s.inServiceOf q).anyTraveler inCureStages then refuse (s.inServiceOf q) .busy
        else accept ((s.inServiceOf q).onCure fun c =>
          { c with geometry := some { length := length * 10, bounds := bounds.map (· * 10), gap := gap * 10 } }) := by
      rw [ownSetOvenGeometry, inServiceOf_io, hf]
    refine ⟨fun hnone => ?_, fun t r hr hs => ?_⟩
    · have hno : ¬ (s.inServiceOf q).anyTraveler inCureStages = true := fun hany => by
        obtain ⟨t, r, hr, hs⟩ := anyTraveler_iff.1 hany
        obtain ⟨a, b, c⟩ := hnone t r hr
        exact ((inCureStages_iff r).1 hs).elim a fun h => h.elim b c
      obtain ⟨hu, hdone⟩ := request_done 30 (owner := fun _ => ownSetOvenGeometry length bounds gap) h
        (ho.trans (if_neg hno)) (happened_onCure _ _)
      exact ⟨_, hu, hdone, rfl, rfl⟩
    · have hany : (s.inServiceOf q).anyTraveler inCureStages = true :=
        anyTraveler_iff.2 ⟨t, r, hr, (inCureStages_iff r).2 hs⟩
      exact refused 30 (owner := fun _ => ownSetOvenGeometry length bounds gap) h (ho.trans (if_pos hany))
  case ovenZones =>
    have hk : firstAtFault (geometryChecks s.io.straps.zones length bounds gap) = some 1 := by
      simp [geometryChecks, within_iff.2 ⟨h1, h12⟩, hzones]
    exact refused 30 (owner := fun _ => ownSetOvenGeometry length bounds gap) h
      (by rw [ownSetOvenGeometry, inServiceOf_io, hk]; rfl)
  case ovenFault =>
    exact refused 30 (owner := fun _ => ownSetOvenGeometry other bounds gap) h
      (by rw [ownSetOvenGeometry, inServiceOf_io, hk]; rfl)
  case level =>
    subst hk
    have ho : ownSetReleaseLevel k.code level (s.inServiceOf q) =
        accept ((s.inServiceOf q).onHolds fun m => { m with levels := m.levels.set k.code level })
          [u1 (s.holds.levelOf k), u1 level] := by
      rw [ownSetReleaseLevel, reasonOfCode, within_iff.2 ⟨Nat.zero_le _, hl⟩]
      rfl
    obtain ⟨hu, hdone⟩ := request_done 33 (owner := fun _ => ownSetReleaseLevel k.code level) h ho (happened_onHolds _ _)
    have hset (j : HoldReason) := levelOf_set s.holds k j level hlen
    exact ⟨_, hu, hdone, (hset k).trans (if_pos rfl), fun j hj => (hset j).trans (if_neg hj), rfl⟩
  case badLevel =>
    refine refused 33 (owner := fun _ => ownSetReleaseLevel word level) h ?_
    unfold ownSetReleaseLevel
    rcases hbad with hw | hl
    · rw [reasonOfCode_outside hw]
      rfl
    · rw [within_false (.inr hl)]
      cases HoldReason.ofCode word <;> rfl
  case timeouts =>
    have hf : firstAtFault (timeoutChecks v) = none := by
      simp [timeoutChecks, within_iff.2 ⟨a1, a2⟩, within_iff.2 ⟨b1, b2⟩, within_iff.2 ⟨c1, c2⟩, within_iff.2 ⟨d1, d2⟩,
        within_iff.2 ⟨e1, e2⟩, within_iff.2 ⟨f1, f2⟩]
    obtain ⟨hu, hdone⟩ := request_done 43 (owner := fun _ => ownSetTimeouts v)
      (t := (s.inServiceOf q).onIo fun io => { io with timeouts := v }) h (by rw [ownSetTimeouts, hf]; rfl)
      (happened_onIo _ _)
    exact ⟨_, hu, hdone, rfl, rfl⟩
  case badTimeout => exact refused 43 (owner := fun _ => ownSetTimeouts v) h (by rw [ownSetTimeouts, hk]; rfl)
  case badTransfer =>
    have hk : firstAtFault (timeoutChecks v) = some 0 := by
      simp [timeoutChecks, within_false (lo := 1) (hi := 30) (n := v.transfer) (by omega)]
    exact refused 43 (owner := fun _ => ownSetTimeouts v) h (by rw [ownSetTimeouts, hk]; rfl)
  case badPre =>
    have hk : firstAtFault (timeoutChecks v) = some 1 := by
      simp [timeoutChecks, within_iff.2 ⟨h1, h30⟩, within_false hp]
    exact refused 43 (owner := fun _ => ownSetTimeouts v) h (by rw [ownSetTimeouts, hk]; rfl)

/-! ### The low warning (R52) and the record a mount takes (R47) -/

theorem warnLow_live {s : State} {n : Nat} {m : Lot} (h : nth s.lots.records n = some (some m)) :
    s.warnLow n =
      if m.remaining < m.lowLimit ∧ m.lowWarned = false then
        (s.setLot n { m with lowWarned := true }).post (.lotLow m.head n m.id m.remaining m.lowLimit)
      else s := by
  unfold State.warnLow
  rw [h]
  rfl

/-- The record that R47 gives a lot id, where no lot on a head has it. -/
theorem choose_spec {b : LotTable} {id : Text} {n : Nat} (hfree : ∀ x, some x ∈ b.records → x.id = id → x.state = .unmounted)
    (h : (∃ x, nth b.records n = some (some x) ∧ x.id = id ∧
        ∀ k y, nth b.records k = some (some y) → y.id = id → n ≤ k) ∨
      ((∀ x, some x ∈ b.records → x.id ≠ id) ∧ nth b.records n = some none ∧
        ∀ k, nth b.records k = some none → n ≤ k) ∨
      ((∀ x, some x ∈ b.records → x.id ≠ id) ∧ none ∉ b.records ∧ b.unmount.head? = some n ∧
        1 ≤ n ∧ n ≤ b.records.length)) :
    b.choose id = some n ∧ 1 ≤ n ∧ n ≤ b.records.length := by
  have noSame (hn : ∀ x, some x ∈ b.records → x.id ≠ id) :
      b.firstRecord (fun o => o.any fun m => !m.onHead && m.id == id) = none := by
    refine firstNth_none fun o ho => ?_
    cases o with
    | none => rfl
    | some x => simp [hn x ho]
  unfold LotTable.choose
  rcases h with ⟨x, hx, hid, hmin⟩ | ⟨hn, hx, hmin⟩ | ⟨hn, hnone, hhead, h1, h2⟩
  · have hfirst : b.firstRecord (fun o => o.any fun m => !m.onHead && m.id == id) = some n := by
      refine firstNth_some hx ?_ fun k o hk ho => ?_
      · simp [Lot.onHead, hfree x (mem_of_nth hx) hid, hid]
      · cases o with
        | none => simp at ho
        | some y => exact hmin k y hk (by simpa using (Bool.and_eq_true_iff.1 ho).2)
    rw [hfirst]
    exact ⟨rfl, nth_some hx⟩
  · rw [noSame hn]
    have hfirst : b.firstRecord (·.isNone) = some n :=
      firstNth_some hx rfl fun k o hk ho => hmin k (by rw [hk, Option.isNone_iff_eq_none.1 ho])
    rw [hfirst]
    exact ⟨rfl, nth_some hx⟩
  · rw [noSame hn]
    have hfirst : b.firstRecord (·.isNone) = none := firstNth_none fun o ho => by
      cases o with
      | none => exact absurd ho hnone
      | some x => rfl
    rw [hfirst]
    exact ⟨hhead, h1, h2⟩

/-! ### MountLot (R46, R47) -/

/-- The lot table once a lot is mounted, before the low warning. -/
def State.withMounted (s : State) (n head : Nat) (m : LotFields) : State :=
  (s.onLots fun b =>
    { b with records := putNth b.records n (some (freshLot s.now head m)),
             map := putNth b.map head (some n), unmount := b.unmount.filter (· != n) }).post
    (.lotMounted head n m.id m.kind m.charge m.age)

theorem happened_withMounted (s : State) (n head : Nat) (m : LotFields) :
    Happened s (s.withMounted n head m) [.lotMounted head n m.id m.kind m.charge m.age] [.lots] :=
  (happened_onLots s _).then rfl (happened_post _ _) (by simp)

/-- The low warning of a new lot: its threshold is above its charge. -/
theorem mount_eq {s : State} {n : Nat} (head : Nat) (m : LotFields) (h1 : 1 ≤ n) (hn : n ≤ s.lots.records.length) :
    s.mount n head m =
      if m.charge < m.lowLimit then
        ((s.withMounted n head m).setLot n { freshLot s.now head m with lowWarned := true }).post
          (.lotLow head n m.id (m.charge * 1000) (m.lowLimit * 1000))
      else s.withMounted n head m := by
  have hrec : nth (s.withMounted n head m).lots.records n = some (some (freshLot s.now head m)) :=
    nth_putNth_same s.lots.records n _ h1 hn
  have hlow : ((freshLot s.now head m).remaining < (freshLot s.now head m).lowLimit ∧
      (freshLot s.now head m).lowWarned = false) ↔ m.charge < m.lowLimit := by
    simp only [freshLot, and_true]
    omega
  show (s.withMounted n head m).warnLow n = _
  rw [warnLow_live hrec]
  simp only [hlow]
  rfl

/-- A mount: its notices, the record it fills and the rest of the lot table. -/
theorem mount_spec {s : State} {n : Nat} (head : Nat) (m : LotFields) (h1 : 1 ≤ n) (hn : n ≤ s.lots.records.length) :
    let low := decide (m.charge < m.lowLimit)
    Happened s (s.mount n head m) ([.lotMounted head n m.id m.kind m.charge m.age] ++
        if low then [.lotLow head n m.id (m.charge * 1000) (m.lowLimit * 1000)] else []) [.lots] ∧
      (s.mount n head m).lots =
        { s.lots with
          records := (s.mount n head m).lots.records, map := putNth s.lots.map head (some n)
          unmount := s.lots.unmount.filter (· != n) } ∧
      ∀ k, nth (s.mount n head m).lots.records k =
        if k = n then some (some { freshLot s.now head m with lowWarned := low }) else nth s.lots.records k := by
  intro low
  have hput (a : Lot) (k : Nat) : nth (putNth s.lots.records n (some a)) k = if k = n then some (some a) else nth s.lots.records k := by
    rw [nth_putNth]
    simp [h1, hn]
  rw [mount_eq head m h1 hn]
  by_cases hlow : m.charge < m.lowLimit
  · rw [if_pos hlow]
    have hl : low = true := decide_eq_true hlow
    refine ⟨?_, rfl, fun k => ?_⟩
    · rw [hl]
      exact ((happened_withMounted s n head m).then rfl (happened_onLots _ _) (e := [.lots]) (by simp)).then rfl
        (happened_post _ _) (by simp)
    · rw [hl, ← hput]
      show nth (putNth (putNth s.lots.records n _) n _) k = _
      rw [nth_putNth, length_putNth, hput, hput]
      simp only [h1, hn, and_true]
      split <;> rfl
  · rw [if_neg hlow]
    have hl : low = false := decide_eq_false hlow
    refine ⟨?_, rfl, fun k => ?_⟩
    · rw [hl]
      exact happened_withMounted s n head m
    · rw [hl]
      exact hput _ k

theorem ownMountLot_accept {s : State} {head n : Nat} {m : LotFields}
    (hf : firstAtFault (lotChecks s.lots.heads.length head m) = none) (hr : s.engine.cell ≠ .running)
    (hmap : nth s.lots.map head = some none) (hfree : ∀ x, some x ∈ s.lots.records → x.id = m.id → x.state = .unmounted)
    (hn : s.lots.choose m.id = some n) : ownMountLot head m s = accept (s.mount n head m) [u1 n] := by
  have hdup : ¬ (s.lots.records.any fun o => o.any fun x => x.onHead && x.id == m.id) = true := fun hany => by
    obtain ⟨o, ho, hx⟩ := List.any_eq_true.1 hany
    cases o with
    | none => cases hx
    | some x =>
      obtain ⟨hon, hid⟩ := Bool.and_eq_true_iff.1 hx
      simp [Lot.onHead, hfree x ho (by simpa using hid)] at hon
  rw [ownMountLot, hf]
  dsimp only
  rw [if_neg (mt (running_iff s).1 hr), hmap, if_neg (by simp), if_neg hdup, hn]

/-! ### UnmountLot (R48) -/

/-- The lot table after an unmount. -/
def State.withUnmounted (s : State) (n head : Nat) (m : Lot) : State :=
  (s.setLot n { m with state := .unmounted }).onLots fun b =>
    { b with map := putNth b.map head none, unmount := b.unmount ++ [n] }

theorem ownUnmountLot_eq {s : State} {head : Nat} (h1 : 1 ≤ head) (hn : head ≤ s.lots.heads.length)
    (hr : s.engine.cell ≠ .running) : ownUnmountLot head s =
      match s.lots.mountedOn head with
      | none => refuse s .notFound
      | some (n, m) => accept (s.withUnmounted n head m) [u1 n, i4 m.remaining, i4 m.dispensed] := by
  rw [ownUnmountLot, within_iff.2 ⟨h1, hn⟩, if_neg (by simp), if_neg (mt (running_iff s).1 hr)]
  rfl

theorem mountedOn_none {b : LotTable} {head : Nat} (h : nth b.map head = some none) : b.mountedOn head = none := by
  unfold LotTable.mountedOn
  rw [h]
  rfl

theorem mountedOn_live {b : LotTable} {head n : Nat} {m : Lot} (h : nth b.map head = some (some n))
    (hm : nth b.records n = some (some m)) : b.mountedOn head = some (n, m) := by
  unfold LotTable.mountedOn
  rw [h]
  simp [hm]

/-- Settles O28: a mount and its refusals in order, and an unmount. -/
theorem lotsMountAndUnmount : Obligations.LotsMountAndUnmount := by
  refine ⟨fun s q head n m h hf hr hmap hfree hwhich => ?mount, fun s q head m h =>
    ⟨fun h1 hn hname hk1 hk2 hc1 hc2 => ?fault, fun hf => ⟨fun hr => ?busy, fun n hr hmap => ?inUse,
      fun x hr hmap hx hid hstate => ?duplicate⟩⟩,
    fun s q head h => ⟨fun hout => ?noHead, fun h1 hn hr => ?running, fun h1 hn hr => ⟨fun hmap => ?noLot,
      fun n m hmap hm => ?unmount⟩⟩⟩
  case mount =>
    obtain ⟨hchoose, h1, hn⟩ := choose_spec hfree hwhich
    obtain ⟨hhappened, hlots, hrec⟩ := mount_spec (s := s.inServiceOf q) head m h1 hn
    obtain ⟨hu, hdone⟩ := request_done 20 (owner := fun _ => ownMountLot head m) h
      (ownMountLot_accept (s := s.inServiceOf q) hf hr hmap hfree hchoose) hhappened
    have hlots' : ((s.inServiceOf q).mount n head m).lots.map = putNth s.lots.map head (some n) := by rw [hlots]; rfl
    refine ⟨_, hu, hdone, (hrec n).trans (if_pos rfl), fun k hk => (hrec k).trans (if_neg hk), ?_, fun k hk => ?_, ?_, ?_⟩
    · exact (congrArg (nth · head) hlots').trans (nth_putNth_live _ hmap)
    · exact (congrArg (nth · k) hlots').trans (nth_putNth_other _ _ _ _ hk)
    · exact (congrArg LotTable.unmount hlots : _)
    · exact (congrArg LotTable.heads hlots : _)
  case fault =>
    have fault {k : Nat} (hk : firstAtFault (lotChecks s.lots.heads.length head m) = some k) :
        ∃ u, exec (.mountLot q head m) s = .next u ∧ Done s u q 20 .invalid [.word (lotField k)] [] [] :=
      refused 20 (owner := fun _ => ownMountLot head m) h (by rw [ownMountLot, inServiceOf_lots, hk]; rfl)
    have hfront : within 1 s.lots.heads.length head = true ∧ within 1 15 m.kind = true ∧ within 1 4000000 m.charge = true :=
      ⟨within_iff.2 ⟨h1, hn⟩, within_iff.2 ⟨hk1, hk2⟩, within_iff.2 ⟨hc1, hc2⟩⟩
    refine ⟨fun hp => fault (k := 4) ?_, fun hp1 hp2 hd => fault (k := 5) ?_, fun hp1 hp2 hd ha => fault (k := 6) ?_,
      fun hp1 hp2 hd ha hl => fault (k := 7) ?_⟩
    · simp [lotChecks, hfront, hname, within_false hp]
    · simp [lotChecks, hfront, hname, within_iff.2 ⟨hp1, hp2⟩, within_false (lo := 0) (.inr hd)]
    · simp [lotChecks, hfront, hname, within_iff.2 ⟨hp1, hp2⟩, within_iff.2 ⟨Nat.zero_le _, hd⟩,
        show ¬ m.age + 1 ≤ m.potLife by omega]
    · simp [lotChecks, hfront, hname, within_iff.2 ⟨hp1, hp2⟩, within_iff.2 ⟨Nat.zero_le _, hd⟩,
        show m.age + 1 ≤ m.potLife by omega, within_false (lo := 0) (.inr hl)]
  case busy =>
    exact refused 20 (owner := fun _ => ownMountLot head m) h
      (by rw [ownMountLot, inServiceOf_lots, hf]; exact if_pos ((running_iff s).2 hr))
  case inUse =>
    refine refused 20 (owner := fun _ => ownMountLot head m) h ?_
    rw [ownMountLot, inServiceOf_lots, hf]
    dsimp only
    rw [inServiceOf_running, if_neg (mt (running_iff s).1 hr), hmap]
    exact if_pos rfl
  case duplicate =>
    refine refused 20 (owner := fun _ => ownMountLot head m) h ?_
    have hdup : (s.lots.records.any fun o => o.any fun x => x.onHead && x.id == m.id) = true :=
      List.any_eq_true.2 ⟨some x, hx, by simp [Lot.onHead, hstate, hid]⟩
    rw [ownMountLot, inServiceOf_lots, hf]
    dsimp only
    rw [inServiceOf_running, if_neg (mt (running_iff s).1 hr), hmap, if_neg (by simp), if_pos hdup]
    rfl
  case noHead =>
    have hw : within 1 s.lots.heads.length head = false := within_false (by omega)
    exact refused 21 (owner := fun _ => ownUnmountLot head) h (by rw [ownUnmountLot, inServiceOf_lots, hw]; rfl)
  case running =>
    refine refused 21 (owner := fun _ => ownUnmountLot head) h ?_
    rw [ownUnmountLot, inServiceOf_lots, within_iff.2 ⟨h1, hn⟩, if_neg (by simp)]
    exact if_pos ((running_iff s).2 hr)
  case noLot =>
    refine refused 21 (owner := fun _ => ownUnmountLot head) h ?_
    rw [ownUnmountLot_eq (s := s.inServiceOf q) h1 hn hr, inServiceOf_lots, mountedOn_none hmap]
    rfl
  case unmount =>
    have ho : ownUnmountLot head (s.inServiceOf q) =
        accept ((s.inServiceOf q).withUnmounted n head m) [u1 n, i4 m.remaining, i4 m.dispensed] := by
      rw [ownUnmountLot_eq (s := s.inServiceOf q) h1 hn hr, inServiceOf_lots, mountedOn_live hmap hm]
    obtain ⟨hu, hdone⟩ := request_done 21 (owner := fun _ => ownUnmountLot head) h ho
      ((happened_onLots _ _).then rfl (happened_onLots _ _) (e := [.lots]) (by simp))
    exact ⟨_, hu, hdone, nth_putNth_live _ hm, fun k hk => nth_putNth_other _ _ _ _ hk, nth_putNth_live _ hmap,
      fun k hk => nth_putNth_other _ _ _ _ hk, rfl, rfl⟩

end Sys2Proof.Machine
end

section
/-! PROOF of expiry, of the oven's speed and ranges, of sampling rounds and of the belt's advance (O29, O42, O45, O46). -/

namespace Sys2Proof.Machine

/-! ### Expiry of a lot (R50) -/

theorem lotExpires_eq {s : State} {n : Nat} {m : Lot} (h : nth s.lots.records n = some (some m)) :
    s.lotExpires n = if m.state = .mounted ∧ m.overAge s.now = true then some m else none := by
  unfold State.lotExpires
  rw [h]
  rfl

theorem overAge_iff (m : Lot) (now : Seconds) :
    m.overAge now = true ↔ (m.potLife : Int) * 60 ≤ (now.toNat : Int) - m.mixStamp := decide_eq_true_iff

/-! ### The overdue mark (R111) -/

/-- A raise on a hold set without the reason, as claims say it. -/
theorem raiseHold_adds {s : State} {t : Nat} {r : Traveler} {k : HoldReason} (who : Raiser) (g : Stage) (d : HoldDetail)
    (h : s.traveler t = some r) (hl : s.leaving t = false) (hn : ∀ x ∈ r.holds, x.reason ≠ k) :
    ∃ hs, Happened s (s.raiseHold t k who g (some d))
        [.holdRaised r.tag t k who g (s.holds.levelOf k) (some d)] [.table] ∧
      (∀ n, (s.raiseHold t k who g (some d)).traveler n = if n = t then some { r with holds := hs } else s.traveler n) ∧
      HoldAdded r.holds hs (newHold s s.now k who g d) :=
  ⟨_, happened_raiseHold_opens who g (some d) h hl hn, fun n => traveler_raiseHold_opens who g (some d) n h hl hn,
    fun x => mem_putHold (h := s.freshHold k who g (some d)) hn x⟩

theorem rewritten_of_travelers {s u : State} {t : Nat} {r : Traveler} {table : TravelerTable}
    (h : ∀ n, u.traveler n = if n = t then some r else s.traveler n)
    (htable : u.table = { table with records := u.table.records }) : Rewritten s u t r table :=
  ⟨(h t).trans (if_pos rfl), fun n hn => (h n).trans (if_neg hn), htable⟩

/-- When a board of known flash time is due for its overdue mark. -/
theorem overdueDue_iff {s : State} {t : Nat} {r : Traveler} {h : Header} {e : Seconds} (hr : s.traveler t = some r)
    (hh : (s.recipeOf r).header = some h) (he : r.sprayEnd = some e) :
    s.overdueDue t = true ↔
      r.stage = .flash ∧ t ∉ s.cure.overdue ∧ r.route ≠ .reCure ∧ h.flashMax ≤ (s.io.seconds - e).toNat := by
  have htime : s.flashTime r = some (s.io.seconds - e).toNat := by rw [State.flashTime, he]; rfl
  unfold State.overdueDue
  rw [hr]
  dsimp only
  rw [htime, State.flashMaximum, hh]
  by_cases hroute : r.route = .reCure <;> simp [hroute, and_assoc]

/-- The mark set and FLASH_OVERDUE raised. -/
theorem examineOverdue_due {s : State} {t : Nat} {r : Traveler} {e : Seconds} (hd : s.overdueDue t = true)
    (hr : s.traveler t = some r) (he : r.sprayEnd = some e) :
    s.examineOverdue t = (s.onCure fun c => { c with overdue := c.overdue ++ [t] }).raiseHold t .flashOverdue
      .cureMonitor .flash (some (.flashTime (s.io.seconds - e).toNat)) := by
  rw [State.examineOverdue, if_pos hd, hr]
  simp only [Option.bind_some, State.flashTime, he]
  rfl

/-- Settles O29. -/
theorem expiryActsOnce : Obligations.ExpiryActsOnce := by
  refine ⟨fun s n m hm => ⟨fun hs hage => ?expires, fun hnot => ?stays⟩, fun s t r h e hr hh he =>
    ⟨fun hstage hroute hmark hmax hl => ⟨fun hn => ?opens, fun ho => ?raises⟩, fun hnot => ?unmarked⟩⟩
  case expires =>
    have hexec : exec (.lotExpiry n) s = execLotExpiry n s := rfl
    rw [hexec, execLotExpiry, lotExpires_eq hm, if_pos ⟨hs, (overAge_iff m s.now).2 hage⟩]
    obtain ⟨u, hu, hh⟩ := event_done ((happened_onLots s fun b =>
      { b with records := putNth b.records n (some { m with state := .expired }) }).then rfl
        (happened_post _ (.lotExpired m.head n m.id)) (e := [.lots]) (by simp))
    refine ⟨u, hu, hh, ?_⟩
    cases hu
    exact ⟨nth_putNth_live _ hm, fun k hk => nth_putNth_other _ _ _ _ hk, rfl⟩
  case stays =>
    have hexec : exec (.lotExpiry n) s = execLotExpiry n s := rfl
    have hno : ¬ (m.state = .mounted ∧ m.overAge s.now = true) := fun ⟨hs, ha⟩ =>
      hnot.elim (absurd hs) fun hlt => absurd ((overAge_iff m s.now).1 ha) (Int.not_le.2 hlt)
    rw [hexec, execLotExpiry, lotExpires_eq hm, if_neg hno]
    exact event_done (Happened.refl s)
  case opens =>
    have hexec : exec (.flashOverdue t) s = event (s.examineOverdue t) := rfl
    have hdue := (overdueDue_iff hr hh he).2 ⟨hstage, hmark, hroute, hmax⟩
    rw [hexec, examineOverdue_due hdue hr he]
    let v := s.onCure fun c => { c with overdue := c.overdue ++ [t] }
    obtain ⟨hs, hhap, htrav, hadded⟩ := raiseHold_adds (s := v) (k := .flashOverdue) .cureMonitor .flash
      (.flashTime (s.io.seconds - e).toNat) hr hl hn
    obtain ⟨u, hu, hdone⟩ := event_done ((happened_onCure s _).then rfl hhap (e := [.table, .cure]) (by simp))
    refine ⟨u, hs, hu, hdone, ?_⟩
    cases hu
    exact ⟨hhap.2.2.2 .cure (by simp), rewritten_of_travelers htrav (raiseHold_table v _ _ _ _ _), hadded⟩
  case raises =>
    have hexec : exec (.flashOverdue t) s = event (s.examineOverdue t) := rfl
    have hdue := (overdueDue_iff hr hh he).2 ⟨hstage, hmark, hroute, hmax⟩
    rw [hexec, examineOverdue_due hdue hr he]
    let v := s.onCure fun c => { c with overdue := c.overdue ++ [t] }
    obtain ⟨hhap, htrav⟩ := raiseHold_spec (s := v) .flashOverdue .cureMonitor .flash
      (.flashTime (s.io.seconds - e).toNat) hr hl ho
    obtain ⟨u, hu, hdone⟩ := event_done ((happened_onCure s _).then rfl hhap (e := [.table, .cure]) (by simp))
    refine ⟨u, hu, hdone, ?_⟩
    cases hu
    exact ⟨hhap.2.2.2 .cure (by simp), rewritten_of_travelers htrav (raiseHold_table v _ _ _ _ _)⟩
  case unmarked =>
    have hexec : exec (.flashOverdue t) s = event (s.examineOverdue t) := rfl
    have hno : ¬ s.overdueDue t = true := fun hd => by
      obtain ⟨h1, h2, h3, h4⟩ := (overdueDue_iff hr hh he).1 hd
      rcases hnot with h | h | h | h
      · exact h h1
      · exact h3 h
      · exact h2 h
      · exact absurd h4 (Nat.not_le.2 h)
    rw [hexec, State.examineOverdue, if_neg hno]
    exact event_done (Happened.refl s)

/-! ### The oven's speed (R113, R121) -/

theorem clamp_eq {lo hi : Nat} (h : lo ≤ hi) (v : Nat) : clamp lo hi v = max lo (min hi v) := by
  unfold clamp
  split
  · omega
  · split <;> omega

theorem setSpeed_eq (s : State) (v : Nat) (cause : SpeedCause) :
    s.setSpeed v cause =
      let u := (s.onCure fun c => { c with setpoint := v }).driveOutput
      if s.cure.setpoint = v then u else u.post (.speedChanged s.cure.setpoint v cause) := rfl

theorem happened_setSpeed (s : State) (v : Nat) (cause : SpeedCause) :
    Happened s (s.setSpeed v cause) (if s.cure.setpoint = v then [] else [.speedChanged s.cure.setpoint v cause]) [.cure] := by
  have h := (happened_onCure s fun c => { c with setpoint := v }).then rfl (happened_driveOutput _) (e := [.cure]) (by simp)
  rw [setSpeed_eq]
  dsimp only
  split
  · exact h
  · exact h.then rfl (happened_post _ _) (by simp)

theorem setSpeed_cure (s : State) (v : Nat) (cause : SpeedCause) :
    (s.setSpeed v cause).cure =
      { s.cure with setpoint := v, output := if s.mode = .halt ∨ s.cure.stalled = true then 0 else v } := by
  rw [setSpeed_eq]
  dsimp only
  split <;> rfl

/-- The bounds of a board's range before the drive's clamp: the least speed that keeps the dwell maximum, and the
greatest that keeps the dwell minimum (R113). -/
theorem speedBounds {d a b : Nat} (hd : 1 ≤ d) (ha : 1 ≤ a) (hb : 1 ≤ b) :
    (ceilDiv d a - 1) * a < d ∧ d ≤ ceilDiv d a * a ∧ d / b * b ≤ d ∧ d < (d / b + 1) * b := by
  have hceil : ceilDiv d a = (d - 1) / a + 1 := by
    rw [ceilDiv, show d + a - 1 = d - 1 + a by omega, Nat.add_div_right _ ha]
  have hdiv := Nat.div_mul_le_self (d - 1) a
  have hlt := Nat.lt_div_mul_add ha (a := d - 1)
  refine ⟨?_, ?_, Nat.div_mul_le_self d b, ?_⟩
  · rw [hceil, Nat.add_sub_cancel]
    omega
  · rw [hceil, Nat.add_mul, Nat.one_mul]
    omega
  · rw [Nat.add_mul, Nat.one_mul]
    exact Nat.lt_div_mul_add hb

/-- Settles O42. -/
theorem ovenSpeedAndRange : Obligations.OvenSpeedAndRange := by
  refine ⟨fun s q v h => ⟨fun hout => ?outside, fun h1 h2 hm => ?halt, fun h1 h2 hm hrange => ?sets⟩,
    fun g h mm hg hmm hmin hmax => ?range⟩
  case outside =>
    have hw : within Config.beltMin Config.beltMax v = false := within_false hout
    exact refused 31 (owner := fun _ => ownSetOvenSpeed v) h (by rw [ownSetOvenSpeed, hw]; rfl)
  case halt =>
    have hw : within Config.beltMin Config.beltMax v = true := within_iff.2 ⟨h1, h2⟩
    exact refused 31 (owner := fun _ => ownSetOvenSpeed v) h (by rw [ownSetOvenSpeed, hw]; exact if_pos hm)
  case sets =>
    intro a
    have hw : within Config.beltMin Config.beltMax v = true := within_iff.2 ⟨h1, h2⟩
    have ho : ownSetOvenSpeed v (s.inServiceOf q) = ((s.inServiceOf q).setSpeed a .request,
        { status := if a = v then .ok else .clamped, fields := if a = v then [] else [u2 a] }) := by
      rw [ownSetOvenSpeed, hw]
      dsimp only
      rw [if_neg (by simp), inServiceOf_mode, if_neg hm, inServiceOf_cure, clamp_eq hrange v]
      split <;> rfl
    obtain ⟨hu, hdone⟩ := request_done 31 (owner := fun _ => ownSetOvenSpeed v) h ho (happened_setSpeed _ _ _)
    have hcure : ((s.inServiceOf q).setSpeed a .request).cure =
        { s.cure with setpoint := a, output := if s.cure.stalled then 0 else a } := by
      rw [setSpeed_cure]
      simp [hm]
    refine ⟨_, hu, hdone, hcure, ?_⟩
    show Config.millivoltsPerSpeed * ((s.inServiceOf q).setSpeed a .request).cure.output = _
    rw [hcure]
    dsimp only
    split <;> rfl
  case range =>
    have hd : g.length * 6 = mm * 60 := by omega
    obtain ⟨hlo1, hlo2, hhi1, hhi2⟩ := speedBounds (d := mm * 60) (a := h.dwellMax) (b := h.dwellMin) (by omega) (by omega) hmin
    have hclamp (v : Nat) : clamp Config.beltMin Config.beltMax v = max 10 (min 2000 v) := clamp_eq (by decide) v
    refine ⟨ceilDiv (mm * 60) h.dwellMax, mm * 60 / h.dwellMin, hlo1, hlo2, hhi1, hhi2, fun hle => ?_, fun hlt => ?_⟩
    · simp only [speedRange, hd, hclamp]
      exact if_pos hle
    · simp only [speedRange, hd, hclamp]
      exact if_neg (Nat.not_le.2 hlt)

/-! ### Sampling rounds (R124, R125) -/

/-- A reading's fraction dropped toward zero is its floor from 0 up and its ceiling below. -/
theorem wholeDegrees_eq (r : Rat) : wholeDegrees r = if 0 ≤ r then ⌊r⌋ else ⌈r⌉ := by
  unfold wholeDegrees
  split
  · rename_i h
    rw [Rat.floor_def', Int.tdiv_eq_ediv_of_nonneg (Rat.num_nonneg.2 h)]
  · rename_i h
    have hneg : 0 ≤ -r.num := by
      have := Rat.num_neg.2 (not_le.1 h)
      omega
    rw [Rat.ceil_def', ← Int.tdiv_eq_ediv_of_nonneg hneg, Int.neg_tdiv, neg_neg]

theorem channelSample_eq (x : ChannelSignals) : channelSample x =
    if x.answered ∧ x.checked ∧ ¬ x.faulted ∧ -50 ≤ x.reading ∧ x.reading ≤ 450 then
      some (if 0 ≤ x.reading then ⌊x.reading⌋ else ⌈x.reading⌉) else none := by
  have hvalid : validSample x = true ↔
      (x.answered ∧ x.checked ∧ ¬ x.faulted ∧ -50 ≤ x.reading ∧ x.reading ≤ 450) := by
    simp [validSample, withinTemperature, and_assoc]
  unfold channelSample
  rw [wholeDegrees_eq]
  simp only [hvalid]

/-- The notice of one zone's sample (R125). -/
def zoneNotices (k : Nat) (z : Zone) (x : Option Int) : List NoticeKind :=
  match z.state, (z.sample x).state, (z.sample x).last with
  | .holding, .failed, v => [.zoneFailed k v]
  | .failed, .normal, some v => [.zoneRestored k v]
  | _, _, _ => []

/-- A NORMAL zone does not fail at one sample. -/
theorem sample_normal {z : Zone} (x : Option Int) (h : z.state = .normal) : (z.sample x).state ≠ .failed := by
  unfold Zone.sample
  rw [h]
  cases x with
  | none => exact nofun
  | some v => exact nofun

/-- One sample handed to the record of its zone: the record written, then its notice. -/
theorem sampleZone_eq {s : State} {k : Nat} {z : Zone} (x : Option Int) (h : nth s.cure.zones k = some z) :
    s.sampleZone k x = (zoneNotices k z x).foldl State.post
      (s.onCure fun c => { c with zones := putNth c.zones k (z.sample x) }) := by
  have hnormal := sample_normal (z := z) x
  unfold State.sampleZone zoneNotices
  rw [h]
  dsimp only
  generalize z.sample x = a at *
  cases hz : z.state <;> cases ha : a.state <;> cases hl : a.last <;> simp_all

theorem sampleZone_spec {s : State} {k : Nat} {z : Zone} (x : Option Int) (h : nth s.cure.zones k = some z) :
    Happened s (s.sampleZone k x) (zoneNotices k z x) [.cure] ∧
      (s.sampleZone k x).cure = { s.cure with zones := putNth s.cure.zones k (z.sample x) } := by
  have hset := happened_onCure s fun c => { c with zones := putNth c.zones k (z.sample x) }
  rw [sampleZone_eq x h]
  unfold zoneNotices
  split
  · exact ⟨hset.then rfl (happened_post _ _) (by simp), rfl⟩
  · exact ⟨hset.then rfl (happened_post _ _) (by simp), rfl⟩
  · exact ⟨hset, rfl⟩

theorem sampleFrom_eq (k n : Nat) (l : List ChannelSignals) (f : Nat → Option Int)
    (hf : ∀ j, f (k + j) = (l[j]?).bind channelSample) (s : State) :
    State.sampleFrom k n l s = (List.range' k n).foldl (fun s j => s.sampleZone j (f j)) s := by
  induction n generalizing k l s with
  | zero => rfl
  | succ n ih =>
    have h0 := hf 0
    rw [List.range'_succ, List.foldl_cons]
    cases l with
    | nil =>
      rw [State.sampleFrom, ih (k + 1) [] fun j => by rw [Nat.add_assoc, Nat.add_comm 1 j, hf (j + 1)]; rfl]
      rw [Nat.add_zero] at h0
      rw [h0]
      rfl
    | cons x rest =>
      rw [State.sampleFrom, ih (k + 1) rest fun j => by
        rw [Nat.add_assoc, Nat.add_comm 1 j, hf (j + 1), List.getElem?_cons_succ]]
      rw [Nat.add_zero] at h0
      rw [h0]
      rfl

/-- Samples handed to the records of several zones, one after another. -/
theorem sampleZones_spec (f : Nat → Option Int) {ks : List Nat} (hks : ks.Nodup) (s : State)
    (hlive : ∀ k ∈ ks, ∃ z, nth s.cure.zones k = some z) :
    let u := ks.foldl (fun s k => s.sampleZone k (f k)) s
    Happened s u (ks.flatMap fun k => match nth s.cure.zones k with | none => [] | some z => zoneNotices k z (f k)) [.cure] ∧
      u.cure = { s.cure with zones := u.cure.zones } ∧
      ∀ k, nth u.cure.zones k = if k ∈ ks then (nth s.cure.zones k).map (·.sample (f k)) else nth s.cure.zones k := by
  induction ks generalizing s with
  | nil => exact ⟨(Happened.refl s).mono (by simp), rfl, fun k => (if_neg (by simp)).symm⟩
  | cons k rest ih =>
    obtain ⟨hk, hrest⟩ := List.nodup_cons.1 hks
    obtain ⟨z, hz⟩ := hlive k (by simp)
    obtain ⟨h1, hcure⟩ := sampleZone_spec (f k) hz
    have hother {j : Nat} (hj : j ≠ k) : nth (s.sampleZone k (f k)).cure.zones j = nth s.cure.zones j := by
      rw [hcure]
      exact nth_putNth_other _ _ _ _ hj
    have hne {j : Nat} (hj : j ∈ rest) : j ≠ k := fun he => hk (he ▸ hj)
    obtain ⟨h2, hzones, hnth⟩ := ih hrest (s.sampleZone k (f k)) fun j hj => by
      rw [hother (hne hj)]
      exact hlive j (by simp [hj])
    refine ⟨?_, ?_, fun j => ?_⟩
    · rw [List.flatMap_cons, hz]
      have hsame : (rest.flatMap fun j => match nth (s.sampleZone k (f k)).cure.zones j with
            | none => [] | some z => zoneNotices j z (f j)) =
          rest.flatMap fun j => match nth s.cure.zones j with | none => [] | some z => zoneNotices j z (f j) :=
        List.flatMap_congr fun j hj => by rw [hother (hne hj)]
      rw [hsame] at h2
      exact h1.then (calm_sampleZone s k _).now h2 (by simp)
    · rw [List.foldl_cons, hzones, hcure]
    · rw [List.foldl_cons, hnth j]
      by_cases hj : j = k
      · subst hj
        rw [if_neg hk, if_pos (by simp), hcure, hz]
        exact nth_putNth_live _ hz
      · simp only [hother hj, List.mem_cons, hj, false_or]

/-- Settles O45: the samples of a round by their channels, and the table of R125. -/
theorem samplingRoundChangesZones : Obligations.SamplingRoundChangesZones := by
  intro s channels hlen sample after notice
  have hsample (k : Nat) : sample k = (nth channels k).bind channelSample := by
    show (match nth channels k with | none => none | some x => _) = _
    cases nth channels k with
    | none => rfl
    | some x => exact (channelSample_eq x).symm
  have hafter (z : Zone) (x : Option Int) : after z x = z.sample x := by
    dsimp only [after, Zone.sample]
    cases z.state <;> cases x <;> dsimp only
    case holding.none =>
      by_cases h : z.invalidRun < 19
      · rw [if_pos h, if_neg (show ¬ Config.zoneFailRun ≤ z.invalidRun + 1 from Nat.not_le.2 (Nat.succ_lt_succ h))]
      · rw [if_neg h, if_pos (show Config.zoneFailRun ≤ z.invalidRun + 1 from Nat.succ_le_succ (Nat.not_lt.1 h))]
    case failed.some v =>
      by_cases h : z.validRun < 3
      · rw [if_pos h, if_neg (show ¬ Config.zoneRestoreRun ≤ z.validRun + 1 from Nat.not_le.2 (Nat.succ_lt_succ h))]
      · rw [if_neg h, if_pos (show Config.zoneRestoreRun ≤ z.validRun + 1 from Nat.succ_le_succ (Nat.not_lt.1 h))]
  have hnotice (k : Nat) (z : Zone) : notice k z = zoneNotices k z (sample k) := by
    unfold zoneNotices
    rw [← hafter] <;> rfl
  have hexec : exec (.samplingRound channels) s = event (State.sampleFrom 1 s.io.straps.zones channels s) := rfl
  have hround := sampleFrom_eq 1 s.io.straps.zones channels sample (fun j => by
    rw [hsample, nth, if_neg (by omega), Nat.add_sub_cancel_left]) s
  obtain ⟨h, hcure, hzones⟩ := sampleZones_spec sample List.nodup_range' s (ks := List.range' 1 s.io.straps.zones)
    fun k hk => by
      obtain ⟨i, hi, rfl⟩ := List.mem_range'.1 hk
      exact nth_exists (by omega) (by omega)
  rw [hexec, hround]
  obtain ⟨u, hu, hdone⟩ := event_done h
  refine ⟨u, hu, ?_, fun k z hz => ?_, ?_⟩
  · have hsame : ((List.range' 1 s.io.straps.zones).flatMap fun k => match nth s.cure.zones k with
          | none => [] | some z => notice k z) =
        (List.range' 1 s.io.straps.zones).flatMap fun k => match nth s.cure.zones k with
          | none => [] | some z => zoneNotices k z (sample k) :=
      List.flatMap_congr fun k _ => by
        cases nth s.cure.zones k with
        | none => rfl
        | some z => exact hnotice k z
    exact hsame ▸ hdone
  · cases hu
    obtain ⟨h1, hk⟩ := nth_some hz
    refine (hzones k).trans ?_
    rw [if_pos (List.mem_range'.2 ⟨k - 1, by omega, by omega⟩), hz, hafter]
    rfl
  · cases hu
    exact hcure

/-! ### The belt's advance (R127, R134) -/

/-- The block once the prescaler has reloaded and the boards in CURE have advanced. -/
def State.advanced (s : State) : State :=
  (s.onCure fun c => { c with prescaler := s.io.timeouts.reload }).onTable fun b =>
    { b with records := b.records.map advanceLead }

theorem traveler_advanced (s : State) (t : Nat) : s.advanced.traveler t = advanceLead (s.traveler t) := by
  show (nth (s.table.records.map advanceLead) t).join = advanceLead (nth s.table.records t).join
  have hmap : nth (s.table.records.map advanceLead) t = (nth s.table.records t).map advanceLead := by
    unfold nth
    split <;> simp
  rw [hmap]
  rcases nth s.table.records t with - | - | r <;> rfl

theorem happened_advanced (s : State) : Happened s s.advanced [] [.table, .cure] :=
  (happened_onCure s _).then rfl (happened_onTable _ _) (by simp)

/-- A stall is found where a board is at the oven end, the exit count is 2 and the belt runs (R134). -/
theorem examineStall_cases (s : State) :
    (s.exitCount < 2 ∨ s.mode = .halt ∨ s.cure.stalled = true → s.examineStall = s) ∧
      ∀ e, s.atOvenEnd = some e → s.mode ≠ .halt → s.cure.stalled = false → 2 ≤ s.exitCount →
        s.examineStall =
          ((s.onCure fun c => { c with stalled := true }).driveOutput).post (.ovenStall (s.tagOf e.traveler) e.traveler) := by
  unfold State.examineStall
  refine ⟨fun h => ?_, fun e he hm hs hc => ?_⟩
  · cases s.atOvenEnd with
    | none => rfl
    | some e =>
      refine if_neg fun ⟨hm, hs, hc⟩ => ?_
      have hc : 2 ≤ s.exitCount := hc
      rcases h with h | h | h
      · omega
      · exact hm h
      · rw [h] at hs
        cases hs
  · rw [he]
    exact if_pos ⟨hm, hs, hc⟩

theorem driveOutput_stalled {s : State} (h : s.cure.stalled = true) :
    s.driveOutput.cure = { s.cure with output := 0 } := by
  simp [State.driveOutput, h]

theorem atOvenEnd_of {s : State} {e : OvenEntry} {rest : List OvenEntry} {g : OvenGeometry} {r : Traveler} {lead : Nat}
    (ho : s.cure.oven = e :: rest) (hg : s.cure.geometry = some g) (hr : s.traveler e.traveler = some r)
    (hl : r.lead = some lead) : s.atOvenEnd = if g.length ≤ lead then some e else none := by
  unfold State.atOvenEnd
  rw [ho, hg]
  dsimp only
  rw [hr]
  simp only [Option.bind_some, hl]

/-- Whatever an examination for a stall finds, the table stands, and of the cure monitor all but the stall and the
output. -/
theorem examineStall_frame (s : State) : s.examineStall.table = s.table ∧
    s.examineStall.cure.prescaler = s.cure.prescaler ∧ s.examineStall.cure.setpoint = s.cure.setpoint := by
  unfold State.examineStall
  split
  · exact ⟨rfl, rfl, rfl⟩
  · split <;> exact ⟨rfl, rfl, rfl⟩

/-- Settles O46. -/
theorem beltAdvanceMovesBoards : Obligations.BeltAdvanceMovesBoards := by
  intro s
  have hexec : exec .beltAdvance s = event s.advanced.examineStall := rfl
  obtain ⟨htable, hprescaler, hsetpoint⟩ := examineStall_frame s.advanced
  have htrav (t : Nat) : s.advanced.examineStall.traveler t = advanceLead (s.traveler t) :=
    (traveler_of_table htable t).trans (traveler_advanced s t)
  refine ⟨⟨_, hexec, hprescaler, hsetpoint, fun t r hr hc => ?_, fun t r hr hc => ?_, fun t ht => ?_, ?_, fun h => ?_⟩,
    fun e rest g r lead ho hg hr hc hl hend hm hs hcount => ?_⟩
  · refine (htrav t).trans ?_
    rw [hr]
    exact congrArg some (if_pos hc)
  · refine (htrav t).trans ?_
    rw [hr]
    exact congrArg some (if_neg hc)
  · refine (htrav t).trans ?_
    rw [ht]
    rfl
  · have : s.advanced.examineStall.table = { s.table with records := s.advanced.examineStall.table.records } := by
      rw [htable]
      rfl
    exact this
  · rw [(examineStall_cases s.advanced).1 h]
    exact ⟨event_happened (happened_advanced s), rfl⟩
  · have hadv : s.advanced.traveler e.traveler = some { r with lead := some (lead + 1) } := by
      rw [traveler_advanced, hr]
      refine congrArg some ((if_pos hc).trans ?_)
      rw [hl]
      rfl
    have hat : s.advanced.atOvenEnd = some e := (atOvenEnd_of (s := s.advanced) ho hg hadv rfl).trans (if_pos hend)
    have htag : s.advanced.tagOf e.traveler = r.tag := by rw [State.tagOf, hadv]
    rw [hexec, (examineStall_cases s.advanced).2 e hat hm hs hcount, htag]
    obtain ⟨u, hu, hdone⟩ := event_done ((((happened_advanced s).then rfl (happened_onCure _ fun c =>
      { c with stalled := true }) (e := [.table, .cure]) (by simp)).then rfl (happened_driveOutput _)
        (e := [.table, .cure]) (by simp)).then rfl (happened_post _ (.ovenStall r.tag e.traveler))
        (e := [.table, .cure]) (by simp))
    refine ⟨u, hu, hdone, ?_⟩
    cases hu
    exact driveOutput_stalled (s := s.advanced.onCure fun c => { c with stalled := true }) rfl

end Sys2Proof.Machine
end

section
/-! PROOF of claims and posts (O30, O31). -/

namespace Sys2Proof.Machine

/-! ### A request that writes one record -/

theorem request_setTraveler {s : State} {q : Req} {need t : Nat} {r r' : Traveler} (code : Nat)
    {owner : Nat → State → State × Reply} {fields : List Field} (h : s.Takes q need) (hr : s.traveler t = some r)
    (ho : owner (max (s.strapped q.link) q.level) (s.inServiceOf q) =
      accept ((s.inServiceOf q).setTraveler t r') fields) :
    ∃ u, request q code need owner s = .next u ∧ Done s u q code .ok fields [] [.table] ∧ Rewritten s u t r' s.table := by
  obtain ⟨hu, hdone⟩ := request_done code h ho (happened_setTraveler _ _ _)
  have hlive : (s.inServiceOf q).traveler t = some r := hr
  exact ⟨_, hu, hdone, traveler_setTraveler_same _ hlive, fun n hn => traveler_setTraveler_other (s.inServiceOf q) _ _ _ hn, rfl⟩

/-! ### Claim (R60) -/

theorem stationOfCode (x : Station) : Station.ofCode (Station.code x) = some x := by cases x <;> rfl

theorem stationOfCode_outside {n : Nat} (h : 1 < n) : Station.ofCode n = none := by
  unfold Station.ofCode
  split
  all_goals first | omega | rfl

section Claim

variable {s : State} {l : Link} {tag : Text} {x : Station} {t : Nat} {r : Traveler} {i : Inspection}

/-- A well-formed Claim, by the station's open record. -/
theorem ownClaim_eq (hf : tagForm tag = true) (ht : s.tagged tag = some (t, r)) :
    ownClaim l tag (Station.code x) s =
      match s.openRecord x t with
      | none => refuse s .stage (optional (fun c => [.word (EndCause.code c)]) (s.endCauseFor x t))
      | some i =>
        if !(r.stage == stationStage x && r.place == .present) then refuse s .stage [.presence false]
        else
          match r.claim with
          | some k =>
            if k = l then accept s [.word (Station.code x), u1 (secondsLeft s.now i.deadline)]
            else refuse s .claimed [.word (Link.code k)]
          | none =>
            accept (s.setTraveler t { r with claim := some l }) [.word (Station.code x), u1 (secondsLeft s.now i.deadline)] := by
  unfold ownClaim
  rw [hf, stationOfCode]
  dsimp only
  rw [ht] <;> rfl

theorem openRecord_open (hi : s.record x = some i) (hit : i.traveler = t) (hp : i.phase = .isOpen) :
    s.openRecord x t = some i := by
  simp [State.openRecord, hi, hit, hp]

theorem openRecord_none (hi : s.record x = some i) (h : i.traveler ≠ t ∨ i.phase ≠ .isOpen) : s.openRecord x t = none := by
  rcases h with h | h <;> simp [State.openRecord, hi, h]

/-- A claim of a PRESENT board at a station with its inspection OPEN, by the claim field. -/
theorem ownClaim_open (hf : tagForm tag = true) (ht : s.tagged tag = some (t, r)) (hi : s.record x = some i)
    (hit : i.traveler = t) (hp : i.phase = .isOpen) (hstage : r.stage = stationStage x) (hplace : r.place = .present) :
    ownClaim l tag (Station.code x) s =
      match r.claim with
      | some k =>
        if k = l then accept s [.word (Station.code x), u1 (secondsLeft s.now i.deadline)]
        else refuse s .claimed [.word (Link.code k)]
      | none =>
        accept (s.setTraveler t { r with claim := some l }) [.word (Station.code x), u1 (secondsLeft s.now i.deadline)] := by
  rw [ownClaim_eq hf ht, openRecord_open hi hit hp]
  exact if_neg (by simp [hstage, hplace])

end Claim

/-- A claim of an unclaimed PRESENT board at a station with its inspection OPEN. -/
theorem claim_granted {s : State} {q : Req} {tag : Text} {x : Station} {t : Nat} {r : Traveler} {i : Inspection} {d : Seconds}
    (h : s.Takes q 2) (hf : tagForm tag = true) (ht : s.tagged tag = some (t, r)) (hi : s.record x = some i)
    (hit : i.traveler = t) (hp : i.phase = .isOpen) (hd : i.deadline = some d) (hstage : r.stage = stationStage x)
    (hplace : r.place = .present) (hc : r.claim = none) :
    ∃ u, exec (.claim q tag (Station.code x)) s = .next u ∧
      Done s u q 23 .ok [.word (Station.code x), u1 (d - s.io.seconds).toNat] [] [.table] ∧
      Rewritten s u t { r with claim := some q.link } s.table := by
  refine request_setTraveler 23 (owner := fun _ => ownClaim q.link tag (Station.code x)) h (tagged_live ht) ?_
  rw [ownClaim_open (s := s.inServiceOf q) hf ht hi hit hp hstage hplace, hc, hd]
  rfl

/-! ### Posts (R62 to R64, R138) -/

section Posts

variable {s : State} {l : Link} {tag : Text} {t : Nat} {r : Traveler}
  (k : Nat → Traveler → State → State × Reply)

theorem withTag_malformed (hf : tagForm tag = false) : withTag tag k s = refuse s .invalid := by simp [withTag, hf]

theorem withTag_unknown (hf : tagForm tag = true) (ht : s.tagged tag = none) : withTag tag k s = refuse s .notFound := by
  simp [withTag, hf, ht]

/-- A request on a live traveler, by its claim. -/
theorem withClaim_live (hf : tagForm tag = true) (ht : s.tagged tag = some (t, r)) :
    withClaim l tag k s = if r.claim = some l then k t r s else refuse s .notClaimed := withTag_live hf ht _

/-- A post on a live traveler, by its claim and its station. -/
theorem post_live (x : Station) (hf : tagForm tag = true) (ht : s.tagged tag = some (t, r)) :
    withClaim l tag (atStation x k) s =
      if r.claim = some l then if s.stationOf t = some x then k t r s else refuse s .stage
      else refuse s .notClaimed := withClaim_live _ hf ht

end Posts

theorem coordinate_of {n : Int} (h1 : -32768 ≤ n) (h2 : n ≤ 32767) : coordinate n = true := by
  simp [coordinate, withinInt, h1, h2]

theorem readFiducial_yes {dx dy : Int} (h : coordinate dx = true ∧ coordinate dy = true) :
    readFiducial 0 dx dy = some (.offset dx dy) := by simp [readFiducial, h, yesNo]

theorem readFiducial_no {dx dy : Int} (h : coordinate dx = true ∧ coordinate dy = true) :
    readFiducial 1 dx dy = some .notFound := by simp [readFiducial, h, yesNo]

theorem readFiducial_formed {found : Nat} {dx dy : Int} (hfound : found ≤ 1) (h : coordinate dx = true ∧ coordinate dy = true) :
    ∃ f, readFiducial found dx dy = some f := by
  match found, hfound with
  | 0, _ => exact ⟨_, readFiducial_yes h⟩
  | 1, _ => exact ⟨_, readFiducial_no h⟩

theorem readFiducial_malformed {found : Nat} {dx dy : Int}
    (h : 1 < found ∨ ¬ (-32768 ≤ dx ∧ dx ≤ 32767 ∧ -32768 ≤ dy ∧ dy ≤ 32767)) : readFiducial found dx dy = none := by
  unfold readFiducial
  split
  · rfl
  · rename_i hc
    have hc : (-32768 ≤ dx ∧ dx ≤ 32767) ∧ -32768 ≤ dy ∧ dy ≤ 32767 := by
      simpa [coordinate, withinInt] using hc
    rcases h with h | h
    · match found, h with
      | _ + 2, _ => rfl
    · exact absurd ⟨hc.1.1, hc.1.2, hc.2.1, hc.2.2⟩ h

/-- A post whose body has its form, in terms of what it writes. -/
theorem ownPostFiducials_formed {l : Link} {tag : Text} {found : Nat} {dx dy : Int} {f : Fiducial} (s : State)
    (hf : readFiducial found dx dy = some f) : ownPostFiducials l tag found dx dy s =
      withClaim l tag (atStation .pre fun t r s => accept (s.setTraveler t { r with fiducial := some f })) s := by
  rw [ownPostFiducials, hf]

theorem ownPostSite_formed {l : Link} {tag : Text} {site code : Nat} {v : SiteVerdict} (s : State)
    (hv : SiteVerdict.ofCode code = some v) (h1 : 1 ≤ site) (h12 : site ≤ 12) : ownPostSite l tag site code s =
      withClaim l tag (atStation .pre fun t r s =>
        if r.sites.length < site then refuse s .invalid
        else accept (s.setTraveler t { r with sites := putNth r.sites site v })) s := by
  have hw : within 1 Config.siteCapacity site = true := within_iff.2 ⟨h1, h12⟩
  rw [ownPostSite, hw, hv]

theorem ownPostCoverage_formed {l : Link} {tag : Text} {window code : Nat} {v : CoverageVerdict} (s : State)
    (hv : CoverageVerdict.ofCode code = some v) (h1 : 1 ≤ window) (h16 : window ≤ 16) :
    ownPostCoverage l tag window code s =
      withClaim l tag (atStation .post fun t r s =>
        if r.coverage.length < window then refuse s .invalid
        else accept (s.setTraveler t { r with coverage := putNth r.coverage window v })) s := by
  have hw : within 1 Config.windowCapacity window = true := within_iff.2 ⟨h1, h16⟩
  rw [ownPostCoverage, hw, hv]

theorem putNth_set {α : Type} (l : List α) {n : Nat} (a : α) (h : 1 ≤ n) : putNth l n a = l.set (n - 1) a := by
  unfold putNth
  rw [if_neg (by omega)]

/-- Settles O30. -/
theorem claimsAndPostsSetFields : Obligations.ClaimsAndPostsSetFields := by
  refine ⟨fun s q tag x t r i d h hf ht => ⟨fun hi hit hp hd hstage hplace => ?claim, fun hi => ?noRecord⟩,
    fun s q tag x h => ⟨fun code hbad => ?badClaim, fun hf ht => ?unknown, fun t r i hf ht hi =>
      ⟨fun c hit hp => ?ended, fun hother => ?elsewhere⟩⟩,
    fun s q tag t r h hf ht => ⟨fun hc hpre => ?atPre, fun hc hpost => ?atPost, fun hno => ?wrong, fun hc => ?unclaimed⟩,
    fun s q tag h => ?forms⟩
  case claim =>
    intro left
    have ho := ownClaim_open (s := s.inServiceOf q) (l := q.link) hf ht hi hit hp hstage hplace
    refine ⟨fun hc => claim_granted h hf ht hi hit hp hd hstage hplace hc, fun hc => ?_, fun k hk hc => ?_⟩
    · refine refused 23 (owner := fun _ => ownClaim q.link tag (Station.code x)) h ?_
      rw [ho, hc, hd]
      exact if_pos rfl
    · refine refused 23 (owner := fun _ => ownClaim q.link tag (Station.code x)) h ?_
      rw [ho, hc]
      exact if_neg hk
  case noRecord =>
    refine refused 23 (owner := fun _ => ownClaim q.link tag (Station.code x)) h ?_
    rw [ownClaim_eq (s := s.inServiceOf q) hf ht]
    simp only [State.openRecord, State.endCauseFor, inServiceOf_record, hi]
    rfl
  case badClaim =>
    refine refused 23 (owner := fun _ => ownClaim q.link tag code) h ?_
    unfold ownClaim
    rcases hbad with hf | hcode
    · rw [hf]
      rfl
    · rw [stationOfCode_outside hcode]
      cases tagForm tag <;> rfl
  case unknown =>
    refine refused 23 (owner := fun _ => ownClaim q.link tag (Station.code x)) h ?_
    unfold ownClaim
    rw [hf, stationOfCode, inServiceOf_tagged, ht]
    rfl
  case ended =>
    refine refused 23 (owner := fun _ => ownClaim q.link tag (Station.code x)) h ?_
    have hcause : (s.inServiceOf q).endCauseFor x t = some c := by
      simp [State.endCauseFor, hi, hit, hp]
    rw [ownClaim_eq (s := s.inServiceOf q) hf ht, openRecord_none (s := s.inServiceOf q) hi (.inr (by rw [hp]; exact nofun)),
      hcause]
    rfl
  case elsewhere =>
    refine refused 23 (owner := fun _ => ownClaim q.link tag (Station.code x)) h ?_
    rw [ownClaim_eq (s := s.inServiceOf q) hf ht]
    by_cases hit : i.traveler = t
    · obtain ⟨hp, hnot⟩ := hother.resolve_left (not_not_intro hit)
      rw [openRecord_open (s := s.inServiceOf q) hi hit hp]
      exact if_pos (by simpa [← imp_iff_not_or] using hnot)
    · have hcause : (s.inServiceOf q).endCauseFor x t = none := by simp [State.endCauseFor, hi, hit]
      rw [openRecord_none (s := s.inServiceOf q) hi (.inl hit), hcause]
      rfl
  case atPre =>
    have hlive := tagged_live ht
    refine ⟨fun dx dy hx1 hx2 hy1 hy2 => ?_, fun site code v hv h1 h12 => ?_, fun window code v hv h1 h16 => ?_⟩
    · have hcoord := And.intro (coordinate_of hx1 hx2) (coordinate_of hy1 hy2)
      have posts {found : Nat} {f : Fiducial} (hread : readFiducial found dx dy = some f) :=
        request_setTraveler 25 (owner := fun _ => ownPostFiducials q.link tag found dx dy) (fields := []) h hlive
          (r' := { r with fiducial := some f }) (by
            rw [ownPostFiducials_formed _ hread, post_live (s := s.inServiceOf q) _ _ hf ht, if_pos hc]
            exact if_pos hpre)
      exact ⟨posts (readFiducial_yes hcoord), posts (readFiducial_no hcoord)⟩
    · have ho : ownPostSite q.link tag site code (s.inServiceOf q) =
          if r.sites.length < site then refuse (s.inServiceOf q) .invalid
          else accept ((s.inServiceOf q).setTraveler t { r with sites := putNth r.sites site v }) := by
        rw [ownPostSite_formed _ hv h1 h12, post_live (s := s.inServiceOf q) _ _ hf ht, if_pos hc]
        exact if_pos hpre
      refine ⟨fun hlen => ?_, fun hlen => ?_⟩
      · rw [← putNth_set r.sites v h1]
        exact request_setTraveler 26 (owner := fun _ => ownPostSite q.link tag site code) h hlive
          (ho.trans (if_neg (Nat.not_lt.2 hlen)))
      · exact refused 26 (owner := fun _ => ownPostSite q.link tag site code) h (ho.trans (if_pos hlen))
    · refine refused 27 (owner := fun _ => ownPostCoverage q.link tag window code) h ?_
      rw [ownPostCoverage_formed _ hv h1 h16, post_live (s := s.inServiceOf q) _ _ hf ht, if_pos hc]
      exact if_neg (by rw [inServiceOf_stationOf, hpre]; exact nofun)
  case atPost =>
    intro window code v hv h1 h16
    have ho : ownPostCoverage q.link tag window code (s.inServiceOf q) =
        if r.coverage.length < window then refuse (s.inServiceOf q) .invalid
        else accept ((s.inServiceOf q).setTraveler t { r with coverage := putNth r.coverage window v }) := by
      rw [ownPostCoverage_formed _ hv h1 h16, post_live (s := s.inServiceOf q) _ _ hf ht, if_pos hc]
      exact if_pos hpost
    refine ⟨fun hlen => ?_, fun hlen => ?_⟩
    · rw [← putNth_set r.coverage v h1]
      exact request_setTraveler 27 (owner := fun _ => ownPostCoverage q.link tag window code) h (tagged_live ht)
        (ho.trans (if_neg (Nat.not_lt.2 hlen)))
    · exact refused 27 (owner := fun _ => ownPostCoverage q.link tag window code) h (ho.trans (if_pos hlen))
  case wrong =>
    intro word
    have refuses (k : Nat → Traveler → State → State × Reply) :
        withClaim q.link tag (atStation .pre k) (s.inServiceOf q) = refuse (s.inServiceOf q) word := by
      rw [post_live (s := s.inServiceOf q) _ _ hf ht]
      by_cases hc : r.claim = some q.link
      · have hpost : s.stationOf t = some .post := hno.elim (·.2) fun hn => absurd hc hn
        have hw : word = .stage := if_pos hc
        rw [if_pos hc, hw]
        exact if_neg (by rw [inServiceOf_stationOf, hpost]; exact nofun)
      · have hw : word = .notClaimed := if_neg hc
        rw [if_neg hc, hw]
    refine ⟨fun found dx dy hfound hx1 hx2 hy1 hy2 => ?_, fun site code v hv h1 h12 => ?_⟩
    · obtain ⟨f, hread⟩ := readFiducial_formed hfound ⟨coordinate_of hx1 hx2, coordinate_of hy1 hy2⟩
      exact refused 25 (owner := fun _ => ownPostFiducials q.link tag found dx dy) h
        ((ownPostFiducials_formed _ hread).trans (refuses _))
    · exact refused 26 (owner := fun _ => ownPostSite q.link tag site code) h
        ((ownPostSite_formed _ hv h1 h12).trans (refuses _))
  case unclaimed =>
    intro window code v hv h1 h16
    refine refused 27 (owner := fun _ => ownPostCoverage q.link tag window code) h ?_
    rw [ownPostCoverage_formed _ hv h1 h16, post_live (s := s.inServiceOf q) _ _ hf ht]
    exact if_neg hc
  case forms =>
    intro offset
    refine ⟨fun found dx dy hbad => ?_, fun site code hbad => ?_, fun window code hbad => ?_, fun hf ht =>
      ⟨fun found dx dy hfound ⟨hx1, hx2, hy1, hy2⟩ => ?_, fun site code v hv h1 h12 => ?_, fun window code v hv h1 h16 => ?_⟩⟩
    · refine refused 25 (owner := fun _ => ownPostFiducials q.link tag found dx dy) h ?_
      cases hread : readFiducial found dx dy with
      | none =>
        rw [ownPostFiducials, hread]
        rfl
      | some f =>
        rcases hbad with hf | hfound | ⟨-, hoff⟩
        · rw [ownPostFiducials_formed _ hread]
          exact withTag_malformed _ hf
        · rw [readFiducial_malformed (.inl hfound)] at hread
          cases hread
        · rw [readFiducial_malformed (.inr hoff)] at hread
          cases hread
    · refine refused 26 (owner := fun _ => ownPostSite q.link tag site code) h ?_
      by_cases hs : 1 ≤ site ∧ site ≤ 12
      · cases hv : SiteVerdict.ofCode code with
        | none =>
          rw [ownPostSite, hv]
          cases within 1 Config.siteCapacity site <;> rfl
        | some v =>
          have hf : tagForm tag = false := by
            rcases hbad with hf | h0 | h12 | hn
            · exact hf
            · omega
            · omega
            · rw [hv] at hn
              cases hn
          rw [ownPostSite_formed _ hv hs.1 hs.2]
          exact withTag_malformed _ hf
      · have hw : within 1 Config.siteCapacity site = false := within_false (hi := 12) (by omega)
        rw [ownPostSite, hw]
        rfl
    · refine refused 27 (owner := fun _ => ownPostCoverage q.link tag window code) h ?_
      by_cases hs : 1 ≤ window ∧ window ≤ 16
      · cases hv : CoverageVerdict.ofCode code with
        | none =>
          rw [ownPostCoverage, hv]
          cases within 1 Config.windowCapacity window <;> rfl
        | some v =>
          have hf : tagForm tag = false := by
            rcases hbad with hf | h0 | h12 | hn
            · exact hf
            · omega
            · omega
            · rw [hv] at hn
              cases hn
          rw [ownPostCoverage_formed _ hv hs.1 hs.2]
          exact withTag_malformed _ hf
      · have hw : within 1 Config.windowCapacity window = false := within_false (hi := 16) (by omega)
        rw [ownPostCoverage, hw]
        rfl
    · obtain ⟨f, hread⟩ := readFiducial_formed hfound ⟨coordinate_of hx1 hx2, coordinate_of hy1 hy2⟩
      exact refused 25 (owner := fun _ => ownPostFiducials q.link tag found dx dy) h
        ((ownPostFiducials_formed _ hread).trans (withTag_unknown (s := s.inServiceOf q) _ hf ht))
    · exact refused 26 (owner := fun _ => ownPostSite q.link tag site code) h
        ((ownPostSite_formed _ hv h1 h12).trans (withTag_unknown (s := s.inServiceOf q) _ hf ht))
    · exact refused 27 (owner := fun _ => ownPostCoverage q.link tag window code) h
        ((ownPostCoverage_formed _ hv h1 h16).trans (withTag_unknown (s := s.inServiceOf q) _ hf ht))

/-! ### Unclaim (R61) -/

theorem tagged_rewritten {s u : State} {tag : Text} {t : Nat} {r r' : Traveler} (h : Rewritten s u t r' s.table)
    (ht : s.tagged tag = some (t, r)) : u.tagged tag = some (t, r') := by
  obtain ⟨hlive, -, htable⟩ := h
  have hindex : u.table.index = s.table.index := by rw [htable]
  unfold State.tagged at *
  rw [hindex]
  split at ht
  · cases ht
  · rename_i e he
    obtain ⟨y, -, hy⟩ := Option.map_eq_some_iff.1 ht
    rw [Prod.mk.injEq] at hy
    rw [hy.1, hlive]
    rfl

/-- Settles O31. -/
theorem unclaimDropsClaim : Obligations.UnclaimDropsClaim := by
  intro s q tag
  have hexec : exec (.unclaim q tag) s = request q 24 2
    (fun _ => withClaim q.link tag fun t r s => accept (s.setTraveler t { r with claim := none })) s := rfl
  rw [hexec]
  refine ⟨fun h hw => request_weak 24 _ h hw, fun h hf => refused 24 (owner := fun _ => withClaim q.link tag _) h
      (withTag_malformed (s := s.inServiceOf q) _ hf),
    fun h hf ht => refused 24 (owner := fun _ => withClaim q.link tag _) h (withTag_unknown (s := s.inServiceOf q) _ hf ht),
    fun t r h hf ht => ⟨fun hc => ?_, fun hc => ?_⟩⟩
  · exact refused 24 (owner := fun _ => withClaim q.link tag _) h
      ((withClaim_live (s := s.inServiceOf q) _ hf ht).trans (if_neg hc))
  · obtain ⟨u, hu, hdone, hrw⟩ := request_setTraveler 24 (r' := { r with claim := none }) (fields := [])
      (owner := fun _ => withClaim q.link tag fun t r s => accept (s.setTraveler t { r with claim := none }))
      h (tagged_live ht) ((withClaim_live (s := s.inServiceOf q) _ hf ht).trans (if_pos hc))
    refine ⟨u, hu, hdone, hrw, fun p x i d hp hi hit hopen hd hstage hplace => ?_⟩
    have hmask : u.mask = s.mask := hdone.2.2.2.2 .mask (by simp)
    exact claim_granted (r := { r with claim := none }) hp hf (tagged_rewritten hrw ht) (by rw [State.record, hmask]; exact hi) hit hopen hd hstage hplace rfl

end Sys2Proof.Machine
end

section
/-! PROOF of the dispense arithmetic (O40, O41). -/

namespace Sys2Proof.Machine

/-! ### Stage 1: effective flow (R100) -/

/-- The floor of R100, in natural numbers. -/
def flowFloor (flow pot derate age : Nat) : Nat := flow * (100 * pot - derate * age) / (100 * pot)

theorem derate_le {pot derate age : Nat} (hd : derate ≤ 50) (ha : age ≤ pot) : derate * age ≤ 100 * pot :=
  (Nat.mul_le_mul (by omega : derate ≤ 100) ha)

theorem effectiveFlow_eq {flow pot derate age : Nat} (hd : derate ≤ 50) (ha : age ≤ pot) :
    effectiveFlow flow pot derate age = if flowFloor flow pot derate age = 0 then 1 else flowFloor flow pot derate age := by
  have hcast : ((flow : Int) * (100 * (pot : Int) - (derate : Int) * (age : Int))) / (100 * (pot : Int)) =
      (flowFloor flow pot derate age : Nat) := by
    have hsub : (100 * (pot : Int) - (derate : Int) * (age : Int)) = ((100 * pot - derate * age : Nat) : Int) := by
      have := derate_le hd ha
      push_cast [Nat.cast_sub this]
      ring
    rw [hsub]
    unfold flowFloor
    push_cast
    rfl
  unfold effectiveFlow
  rw [hcast]
  simp only [Int.natCast_eq_zero, Int.toNat_natCast]

/-- An older lot flows no faster. -/
theorem flowFloor_anti (flow derate : Nat) {pot a b : Nat} (h : a ≤ b) :
    flowFloor flow pot derate b ≤ flowFloor flow pot derate a :=
  Nat.div_le_div_right (Nat.mul_le_mul_left _ (Nat.sub_le_sub_left (Nat.mul_le_mul_left _ h) _))

theorem flowFloor_le {flow pot derate age : Nat} (hp : 1 ≤ pot) : flowFloor flow pot derate age ≤ flow :=
  calc flowFloor flow pot derate age ≤ flow * (100 * pot) / (100 * pot) :=
        Nat.div_le_div_right (Nat.mul_le_mul_left _ (Nat.sub_le _ _))
    _ = flow := Nat.mul_div_cancel _ (by omega)

/-- At the end of its pot life the lot still gives its derated flow. -/
theorem derated_le_flowFloor {flow pot derate age : Nat} (hp : 1 ≤ pot) (ha : age ≤ pot) :
    flow * (100 - derate) / 100 ≤ flowFloor flow pot derate age :=
  calc flow * (100 - derate) / 100 = flow * (100 - derate) * pot / (100 * pot) :=
        (Nat.mul_div_mul_right _ _ hp).symm
    _ = flowFloor flow pot derate pot := by rw [flowFloor, Nat.mul_assoc, Nat.sub_mul]
    _ ≤ flowFloor flow pot derate age := flowFloor_anti _ _ ha

/-! ### Rounding and clamping -/

theorem roundDiv_spec {a b : Nat} (hb : 1 ≤ b) :
    2 * roundDiv a b * b ≤ 2 * a + b ∧ 2 * a + b < 2 * (roundDiv a b + 1) * b := by
  have hle := Nat.div_mul_le_self (2 * a + b) (2 * b)
  have hlt := Nat.lt_div_mul_add (a := 2 * a + b) (b := 2 * b) (by omega)
  have hassoc : 2 * roundDiv a b * b = roundDiv a b * (2 * b) := by ring
  have hsucc : 2 * (roundDiv a b + 1) * b = roundDiv a b * (2 * b) + 2 * b := by ring
  rw [hassoc, hsucc]
  exact ⟨hle, hlt⟩

theorem clamp_bounds {lo hi : Nat} (h : lo ≤ hi) (v : Nat) : lo ≤ clamp lo hi v ∧ clamp lo hi v ≤ hi := by
  rw [clamp_eq h]
  omega

theorem ceilDiv_spec (a : Nat) {b : Nat} (hb : 1 ≤ b) : a ≤ ceilDiv a b * b ∧ ceilDiv a b * b < a + b := by
  have hle := Nat.div_mul_le_self (a + b - 1) b
  have hlt := Nat.lt_div_mul_add (a := a + b - 1) hb
  unfold ceilDiv
  omega

theorem ceilDiv_pos {a b : Nat} (ha : 1 ≤ a) (hb : 1 ≤ b) : 1 ≤ ceilDiv a b := by
  by_contra h
  have hle := (ceilDiv_spec a hb).1
  rw [Nat.lt_one_iff.1 (Nat.not_le.1 h)] at hle
  omega

theorem clampMark_iff {c : HeadConfig} (h : c.vMin ≤ c.vMax) (ideal : Nat) :
    (clampMark c ideal = .clampedLow ↔ ideal < c.vMin) ∧ (clampMark c ideal = .clampedHigh ↔ c.vMax < ideal) := by
  unfold clampMark
  split
  · simp_all
    omega
  · split <;> simp_all

theorem deviationOf_iff (t tol film : Nat) :
    (deviationOf t tol film = .thin ↔ film < t * (100 - tol) / 100) ∧
      (deviationOf t tol film = .heavy ↔ t * (100 + tol) / 100 < film) ∧
      (deviationOf t tol film = .nominal ↔ t * (100 - tol) / 100 ≤ film ∧ film ≤ t * (100 + tol) / 100) := by
  have horder : t * (100 - tol) / 100 ≤ t * (100 + tol) / 100 := Nat.div_le_div_right (Nat.mul_le_mul_left _ (by omega))
  unfold deviationOf
  split
  · rename_i h
    exact ⟨by simp [h], ⟨nofun, fun h' => by omega⟩, ⟨nofun, fun h' => by omega⟩⟩
  · rename_i h
    split
    · rename_i h'
      exact ⟨⟨nofun, fun hc => absurd hc h⟩, by simp [h'], ⟨nofun, fun hc => by omega⟩⟩
    · rename_i h'
      exact ⟨⟨nofun, fun hc => absurd hc h⟩, ⟨nofun, fun hc => absurd hc h'⟩,
        ⟨fun _ => ⟨Nat.not_lt.1 h, Nat.not_lt.1 h'⟩, fun _ => rfl⟩⟩

theorem target_between (t tol : Nat) : t * (100 - tol) / 100 ≤ t ∧ t ≤ t * (100 + tol) / 100 := by
  constructor
  · calc t * (100 - tol) / 100 ≤ t * 100 / 100 := Nat.div_le_div_right (Nat.mul_le_mul_left _ (Nat.sub_le _ _))
      _ = t := Nat.mul_div_cancel _ (by omega)
  · calc t = t * 100 / 100 := (Nat.mul_div_cancel _ (by omega)).symm
      _ ≤ t * (100 + tol) / 100 := Nat.div_le_div_right (Nat.mul_le_mul_left _ (Nat.le_add_right _ _))

/-- Settles O40: the floor of R100 in natural numbers, and each stage by its rounding and its clamp. -/
theorem fanSpeedFilmAndVerdict : Obligations.FanSpeedFilmAndVerdict := by
  refine ⟨fun flow pot derate age hflow hpot hd ha => ?flow,
    fun c pot derate age x w hheight hfan hfan1 hv hv1 hthick => ?stages, fun t tol film htol => ?verdict⟩
  case flow =>
    intro f
    have heff := effectiveFlow_eq (flow := flow) hd ha
    have hlow : flow * (100 - derate) / 100 ≤ f := derated_le_flowFloor hpot ha
    have hhigh : f ≤ flow := flowFloor_le hpot
    refine ⟨heff, fun b hab hb => ?_, fun h0 => ?_, hlow, hhigh, fun h2 => ?_⟩
    · have hanti := flowFloor_anti flow derate (pot := pot) hab
      rw [heff, effectiveFlow_eq hd hb]
      split <;> split <;> omega
    · have hf : flowFloor flow pot derate age = flow := by
        subst h0
        simp only [flowFloor, Nat.zero_mul, Nat.sub_zero]
        exact Nat.mul_div_cancel _ (by omega)
      rw [heff, hf, if_neg (by omega)]
    · have hhalf : flow / 2 ≤ flow * (100 - derate) / 100 :=
        calc flow / 2 = flow * 50 / (2 * 50) := (Nat.mul_div_mul_right _ _ (by omega)).symm
          _ ≤ flow * (100 - derate) / 100 := Nat.div_le_div_right (Nat.mul_le_mul_left _ (by omega))
      omega
  case stages =>
    intro d rounds
    have hfanBounds := clamp_bounds hfan (roundDiv (c.fan * x.height) c.height)
    have hspeedBounds := clamp_bounds hv (idealSpeed d.flow d.fan w.thickness)
    have hfanPos : 1 ≤ d.fan := Nat.le_trans hfan1 hfanBounds.1
    have hspeedPos : 1 ≤ d.speed := Nat.le_trans hv1 hspeedBounds.1
    have hmark := clampMark_iff hv (idealSpeed d.flow d.fan w.thickness)
    exact ⟨_, _, roundDiv_spec hheight, roundDiv_spec (Nat.mul_pos hfanPos hthick),
      roundDiv_spec (Nat.mul_pos hfanPos hspeedPos), clamp_eq hfan _, clamp_eq hv _, hmark.1, hmark.2, hfanBounds.1,
      hfanBounds.2, hspeedBounds.1, hspeedBounds.2, rfl, rfl⟩
  case verdict =>
    obtain ⟨hthin, hheavy, hnominal⟩ := deviationOf_iff t tol film
    exact ⟨hthin, hheavy, hnominal, (deviationOf_iff t tol t).2.2.2 (target_between t tol)⟩

/-! ### Lengths (00_scope.md, R105) -/

/-- The bits tried so far leave the root in their interval. -/
theorem rootBits_spec {k n r : Nat} (hle : r * r ≤ n) (hlt : n < (r + 2 ^ k) * (r + 2 ^ k)) :
    rootBits k n r * rootBits k n r ≤ n ∧ n < (rootBits k n r + 1) * (rootBits k n r + 1) := by
  induction k generalizing r with
  | zero => exact ⟨hle, hlt⟩
  | succ k ih =>
    rw [rootBits]
    split
    · rename_i h
      refine ih h ?_
      rwa [Nat.add_assoc, ← Nat.two_mul, ← Nat.pow_succ']
    · rename_i h
      exact ih hle (Nat.not_le.1 h)

theorem floorRoot_spec (n : Nat) : floorRoot n * floorRoot n ≤ n ∧ n < (floorRoot n + 1) * (floorRoot n + 1) := by
  refine rootBits_spec (Nat.zero_le _) ?_
  rw [Nat.zero_add, ← Nat.pow_add]
  calc n < 2 ^ (Nat.log2 n + 1) := Nat.lt_log2_self
    _ ≤ 2 ^ (Nat.log2 n / 2 + 1 + (Nat.log2 n / 2 + 1)) := Nat.pow_le_pow_right (by omega) (by omega)

/-- The nearest root is less than a half from the root on either side. -/
theorem nearestRoot_spec (n : Nat) :
    4 * n < (2 * nearestRoot n + 1) ^ 2 ∧
      (nearestRoot n = 0 ∨ (2 * (nearestRoot n : Int) - 1) ^ 2 < 4 * (n : Int)) := by
  obtain ⟨hle, hlt⟩ := floorRoot_spec n
  unfold nearestRoot
  generalize floorRoot n = m at *
  split
  · rename_i h
    have hn : n ≤ m * m + m := by omega
    refine ⟨by nlinarith, ?_⟩
    rcases Nat.eq_zero_or_pos m with h0 | h1
    · exact .inl h0
    · right
      have hle' : (m : Int) * m ≤ n := by exact_mod_cast hle
      have h1' : (1 : Int) ≤ m := by exact_mod_cast h1
      nlinarith
  · rename_i h
    have hn : m * m + m + 1 ≤ n := by omega
    refine ⟨by nlinarith, .inr ?_⟩
    have hn' : (m : Int) * m + m + 1 ≤ n := by exact_mod_cast hn
    push_cast
    nlinarith

theorem nearestRoot_pos {n : Nat} (h : 1 ≤ n) : 1 ≤ nearestRoot n := by
  by_contra h0
  have hspec := (nearestRoot_spec n).1
  rw [Nat.lt_one_iff.1 (Nat.not_le.1 h0)] at hspec
  omega

theorem passLength_pos {x : Stroke} (h : x.startX ≠ x.endX ∨ x.startY ≠ x.endY) : 1 ≤ passLength x := by
  refine nearestRoot_pos ?_
  rcases h with h | h
  · have := Nat.pow_pos (n := 2) (Int.natAbs_pos.2 (sub_ne_zero.2 h))
    omega
  · have := Nat.pow_pos (n := 2) (Int.natAbs_pos.2 (sub_ne_zero.2 h))
    omega

theorem passPoints_distance (x : Stroke) (k : Nat) :
    ((x.passPoints k).1.1 - (x.passPoints k).2.1) ^ 2 + ((x.passPoints k).1.2 - (x.passPoints k).2.2) ^ 2 =
      (x.startX - x.endX) ^ 2 + (x.startY - x.endY) ^ 2 := by
  unfold Stroke.passPoints
  dsimp only
  split <;> ring

/-- Settles O41: the nearest root, and durations and volumes by their ceilings. -/
theorem passLengthAndVolumes : Obligations.PassLengthAndVolumes := by
  refine ⟨fun x => ?length, fun c pot derate age x w => ⟨rfl, rfl, fun hlong hv1 hv hflow hpot hd h0 ha hpasses => ?volume⟩⟩
  case length =>
    intro n len
    have hn : (((x.startX - x.endX).natAbs ^ 2 + (x.startY - x.endY).natAbs ^ 2 : Nat) : Int) = n := by
      push_cast
      rw [sq_abs, sq_abs]
    obtain ⟨hhigh, hlow⟩ := nearestRoot_spec ((x.startX - x.endX).natAbs ^ 2 + (x.startY - x.endY).natAbs ^ 2)
    refine ⟨?_, ?_, passLength_pos, passPoints_distance x, fun c pot derate age w hv1 hv => ?_⟩
    · rw [← hn]
      show (4 : Int) * (((x.startX - x.endX).natAbs ^ 2 + (x.startY - x.endY).natAbs ^ 2 : Nat) : Int) <
        (2 * ((passLength x : Nat) : Int) + 1) ^ 2
      exact_mod_cast hhigh
    · rw [← hn]
      exact hlow.imp (fun h => congrArg Nat.cast h) id
    · exact ceilDiv_spec _ (Nat.le_trans hv1 (clamp_bounds hv _).1)
  case volume =>
    obtain ⟨a, rfl⟩ := Int.eq_ofNat_of_zero_le h0
    have hflowPos : 1 ≤ (dispense c pot derate a x w).flow := by
      show 1 ≤ effectiveFlow c.flow pot derate a
      rw [effectiveFlow_eq hd (by omega)]
      split <;> omega
    have hduration : 1 ≤ (dispense c pot derate a x w).duration :=
      ceilDiv_pos (Nat.mul_pos (passLength_pos hlong) (by omega)) (Nat.le_trans hv1 (clamp_bounds hv _).1)
    exact ⟨hflowPos, hduration, Nat.mul_pos hpasses (Nat.mul_pos hflowPos hduration)⟩

end Sys2Proof.Machine
end

section
/-! PROOFS of the family 'other': a request's frame, read back (00_scope.md, R162 to R164). -/

namespace Sys2Proof.Machine

variable {i : Instr} {q : Req} {code : Nat} {body : List Field}

/-- A list reads back at the end of a body. -/
theorem read_list_last {α β : Type} {item : Reader β} {g : β → List Field} {l : List β} (hl : l.length < 2 ^ 8)
    (h : ∀ b ∈ l, ∀ r, item (bodyBytes (g b ++ r)) = some (b, bodyBytes r)) (f : List β → Reader α) :
    Reader.bind (readList item) f (bodyBytes (listOf g l)) = f l [] := by
  have := read_list item g l hl h [] f
  rwa [List.append_nil] at this

/-- A record reads back at the end of a body. -/
theorem bind_reads_last {α β : Type} {x : Reader β} {b : β} {fields : List Field}
    (h : ∀ r, x (bodyBytes (fields ++ r)) = some (b, bodyBytes r)) (f : β → Reader α) :
    Reader.bind x f (bodyBytes fields) = f b [] := by
  have := h []
  rw [List.append_nil] at this
  exact bind_reads x b f _ _ this

theorem read_half (n : Nat) (h : n < 2 ^ 16) (r : List Field) : readNat 2 (bodyBytes ([u2 n] ++ r)) = some (n, bodyBytes r) :=
  readNat_leBytes 2 n h (bodyBytes r)

theorem read_code (n : Nat) (h : n < 2 ^ 8) (r : List Field) :
    readNat 1 (bodyBytes ([.word n] ++ r)) = some (n, bodyBytes r) :=
  readNat_word n h (bodyBytes r)

/-- The reader of a well-formed request's code reads its body, and leaves no byte over. -/
theorem requestReader_reads (hw : i.wellFormed = true) (h : requestParts i = some (q, code, body)) :
    q.level ≤ 3 ∧ ∃ r, requestReader q code = some r ∧ r (bodyBytes body) = some (i, []) := by
  cases i <;> cases h <;>
    simp only [Instr.wellFormed, Req.fits, textFits, byteFits, halfFits, int16Fits, listFits, Bool.and_eq_true,
      decide_eq_true_eq, List.all_eq_true] at hw
  case start | drain | halt | recover | clearLine | getLine | getLot | getOven | peek | restart | getConfig =>
    exact ⟨hw, _, rfl, rfl⟩
  case openRecipe =>
    obtain ⟨⟨hq, hn⟩, hh⟩ := hw
    refine ⟨hq, _, rfl, ?_⟩
    rw [read_u1 _ hn, bind_reads_last (read_header _ hh)]
    rfl
  case putWindows =>
    obtain ⟨⟨⟨hq, hn⟩, hl, -⟩, hall⟩ := hw
    refine ⟨hq, _, rfl, ?_⟩
    rw [read_u1 _ hn, read_list_last hl fun b hb => read_window b (hall b hb)]
    rfl
  case putSites =>
    obtain ⟨⟨⟨hq, hn⟩, hl, -⟩, hall⟩ := hw
    refine ⟨hq, _, rfl, ?_⟩
    rw [read_u1 _ hn, read_list_last hl fun b hb => read_site b (hall b hb)]
    rfl
  case putStrokes =>
    obtain ⟨⟨⟨hq, hn⟩, hl, -⟩, hall⟩ := hw
    refine ⟨hq, _, rfl, ?_⟩
    rw [read_u1 _ hn, read_list_last hl fun b hb => read_stroke b (hall b hb)]
    rfl
  case putCureProfile =>
    obtain ⟨⟨hq, hn⟩, hp⟩ := hw
    refine ⟨hq, _, rfl, ?_⟩
    rw [read_u1 _ hn, bind_reads_last (read_profile _ hp)]
    rfl
  case setHead =>
    obtain ⟨⟨hq, hn⟩, hc⟩ := hw
    refine ⟨hq, _, rfl, ?_⟩
    rw [read_u1 _ hn, bind_reads_last (read_head _ hc)]
    rfl
  case mountLot =>
    obtain ⟨⟨hq, hn⟩, hm⟩ := hw
    refine ⟨hq, _, rfl, ?_⟩
    rw [read_u1 _ hn, bind_reads_last (read_lot _ hm)]
    rfl
  case setGantryLimits =>
    obtain ⟨hq, hl⟩ := hw
    refine ⟨hq, _, rfl, ?_⟩
    rw [bind_reads_last (read_limits _ hl)]
    rfl
  case setOvenGeometry =>
    obtain ⟨⟨⟨⟨hq, hn⟩, hl⟩, hall⟩, hg⟩ := hw
    refine ⟨hq, _, rfl, ?_⟩
    rw [List.cons_append, read_u2 _ hn, read_list _ _ _ hl fun b hb => read_half b (hall b hb), read_u2 _ hg]
    rfl
  case dispose =>
    obtain ⟨⟨hq, ht⟩, hd⟩ := hw
    refine ⟨hq, _, rfl, ?_⟩
    rw [read_text _ ht, bind_reads_last (read_disposition _ hd)]
    rfl
  case subscribe =>
    obtain ⟨⟨⟨hq, hm⟩, hl⟩, hall⟩ := hw
    refine ⟨hq, _, rfl, ?_⟩
    rw [read_word _ hm, read_list_last hl fun b hb => read_code b (hall b hb)]
    rfl
  case setTimeouts =>
    obtain ⟨hq, ht⟩ := hw
    refine ⟨hq, _, rfl, ?_⟩
    rw [bind_reads_last (read_timeouts _ ht)]
    rfl
  case getRecipe =>
    obtain ⟨⟨⟨⟨hq, hn⟩, hp⟩, hother⟩, hf⟩ := hw
    refine ⟨hq, _, rfl, ?_⟩
    rw [read_u1 _ hn, read_word _ hp, read_u1 _ hf, if_neg hother]
    rfl
  case getRecipeProfile =>
    obtain ⟨⟨hq, hn⟩, hf⟩ := hw
    refine ⟨hq, _, rfl, ?_⟩
    rw [read_u1 _ hn, read_word 4 (by decide), read_u1 _ hf]
    rfl
  case releaseHold =>
    obtain ⟨⟨⟨hq, ht⟩, hr⟩, hother⟩ := hw
    refine ⟨hq, _, rfl, ?_⟩
    rw [read_text _ ht, read_word _ hr, if_neg (show ¬ _ = reasonAll from hother)]
    rfl
  case releaseHoldAll =>
    obtain ⟨hq, ht⟩ := hw
    refine ⟨hq, _, rfl, ?_⟩
    rw [read_text _ ht, read_word reasonAll (by decide)]
    rfl
  all_goals
    refine ⟨by simp only [hw], _, rfl, ?_⟩
    simp only [read_text, read_u1, read_u2, read_i2, read_word, hw]
    rfl

theorem readRequest_body (hw : i.wellFormed = true) (h : requestParts i = some (q, code, body)) :
    readRequest q code (bodyBytes body) = some i := by
  obtain ⟨hq, r, hr, hread⟩ := requestReader_reads hw h
  unfold readRequest
  rw [hr]
  dsimp only
  rw [if_neg (Nat.not_lt.2 hq), hread]

/-- Settles O54, by the reader of each request's code. -/
theorem requestBodyReadsBack : Obligations.RequestBodyReadsBack := fun _ _ _ _ hw h => readRequest_body hw h

/-! ### Reception (R163) -/

/-- What the bytes after a start mark make of a link's reception, and the commands they complete. -/
def received (l : Link) (bytes : List Byte) : Reception × List Instr :=
  bytes.foldl (fun x b => ((receiveByte l x.1 b).1, x.2 ++ (receiveByte l x.1 b).2.toList)) (.inFrame [] 0, [])

theorem received_snoc (l : Link) (bytes : List Byte) (b : Byte) : received l (bytes ++ [b]) =
    ((receiveByte l (received l bytes).1 b).1,
      (received l bytes).2 ++ (receiveByte l (received l bytes).1 b).2.toList) :=
  List.foldl_concat ..

theorem frameLength_append {bytes : List Byte} (more : List Byte) (h : 2 ≤ bytes.length) :
    frameLength (bytes ++ more) = frameLength bytes := by
  match bytes, h with
  | _ :: _ :: _, _ => rfl

theorem receiveByte_inFrame {l : Link} {bytes : List Byte} {c : Nat} {b : Byte}
    (hlen : 2 ≤ bytes.length + 1 → within Config.lengthMin Config.lengthMax (frameLength (bytes ++ [b])) = true ∧
      bytes.length + 1 < frameLength (bytes ++ [b]) + 4) :
    receiveByte l (.inFrame bytes c) b = (.inFrame (bytes ++ [b]) 0, none) := by
  unfold receiveByte
  dsimp only
  rw [List.length_append, List.length_singleton]
  by_cases h : bytes.length + 1 < 2
  · rw [if_pos h]
  · obtain ⟨hin, hshort⟩ := hlen (Nat.not_lt.1 h)
    rw [if_neg h, hin, if_neg (by decide), if_pos hshort]

/-- Before its last byte a frame of a length in range completes no command. -/
theorem received_part {l : Link} {n : Nat} (hn : within Config.lengthMin Config.lengthMax n = true) (bytes : List Byte)
    (hlen : bytes.length < n + 4) (hf : 2 ≤ bytes.length → frameLength bytes = n) :
    received l bytes = (.inFrame bytes 0, []) := by
  induction bytes using List.reverseRecOn with
  | nil => rfl
  | append_singleton bytes b ih =>
    rw [List.length_append, List.length_singleton] at hlen hf
    have hpart := ih (by omega) fun h => (frameLength_append [b] h).symm.trans (hf (by omega))
    rw [received_snoc, hpart]
    dsimp only
    rw [receiveByte_inFrame fun h => by rw [hf h]; exact ⟨hn, hlen⟩]
    rfl

/-- The last byte of a frame of a length in range completes its command. -/
theorem received_whole {l : Link} {n : Nat} (hn : within Config.lengthMin Config.lengthMax n = true) {bytes : List Byte}
    (hlen : bytes.length = n + 3) (hf : frameLength bytes = n) (b : Byte) :
    received l (bytes ++ [b]) = (.searching, [frameCommand l (bytes ++ [b])]) := by
  have hfull : frameLength (bytes ++ [b]) = n := (frameLength_append [b] (by omega)).trans hf
  rw [received_snoc, received_part hn bytes (by omega) fun _ => hf]
  unfold receiveByte
  dsimp only
  rw [hfull, hn, List.length_append, List.length_singleton, hlen, if_neg (by omega), if_neg (by decide),
    if_neg (by omega)]
  rfl

theorem requestParts_code (h : requestParts i = some (q, code, body)) : code < 256 := by
  cases i <;> cases h <;> decide

/-- The bytes of a frame that its CRC covers (R162): the length, the code, the level, the correlation and the body. -/
def coveredBytes (code level : Nat) (corr : Byte) (bytes : List Byte) : List Byte :=
  leBytes 2 (3 + bytes.length : Nat) ++ BitVec.ofNat 8 code :: BitVec.ofNat 8 level :: corr :: bytes

theorem coveredBytes_length (code level : Nat) (corr : Byte) (bytes : List Byte) :
    (coveredBytes code level corr bytes).length = 2 + (3 + bytes.length) := by
  simp [coveredBytes, leBytes]
  omega

theorem frameLength_covered {code level : Nat} {corr : Byte} {bytes : List Byte} (h : 3 + bytes.length < 65536)
    (more : List Byte) : frameLength (coveredBytes code level corr bytes ++ more) = 3 + bytes.length := by
  have hread := readNat_leBytes 2 (3 + bytes.length) h []
  have hvalue := (Prod.ext_iff.1 (Option.some_inj.1 hread)).1
  exact (Nat.add_left_cancel_iff.2 (congrArg (256 * ·) (Nat.add_zero _).symm)).trans hvalue

/-- A complete frame whose CRC is right is the request it carries (R164). -/
theorem frameCommand_request (hw : i.wellFormed = true) (h : requestParts i = some (q, code, body))
    (ho : q.overlaps = false) (hlen : 3 + (bodyBytes body).length < 65536) :
    frameCommand q.link (coveredBytes code q.level q.corr (bodyBytes body) ++
      leBytes 2 (crc16 (coveredBytes code q.level q.corr (bodyBytes body))).toNat) = i := by
  obtain ⟨hq, -⟩ := requestReader_reads hw h
  have hcode := requestParts_code h
  have hlevel : (BitVec.ofNat 8 q.level).toNat = q.level := Nat.mod_eq_of_lt (by omega)
  have hread := readRequest_body hw h
  unfold frameCommand
  dsimp only
  rw [frameLength_covered hlen, ← coveredBytes_length code q.level q.corr, List.take_left, List.drop_left,
    if_neg (not_not_intro rfl)]
  have hdrop : (coveredBytes code q.level q.corr (bodyBytes body) ++
      leBytes 2 (crc16 (coveredBytes code q.level q.corr (bodyBytes body))).toNat).drop 2 =
        BitVec.ofNat 8 code :: BitVec.ofNat 8 q.level :: q.corr :: (bodyBytes body ++
          leBytes 2 (crc16 (coveredBytes code q.level q.corr (bodyBytes body))).toNat) := rfl
  have hrequest : ({ link := q.link, level := (BitVec.ofNat 8 q.level).toNat, corr := q.corr, overlaps := false } : Req) = q := by
    rw [hlevel, ← ho]
  have hcode' : (BitVec.ofNat 8 code).toNat = code := Nat.mod_eq_of_lt hcode
  rw [hdrop]
  dsimp only
  rw [hrequest, hcode', Nat.add_sub_cancel_left, List.take_left, hread]

/-- A complete frame whose CRC is wrong is discarded (R163). -/
theorem frameCommand_badCrc {l : Link} {level : Nat} {corr : Byte} {bytes crc : List Byte} (hlen : 3 + bytes.length < 65536)
    (hcrc : leBytes 2 (crc16 (coveredBytes code level corr bytes)).toNat ≠ crc) :
    frameCommand l (coveredBytes code level corr bytes ++ crc) = .frameDiscarded l .badCrc := by
  unfold frameCommand
  dsimp only
  rw [frameLength_covered hlen, ← coveredBytes_length code level corr, List.take_left, List.drop_left, if_pos hcrc]

/-- Settles O55: byte by byte to the last one, whose command the CRC and the reader of the body give. -/
theorem frameBytesCompleteRequest : Obligations.FrameBytesCompleteRequest := by
  intro i q code body pre last hw h ho hlen hframe run
  have hlength : 3 + (bodyBytes body).length < 65536 := by omega
  have hin : within Config.lengthMin Config.lengthMax (3 + (bodyBytes body).length) = true := within_iff.2
    ⟨Nat.le_add_right .., show 3 + _ ≤ 2051 by omega⟩
  have hgood := frameCommand_request hw h ho hlength
  have hbad (crc : List Byte) := frameCommand_badCrc (l := q.link) (level := q.level) (corr := q.corr) (code := code)
    (crc := crc) hlength
  have hbytes : coveredBytes code q.level q.corr (bodyBytes body) ++
      leBytes 2 (crc16 (coveredBytes code q.level q.corr (bodyBytes body))).toNat = pre ++ [last] :=
    (List.cons_inj_right _).1 hframe
  have hcovered := coveredBytes_length code q.level q.corr (bodyBytes body)
  have hcoveredLength := frameLength_covered (code := code) (level := q.level) (corr := q.corr) hlength
  generalize coveredBytes code q.level q.corr (bodyBytes body) = covered at *
  obtain ⟨c0, c1, hcrc⟩ : ∃ c0 c1, leBytes 2 (crc16 covered).toNat = [c0, c1] := ⟨_, _, rfl⟩
  simp only [hcrc] at hgood hbad hbytes
  obtain ⟨rfl, rfl⟩ := List.append_singleton_inj.1 ((List.append_assoc covered [c0] [c1]).trans hbytes)
  have hpre : (covered ++ [c0]).length = 3 + (bodyBytes body).length + 3 := by
    rw [List.length_append, hcovered, List.length_singleton]; omega
  have hwhole (b : Byte) : run (covered ++ [c0] ++ [b]) = (.searching, [frameCommand q.link (covered ++ [c0, b])]) := 
    (received_whole hin hpre (hcoveredLength [c0]) b).trans (by rw [List.append_assoc]; rfl)
  have hpart : run (covered ++ [c0]) = (.inFrame (covered ++ [c0]) 0, []) :=
    received_part hin _ (by omega) fun _ => hcoveredLength [c0]
  refine ⟨by rw [hwhole], by rw [hwhole, hgood], by rw [hpart], fun b hb => ?_⟩
  rw [hwhole, hbad [c0, b] fun h => hb (List.cons.inj (List.cons.inj h).2).1.symm]

end Sys2Proof.Machine
end

section
/-! PROOFS of the family 'other': holds placed and released (10_holds_and_rework.md; O48, O49). -/

namespace Sys2Proof.Machine

variable {s : State} {t : Nat} {r : Traveler} {l : Link} {tag : Text}

/-! ### Placing a hold (R149 to R151) -/

theorem decideFor_away (h : s.stationOf t = none) : s.decideFor t = s := by rw [State.decideFor, h]

theorem stationOf_of_mask {u : State} (h : u.mask = s.mask) : u.stationOf t = s.stationOf t := by
  rw [State.stationOf, State.stationOf, h]

theorem findHold_added {before after : List Hold} {h : Hold} (hadd : HoldAdded before after h)
    (hn : ∀ x ∈ before, x.reason ≠ h.reason) : findHold h.reason after = some h := by
  cases hf : findHold h.reason after with
  | none => exact absurd (List.find?_eq_none.1 hf h ((hadd h).2 (.inr rfl))) (by simp)
  | some x =>
    have hreason : x.reason = h.reason := by simpa using List.find?_some hf
    rcases (hadd x).1 (List.mem_of_find?_eq_some hf) with hx | rfl
    · exact absurd hreason (hn x hx)
    · rfl

theorem occurrences_live (k : HoldReason) (h : s.traveler t = some r) :
    s.occurrences t k = ((findHold k r.holds).map (·.count)).getD 0 := by rw [State.occurrences, h]

theorem findHold_of {h : Hold} {k : HoldReason} (hk : h.reason = k) {n : Nat} :
    findHold k [{ h with count := n }] = some { h with count := n } := by simp [findHold, hk]

theorem findHold_newHold {stamp : Seconds} {k : HoldReason} {who : Raiser} {g : Stage} {d : HoldDetail} :
    findHold k [newHold s stamp k who g d] = some (newHold s stamp k who g d) := by simp [findHold, newHold]

/-- A raise that meets one record of its reason, RELEASED, puts its own in the place. -/
theorem raise_single_released {h x : Hold} (hk : x.reason = h.reason) (ho : h.state = .released) :
    raiseNotices tag t [h] [x] = [.holdRaised tag t x.reason x.raisedBy x.stage x.level x.detail] ∧
      holdsAfterRaise [h] x = [x] := by
  have hnone : openHold x.reason [h] = none := by simp [openHold, ho]
  simp [raiseNotices, holdsAfterRaise, hnone, ← hk]

/-- A raise that meets one record of its reason, OPEN, counts it. -/
theorem raise_single_open {h x : Hold} (hk : x.reason = h.reason) (ho : h.state = .isOpen) :
    raiseNotices tag t [h] [x] = [] ∧ holdsAfterRaise [h] x = [{ h with count := min (h.count + 1) 65535 }] := by
  have hsome : openHold x.reason [h] = some h := by simp [openHold, ho, hk]
  simp [raiseNotices, holdsAfterRaise, hsome, ← hk]

/-- PlaceHold on a live traveler within reach: the OPERATOR record raised, with the word of what the raise does. -/
theorem ownPlaceHold_raises {note : Nat} (hf : tagForm tag = true) (ht : s.tagged tag = some (t, r)) (hn : note ≤ 65535)
    (hl : s.leaving t = false) (haway : s.stationOf t = none ∨ s.raiseResult t .operator = .counted) :
    ownPlaceHold l tag note s =
      accept (s.raiseHold t .operator (.link l) r.stage (some (.note note)))
        [.word (s.raiseResult t .operator).code,
          u2 ((s.raiseHold t .operator (.link l) r.stage (some (.note note))).occurrences t .operator)] := by
  unfold ownPlaceHold
  rw [within_iff.2 ⟨Nat.zero_le _, hn⟩, if_neg (by decide), withTag_live hf ht]
  dsimp only
  rw [hl, if_neg (by decide)]
  split
  · rfl
  · rename_i hword
    rw [decideFor_away]
    exact (stationOf_of_mask (raiseHold_mask ..)).trans (haway.resolve_right hword)

/-- PlaceHold answered by the raise it asks for. -/
theorem request_placeHold {q : Req} {note : Nat} {word : RaiseResult} {hs : List Hold} {x : Hold} {ks : List NoticeKind}
    (htakes : s.Takes q 2) (hf : tagForm tag = true) (ht : s.tagged tag = some (t, r)) (hn : note ≤ 65535)
    (hl : s.leaving t = false) (haway : s.stationOf t = none ∨ word = .counted)
    (hword : s.raiseResult t .operator = word)
    (hraise : Happened (s.inServiceOf q)
      ((s.inServiceOf q).raiseHold t .operator (.link q.link) r.stage (some (.note note))) ks [.table])
    (hafter : ∀ n, ((s.inServiceOf q).raiseHold t .operator (.link q.link) r.stage (some (.note note))).traveler n =
      if n = t then some { r with holds := hs } else s.traveler n)
    (hx : findHold .operator hs = some x) :
    ∃ u, exec (.placeHold q tag note) s = .next u ∧
      Done s u q 34 .ok [.word word.code, u2 x.count] ks [.table] ∧ Rewritten s u t { r with holds := hs } s.table := by
  have hown := ownPlaceHold_raises (s := s.inServiceOf q) (l := q.link) hf ht hn hl (by rw [← hword] at haway; exact haway)
  have hcount := occurrences_live .operator ((hafter t).trans (if_pos rfl))
  rw [hx] at hcount
  rw [hcount, show (s.inServiceOf q).raiseResult t .operator = word from hword] at hown
  obtain ⟨hu, hdone⟩ := request_done 34 (owner := fun _ => ownPlaceHold q.link tag note) htakes hown hraise
  exact ⟨_, hu, hdone, rewritten_of_travelers hafter (raiseHold_table ..)⟩

/-- Settles O48, by what a raise of OPERATOR does. -/
theorem placeHoldOpensOrCounts : Obligations.PlaceHoldOpensOrCounts := by
  intro s q tag note t r htakes hf hn ht
  have hr := tagged_live ht
  refine ⟨fun hl => ?leaving, fun hl hst hnone => ?opened, fun h hl hst hh hk ho => ?reopened, fun h hl hh hk ho => ?counted⟩
  case leaving =>
    refine refused 34 htakes (owner := fun _ => ownPlaceHold q.link tag note) ?_
    have hl' : (s.inServiceOf q).leaving t = true := hl
    unfold ownPlaceHold
    rw [within_iff.2 ⟨Nat.zero_le _, hn⟩, if_neg (by decide), withTag_live (s := s.inServiceOf q) hf ht]
    exact if_pos hl'
  case opened =>
    obtain ⟨hs, hraise, hafter, hadd⟩ := raiseHold_adds (s := s.inServiceOf q) (.link q.link) r.stage (.note note) hr hl hnone
    have hword : s.raiseResult t .operator = .opened := by simp [State.raiseResult, hr, hl, findHold_none hnone]
    obtain ⟨u, hu, hdone, hrec⟩ := request_placeHold htakes hf ht hn hl (.inl hst) hword hraise hafter (findHold_added hadd hnone)
    exact ⟨u, hs, hu, hdone, hrec, hadd⟩
  case reopened =>
    have hword : s.raiseResult t .operator = .reopened := by simp [State.raiseResult, hr, hl, hh, findHold, hk, ho]
    obtain ⟨hraise, hafter⟩ := raiseHold_spec (s := s.inServiceOf q) .operator (.link q.link) r.stage (.note note) hr hl
      (by rw [hh]; exact List.pairwise_singleton ..)
    obtain ⟨hnotices, hholds⟩ := raise_single_released (tag := r.tag) (t := t) (h := h)
      (x := newHold s s.io.seconds .operator (.link q.link) r.stage (.note note)) hk.symm ho
    rw [hh] at hraise hafter
    simp only [show ∀ v, newHold (s.inServiceOf q) (s.inServiceOf q).now .operator (.link q.link) r.stage v =
      newHold s s.io.seconds .operator (.link q.link) r.stage v from fun _ => rfl, hnotices, hholds] at hraise hafter
    exact request_placeHold htakes hf ht hn hl (.inl hst) hword hraise hafter findHold_newHold
  case counted =>
    have hword : s.raiseResult t .operator = .counted := by simp [State.raiseResult, hr, hl, hh, findHold, hk, ho]
    obtain ⟨hraise, hafter⟩ := raiseHold_spec (s := s.inServiceOf q) .operator (.link q.link) r.stage (.note note) hr hl
      (by rw [hh]; exact List.pairwise_singleton ..)
    obtain ⟨hnotices, hholds⟩ := raise_single_open (tag := r.tag) (t := t) (h := h)
      (x := newHold s s.io.seconds .operator (.link q.link) r.stage (.note note)) hk.symm ho
    rw [hh] at hraise hafter
    simp only [show ∀ v, newHold (s.inServiceOf q) (s.inServiceOf q).now .operator (.link q.link) r.stage v =
      newHold s s.io.seconds .operator (.link q.link) r.stage v from fun _ => rfl, hnotices, hholds] at hraise hafter
    exact request_placeHold htakes hf ht hn hl (.inr rfl) hword hraise hafter (findHold_of hk)

/-! ### Releasing holds (R152, R153) -/

/-- One OPEN record released, as it stands in the hold set. -/
def Hold.closedBy (h : Hold) (l : Link) (stamp : Seconds) : Hold :=
  { h with state := .released, releasedBy := some l, releasedStamp := some stamp }

theorem releaseRecord_live (h : Hold) (level : Nat) (hr : s.traveler t = some r) :
    Happened s (s.releaseRecord t h l level) [.holdReleased r.tag t h.reason l level h.count] [.table] ∧
      (∀ n, (s.releaseRecord t h l level).traveler n =
        if n = t then some { r with holds := putHold (Hold.closedBy h l s.now) r.holds } else s.traveler n) ∧
      (s.releaseRecord t h l level).table = { s.table with records := (s.releaseRecord t h l level).table.records } ∧
      (s.releaseRecord t h l level).mask = s.mask ∧ (s.releaseRecord t h l level).now = s.now := by
  have heq : s.releaseRecord t h l level =
      (s.setTraveler t { r with holds := putHold (Hold.closedBy h l s.now) r.holds }).post
        (.holdReleased r.tag t h.reason l level h.count) := by
    simp [State.releaseRecord, hr, Hold.closedBy]
  rw [heq]
  refine ⟨(happened_setTraveler s t _).then rfl (happened_post _ _) (by simp), fun n => ?_, rfl, rfl, rfl⟩
  rw [post_traveler]
  split
  · subst n; exact traveler_setTraveler_same _ hr
  · exact traveler_setTraveler_other _ _ _ _ ‹_›

/-- ReleaseHold of a reason with no OPEN record. -/
theorem ownReleaseHold_none {k : HoldReason} {eff : Nat} (hf : tagForm tag = true) (ht : s.tagged tag = some (t, r))
    (hfind : (findHold k r.holds).filter (·.state == .isOpen) = none) :
    ownReleaseHold l eff tag k.code s = refuse s .notFound [.word k.code] := by
  unfold ownReleaseHold
  rw [reasonOfCode]
  dsimp only
  rw [withTag_live hf ht, hfind]

/-- ReleaseHold of a reason with an OPEN record, by its release level. -/
theorem ownReleaseHold_some {h : Hold} {k : HoldReason} {eff : Nat} (hf : tagForm tag = true)
    (ht : s.tagged tag = some (t, r)) (hfind : (findHold k r.holds).filter (·.state == .isOpen) = some h) :
    ownReleaseHold l eff tag k.code s =
      if h.level < eff then refuse s .level [u1 h.level] else accept ((s.releaseRecord t h l eff).decideFor t) := by
  unfold ownReleaseHold
  rw [reasonOfCode]
  dsimp only
  rw [withTag_live hf ht, hfind]

theorem findOpen_single {h : Hold} (ho : h.state = .isOpen) :
    (findHold h.reason [h]).filter (·.state == .isOpen) = some h := by simp [findHold, Option.filter, ho]

theorem findOpen_none {k : HoldReason} {holds : List Hold} (hk : ∀ g ∈ holds, g.reason = k → g.state = .released) :
    (findHold k holds).filter (·.state == .isOpen) = none := by
  cases hf : findHold k holds with
  | none => rfl
  | some g =>
    have hreleased := hk g (List.mem_of_find?_eq_some hf) (by simpa using List.find?_some hf)
    simp [Option.filter, hreleased]

/-- ReleaseHold of ALL on a live traveler, by the OPEN records. -/
theorem ownReleaseHoldAll_live {eff : Nat} (hf : tagForm tag = true) (ht : s.tagged tag = some (t, r)) :
    ownReleaseHoldAll l eff tag s =
      if (openHolds r.holds).isEmpty then refuse s .notFound
      else if ((openHolds r.holds).filter fun h => decide (eff ≤ h.level)).isEmpty then
        refuse s .level (reasonFields ((openHolds r.holds).filter fun h => decide (h.level < eff)))
      else
        accept ((((openHolds r.holds).filter fun h => decide (eff ≤ h.level)).foldl
            (fun s h => s.releaseRecord t h l eff) s).decideFor t)
          (reasonFields ((openHolds r.holds).filter fun h => decide (eff ≤ h.level)) ++
            reasonFields ((openHolds r.holds).filter fun h => decide (h.level < eff))) :=
  withTag_live hf ht _

theorem openHolds_pair {g h : Hold} (hg : g.state = .isOpen) (hh : h.state = .isOpen) : openHolds [g, h] = [g, h] := by
  simp [openHolds, hg, hh]

/-- A release request that releases records, from what the releases leave. -/
theorem request_release {q : Req} {owner : Nat → State → State × Reply} {fields : List Field} {v : State}
    {ks : List NoticeKind} {r' : Traveler} (htakes : s.Takes q 3) (hst : s.stationOf t = none)
    (ho : owner (max (s.strapped q.link) q.level) (s.inServiceOf q) = accept (v.decideFor t) fields)
    (hv : Happened (s.inServiceOf q) v ks [.table])
    (hafter : ∀ n, v.traveler n = if n = t then some r' else (s.inServiceOf q).traveler n)
    (htable : v.table = { (s.inServiceOf q).table with records := v.table.records }) (hmask : v.mask = (s.inServiceOf q).mask) :
    ∃ u, request q 35 3 owner s = .next u ∧ Done s u q 35 .ok fields ks [.table] ∧ Rewritten s u t r' s.table := by
  have haway : v.stationOf t = none := (stationOf_of_mask hmask).trans hst
  rw [decideFor_away haway] at ho
  obtain ⟨hu, hdone⟩ := request_done 35 htakes ho hv
  exact ⟨_, hu, hdone, rewritten_of_travelers hafter htable⟩

theorem putHold_closed (h : Hold) (l : Link) (stamp : Seconds) (rest : List Hold) :
    putHold (Hold.closedBy h l stamp) (h :: rest) = Hold.closedBy h l stamp :: rest := by simp [putHold, Hold.closedBy]

theorem putHold_closed_second {g h : Hold} (l : Link) (stamp : Seconds) (hlt : g.reason.code < h.reason.code) :
    putHold (Hold.closedBy h l stamp) [g, h] = [g, Hold.closedBy h l stamp] := by
  have hne : g.reason ≠ h.reason := fun e => by rw [e] at hlt; exact Nat.lt_irrefl _ hlt
  simp [putHold, Hold.closedBy, hne, Nat.not_lt_of_lt hlt]

/-- Settles O49, by the OPEN records and their release levels. -/
theorem releaseNeedsLevel : Obligations.ReleaseNeedsLevel := by
  constructor
  · intro s q tag t r h htakes hf ht eff
    have hr : (s.inServiceOf q).traveler t = some r := tagged_live ht
    refine ⟨fun hh ho hlevel hst => ?one, fun hh ho hlevel => ?oneLevel, fun k hk => ?oneNone⟩
    case one =>
      have hown := ownReleaseHold_some (s := s.inServiceOf q) (l := q.link) (eff := eff) hf ht
        ((congrArg (fun holds => (findHold h.reason holds).filter _) hh).trans (findOpen_single ho))
      rw [if_neg (Nat.not_lt.2 hlevel)] at hown
      obtain ⟨hreleased, hafter, htable, hmask, -⟩ := releaseRecord_live (l := q.link) h eff hr
      rw [hh, putHold_closed] at hafter
      exact request_release htakes hst (owner := fun eff => ownReleaseHold q.link eff tag h.reason.code) hown hreleased hafter
        htable hmask
    case oneLevel =>
      have hown := ownReleaseHold_some (s := s.inServiceOf q) (l := q.link) (eff := eff) hf ht
        ((congrArg (fun holds => (findHold h.reason holds).filter _) hh).trans (findOpen_single ho))
      rw [if_pos hlevel] at hown
      exact refused 35 htakes (owner := fun eff => ownReleaseHold q.link eff tag h.reason.code) hown
    case oneNone =>
      exact refused 35 htakes (owner := fun eff => ownReleaseHold q.link eff tag k.code)
        (ownReleaseHold_none (s := s.inServiceOf q) hf ht (findOpen_none hk))
  · intro s q tag t r g h htakes hf ht hh hne hlt hst eff closed
    have hr : (s.inServiceOf q).traveler t = some r := tagged_live ht
    have hown := ownReleaseHoldAll_live (s := s.inServiceOf q) (l := q.link) (eff := eff) hf ht
    rw [hh] at hown
    refine ⟨fun hg ho hgl hhl => ?both, fun hg ho hgl hhl => ?second, fun hg ho hgl hhl => ?allLevel,
      fun hg ho => ?allNone⟩
    case both =>
      rw [openHolds_pair hg ho] at hown
      simp only [List.filter, decide_eq_true hgl, decide_eq_true hhl, decide_eq_false (Nat.not_lt.2 hgl),
        decide_eq_false (Nat.not_lt.2 hhl)] at hown
      obtain ⟨hfirst, hafter1, htable1, hmask1, hnow⟩ := releaseRecord_live (l := q.link) g eff hr
      obtain ⟨hsecond, hafter2, htable2, hmask2, -⟩ := releaseRecord_live (l := q.link) h eff ((hafter1 t).trans (if_pos rfl))
      refine request_release (v := ((s.inServiceOf q).releaseRecord t g q.link eff).releaseRecord t h q.link eff) htakes hst
        (owner := fun eff => ownReleaseHoldAll q.link eff tag) hown (hfirst.then hnow hsecond (by simp)) (fun n => ?_)
        (htable2.trans (by rw [htable1])) (hmask2.trans hmask1)
      rw [hafter2, hafter1, hh, putHold_closed, hnow]
      dsimp only
      rw [putHold_closed_second (g := Hold.closedBy g q.link _) _ _ hlt]
      split <;> rfl
    case second =>
      rw [openHolds_pair hg ho] at hown
      simp only [List.filter, decide_eq_true hgl, decide_eq_true hhl, decide_eq_false (Nat.not_le.2 hgl),
        decide_eq_false (Nat.not_lt.2 hhl)] at hown
      obtain ⟨hreleased, hafter, htable, hmask, -⟩ := releaseRecord_live (l := q.link) h eff hr
      rw [hh, putHold_closed_second _ _ hlt] at hafter
      exact request_release htakes hst (owner := fun eff => ownReleaseHoldAll q.link eff tag) hown hreleased hafter
        htable hmask
    case allLevel =>
      rw [openHolds_pair hg ho] at hown
      simp only [List.filter, decide_eq_true hgl, decide_eq_true hhl, decide_eq_false (Nat.not_le.2 hgl),
        decide_eq_false (Nat.not_le.2 hhl)] at hown
      exact refused 35 htakes (owner := fun eff => ownReleaseHoldAll q.link eff tag) hown
    case allNone =>
      rw [show openHolds [g, h] = [] by simp [openHolds, hg, ho]] at hown
      exact refused 35 htakes (owner := fun eff => ownReleaseHoldAll q.link eff tag) hown

end Sys2Proof.Machine
end

section
/-! PROOFS of the family 'other': dispositions of a shelved board (10.5; O50, O51). -/

namespace Sys2Proof.Machine

variable {s : State} {t : Nat} {r : Traveler} {tag : Text} {eff : Nat} {d : DispositionField}

/-! ### Dispose judged (R157) -/

/-- Dispose of a live traveler by one of the five words, judged in the order of R157. -/
theorem ownDispose_live {need : Nat} (hneed : dispositionLevel d = some need) (hf : tagForm tag = true)
    (ht : s.tagged tag = some (t, r)) :
    ownDispose eff tag d s =
      if need < eff then refuse s .level
      else if !(r.stage == .shelved && r.place == .present) then refuse s .stage
      else if !strokesInRange (s.recipeOf r).strokes.length d then refuse s .invalid
      else if r.held && d != .scrap then refuse s .holdsOpen (reasonFields (openHolds r.holds))
      else
        match reentryRoute d with
        | some route =>
          if s.mode = .drain then refuse s .mode
          else if Config.queueCapacity ≤ s.occupancy then refuse s .full
          else accept (s.reenter t r route)
        | none => accept (s.retire t (if d = .accept then .accepted else .scrapped)).decideBoth := by
  unfold ownDispose
  rw [hneed]
  dsimp only
  rw [withTag_live hf ht] <;> rfl

/-- Dispose of a shelved board that no check before the line's own holds up. -/
theorem ownDispose_shelved {need : Nat} (hneed : dispositionLevel d = some need) (hf : tagForm tag = true)
    (ht : s.tagged tag = some (t, r)) (heff : eff ≤ need) (hstage : r.stage = .shelved) (hplace : r.place = .present)
    (hrange : strokesInRange (s.recipeOf r).strokes.length d = true) (hholds : r.held = false ∨ d = .scrap) :
    ownDispose eff tag d s =
      match reentryRoute d with
      | some route =>
        if s.mode = .drain then refuse s .mode
        else if Config.queueCapacity ≤ s.occupancy then refuse s .full
        else accept (s.reenter t r route)
      | none => accept (s.retire t (if d = .accept then .accepted else .scrapped)).decideBoth := by
  have hheld : ¬ (r.held && d != .scrap) = true := by rcases hholds with h | h <;> simp [h]
  rw [ownDispose_live hneed hf ht, if_neg (Nat.not_lt.2 heff), if_neg (by simp [hstage, hplace]), if_neg (by simp [hrange]),
    if_neg hheld]

theorem strokesInRange_iff {n : Nat} : strokesInRange n d = true ↔ ∀ f l, d = .touchUp f l → 1 ≤ f ∧ f ≤ l ∧ l ≤ n := by
  cases d <;> simp [strokesInRange, and_assoc]

theorem decideBoth_idle (hpre : s.mask.pre = none) (hpost : s.mask.post = none) : s.decideBoth = s := by
  rw [State.decideBoth, decideExit_none hpost, decidePre_none hpre]

/-! ### The shelf slot freed (R155) -/

theorem nth_map {α β : Type} (f : α → β) (l : List α) (n : Nat) : nth (l.map f) n = (nth l n).map f := by
  unfold nth
  split
  · rfl
  · exact List.getElem?_map ..

theorem freeSlotsOf_resting {l : List ShelfSlot} {n : Nat} (h : nth l n = some (.resting t)) :
    nth (freeSlotsOf t l) n = some .free := by simp [freeSlotsOf, nth_map, h]

theorem freeSlotsOf_other {l : List ShelfSlot} {n : Nat} (hr : nth l n ≠ some (.resting t))
    (ha : nth l n ≠ some (.assigned t)) : nth (freeSlotsOf t l) n = nth l n := by
  rw [freeSlotsOf, nth_map]
  cases h : nth l n with
  | none => rfl
  | some x =>
    rw [h] at hr ha
    exact congrArg some (if_neg (by rintro (rfl | rfl); exacts [ha rfl, hr rfl]))

/-! ### Re-entry (R157 to R160) -/

theorem reentryFields_tag (x : RecipeSlot) (route : Route) (r : Traveler) :
    (reentryFields x route r).tag = r.tag ∧ (reentryFields x route r).stage = r.stage := by cases route <;> exact ⟨rfl, rfl⟩

theorem freeSlot_live (h : s.traveler t = some r) :
    s.freeSlot t = (s.onHolds fun m => { m with shelf := freeSlotsOf t m.shelf }).setTraveler t { r with shelfSlot := none } :=
  onTraveler_live _ h

/-- A re-entry leaves the fields of its route, the board QUEUED at the tail of the infeed queue, its slot free. -/
theorem reenter_spec (route : Route) (hr : s.traveler t = some r) (hpre : s.mask.pre = none) (hpost : s.mask.post = none) :
    Happened s (s.reenter t r route) [.boardStage r.tag t r.stage .queued .present] [.table, .holds] ∧
      Rewritten s (s.reenter t r route) t
        { reentryFields (s.recipeOf r) route r with stage := .queued, place := .present, shelfSlot := none }
        { s.table with queue := s.table.queue ++ [t] } ∧
      (s.reenter t r route).holds = { s.holds with shelf := freeSlotsOf t s.holds.shelf } := by
  let x := reentryFields (s.recipeOf r) route r
  let cleared := s.setTraveler t x
  let freed := (cleared.onHolds fun m => { m with shelf := freeSlotsOf t m.shelf }).setTraveler t { x with shelfSlot := none }
  let queued := freed.onTable fun b => { b with queue := b.queue ++ [t] }
  have hcleared : cleared.traveler t = some x := traveler_setTraveler_same _ hr
  have hfreed : freed.traveler t = some { x with shelfSlot := none } :=
    traveler_setTraveler_same (s := cleared.onHolds _) _ hcleared
  have hqueued : queued.traveler t = some { x with shelfSlot := none } := hfreed
  obtain ⟨htag, hstage⟩ := reentryFields_tag (s.recipeOf r) route r
  have heq : s.reenter t r route = (queued.setTraveler t { x with stage := .queued, place := .present, shelfSlot := none }).post
      (.boardStage r.tag t r.stage .queued .present) := by
    have hnotice : NoticeKind.boardStage x.tag t x.stage .queued .present = .boardStage r.tag t r.stage .queued .present := by
      rw [htag, hstage]
    calc s.reenter t r route
        = (((cleared.freeSlot t).onTable fun b => { b with queue := b.queue ++ [t] }).moveStage t .queued .present).decideBoth := rfl
      _ = (queued.moveStage t .queued .present).decideBoth := by rw [freeSlot_live hcleared]
      _ = queued.moveStage t .queued .present :=
        decideBoth_idle ((congrArg MaskUnit.pre (moveStage_mask ..)).trans hpre)
          ((congrArg MaskUnit.post (moveStage_mask ..)).trans hpost)
      _ = _ := (moveStage_live .queued .present hqueued).trans (congrArg (State.post _) hnotice)
  rw [heq]
  refine ⟨?_, ⟨traveler_setTraveler_same _ hqueued, fun n hn => ?_, rfl⟩, rfl⟩
  · have hfields : Happened s (queued.setTraveler t { x with stage := .queued, place := .present, shelfSlot := none }) []
        [.table, .holds] := .ofLinks rfl fun p hp => by
      cases p
      case table | holds => exact absurd (by decide) hp
      all_goals rfl
    exact hfields.then rfl (happened_post _ _) (by simp)
  · rw [post_traveler, traveler_setTraveler_other _ _ _ _ hn]
    exact (traveler_setTraveler_other _ _ _ _ hn).trans (traveler_setTraveler_other s _ _ _ hn)

theorem dropReleased_none {l : List Hold} (h : ∀ x ∈ l, x.state = .released) : dropReleased l = [] :=
  List.filter_eq_nil_iff.2 fun x hx => by simp [h x hx]

/-- Settles O50, by the route of the disposition. -/
theorem disposeReturnsBoardToQueue : Obligations.DisposeReturnsBoardToQueue := by
  intro s q tag t n r d route htakes hf ht hstage hplace hholds hmode hroom hpre hpost hst hslot hd cleared
  have hr : (s.inServiceOf q).traveler t = some r := tagged_live ht
  obtain ⟨hneed, hroute, hrange⟩ : dispositionLevel d = some 2 ∧ reentryRoute d = some route ∧
      strokesInRange (s.recipeOf r).strokes.length d = true := by
    rcases hd with ⟨rfl, rfl⟩ | ⟨f, l, rfl, rfl, h1, h2, h3⟩ | ⟨rfl, rfl⟩
    · exact ⟨rfl, rfl, rfl⟩
    · exact ⟨rfl, rfl, by simp [strokesInRange, h1, h2, h3]⟩
    · exact ⟨rfl, rfl, rfl⟩
  have hown : ownDispose (max (s.strapped q.link) q.level) tag d (s.inServiceOf q) =
      accept ((s.inServiceOf q).reenter t r route) := by
    have hmode' : ¬ (s.inServiceOf q).mode = .drain := hmode
    have hroom' : ¬ Config.queueCapacity ≤ (s.inServiceOf q).occupancy := Nat.not_le.2 hroom
    rw [ownDispose_shelved (s := s.inServiceOf q) hneed hf ht htakes.2.2.2.2 hstage hplace hrange (.inl (held_false hholds)),
      hroute]
    dsimp only
    rw [if_neg hmode', if_neg hroom']
  obtain ⟨hdone, hrec, hfreed⟩ := reenter_spec (s := s.inServiceOf q) route hr hpre hpost
  obtain ⟨hu, hd⟩ := request_done 36 (owner := fun eff => ownDispose eff tag d) htakes hown hdone
  rw [hstage] at hd
  have hrestored : ({ reentryFields (s.recipeOf r) route r with stage := .queued, place := .present, shelfSlot := none } : Traveler) =
      if route = .reCure then cleared
      else
        { cleared with sites := List.replicate (s.recipeOf r).sites.length .unchecked, fiducial := none,
                       program := .notStarted, strokeCursor := 0, passCursor := 0,
                       coat := { run := 0, skipped := 0, faults := 0, first := none }, sprayEnd := none,
                       passDose := if route = .full then 0 else r.passDose } := by
    dsimp only [cleared]
    cases route <;> simp [reentryFields, dropReleased_none hholds]
  have hlevels := congrArg HoldManager.levels hfreed
  rw [← hrestored]
  exact ⟨_, hu, hd, hrec, (congrArg (fun m => nth (HoldManager.shelf m) n) hfreed).trans (freeSlotsOf_resting hslot),
    fun m hr ha => (congrArg (fun h => nth (HoldManager.shelf h) m) hfreed).trans (freeSlotsOf_other hr ha),
    hlevels⟩

/-! ### Retirement (R19, R161) -/

/-- What retiring a live traveler posts and leaves where no station holds a record (R19). -/
theorem retire_spec (o : RetireOutcome) (hr : s.traveler t = some r) (hpre : s.mask.pre = none) (hpost : s.mask.post = none) :
    Happened s (s.retire t o) [.boardRetired r.tag t o] [.table, .recipes, .engine, .cure, .holds, .clock] ∧
      (s.retire t o).holds = { s.holds with shelf := freeSlotsOf t s.holds.shelf } ∧
      OutputsBecome s (s.retire t o) s.io.outputs ∧
      (s.retire t o).mask = s.mask := by
  have hmask : s.mask = { pre := s.mask.pre.filter (·.traveler != t), post := s.mask.post.filter (·.traveler != t) } := by
    rw [hpre, hpost]
    exact (congrArg₂ MaskUnit.mk hpre hpost : MaskUnit.mk s.mask.pre s.mask.post = _)
  obtain ⟨hposted, hsettings, hframes, -⟩ := happened_post s (.boardRetired r.tag t o)
  unfold State.retire
  rw [hr]
  refine ⟨⟨hposted, hsettings, hframes, fun p hp => ?_⟩, rfl, rfl, hmask.symm⟩
  cases p
  case pending | lots => rfl
  case mask => exact hmask.symm
  all_goals exact absurd (by decide) hp

theorem retire_table_rest (o : RetireOutcome) (hr : s.traveler t = some r) :
    (s.retire t o).table = { s.table with
      records := (s.retire t o).table.records, free := s.table.free ++ [t],
      index := s.table.index.filter (fun e => e.2 != t), queue := s.table.queue.filter (· != t),
      transfers := s.table.transfers.filter (fun e => e.traveler != t) } := by
  rw [retire_table s o hr]

theorem retire_slot (o : RetireOutcome) {x : RecipeSlot} (hr : s.traveler t = some r)
    (hx : nth s.recipes.slots r.recipe = some x) :
    (s.retire t o).recipes =
      { s.recipes with slots := putNth s.recipes.slots r.recipe { x with useCount := x.useCount - 1 } } := by
  unfold State.retire
  rw [hr]
  show (match nth s.recipes.slots r.recipe with | none => s.recipes | some x => _) = _
  rw [hx] <;> rfl

theorem dropOven_absent {c : CureMonitor} (h : ∀ e ∈ c.oven, e.traveler ≠ t) : c.dropOven t = c := by
  unfold CureMonitor.dropOven
  rw [if_neg]
  simpa using h

theorem filter_absent {l : List Nat} (h : t ∉ l) : l.filter (· != t) = l :=
  List.filter_eq_self.2 fun x hx => by simpa using fun e : x = t => h (by rw [← e]; exact hx)

theorem retire_cure_away (o : RetireOutcome) (hr : s.traveler t = some r) (hf : t ∉ s.cure.flash) (ho : t ∉ s.cure.overdue)
    (hx : t ∉ s.cure.exit) (hoven : ∀ e ∈ s.cure.oven, e.traveler ≠ t) : (s.retire t o).cure = s.cure := by
  rw [(retire_fields s o hr).2.1, dropOven_absent hoven, filter_absent hf, filter_absent ho, filter_absent hx]

/-- Relighting the lamps, and an answer at a link, leave the other outputs. -/
theorem outputsBecome_relight {v : State} {o : Outputs} (h : OutputsBecome s v o) : OutputsBecome s v.relight o :=
  (congrArg (fun io : LineIo => { io with outputs :=
    { io.outputs with green := v.greenLamp, amber := v.amberLamp, red := v.redLamp } }) h :)

theorem outputsBecome_answered {v : State} {o : Outputs} {q : Req} {code level : Nat} {a : Reply} (h : OutputsBecome s v o) :
    OutputsBecome s (v.answered q code level a) o := outputsBecome_relight (v := v.onLink q.link _) h

/-- ACCEPT without an OPEN hold, and SCRAP, are carried out. -/
theorem ownDispose_retires {o : RetireOutcome} (hf : tagForm tag = true) (ht : s.tagged tag = some (t, r))
    (hstage : r.stage = .shelved) (hplace : r.place = .present) (hpre : s.mask.pre = none) (hpost : s.mask.post = none)
    (hd : (d = .accept ∧ o = .accepted ∧ eff ≤ 0 ∧ ∀ h ∈ r.holds, h.state = .released) ∨ (d = .scrap ∧ o = .scrapped ∧ eff ≤ 1)) :
    ownDispose eff tag d s = accept (s.retire t o) := by
  have hidle : (s.retire t o).decideBoth = s.retire t o := by
    have hmask := (retire_spec o (tagged_live ht) hpre hpost).2.2.2
    exact decideBoth_idle (by rw [hmask]; exact hpre) (by rw [hmask]; exact hpost)
  rcases hd with ⟨rfl, rfl, heff, hheld⟩ | ⟨rfl, rfl, heff⟩
  · rw [ownDispose_shelved (need := 0) rfl hf ht heff hstage hplace rfl (.inl (held_false hheld))]
    exact congrArg (accept ·) hidle
  · rw [ownDispose_shelved (need := 1) rfl hf ht heff hstage hplace rfl (.inr rfl)]
    exact congrArg (accept ·) hidle

/-- Settles O51: the retirement, then the checks in their order. -/
theorem disposeRetiresOrRefuses : Obligations.DisposeRetiresOrRefuses := by
  constructor
  · intro s q tag t n r x d o hf ht hstage hplace hpre hpost hslot hx hd
    have hr : (s.inServiceOf q).traveler t = some r := tagged_live ht
    have htakes : s.Takes q 2 := by
      rcases hd with ⟨-, -, h, -⟩ | ⟨-, -, h⟩ <;>
      · obtain ⟨h1, h2, h3, h4, h5⟩ := h
        exact ⟨h1, h2, h3, h4, by omega⟩
    have hown : ownDispose (max (s.strapped q.link) q.level) tag d (s.inServiceOf q) =
        accept ((s.inServiceOf q).retire t o) :=
      ownDispose_retires (s := s.inServiceOf q) hf ht hstage hplace hpre hpost
        (hd.imp (fun ⟨h1, h2, h3, h4⟩ => ⟨h1, h2, h3.2.2.2.2, h4⟩) fun ⟨h1, h2, h3⟩ => ⟨h1, h2, h3.2.2.2.2⟩)
    obtain ⟨hdone, hfreed, hio, -⟩ := retire_spec (s := s.inServiceOf q) o hr hpre hpost
    obtain ⟨hdead, -, -, -, hothers⟩ := retire_live (s := s.inServiceOf q) o hr
    have htable := retire_table_rest (s := s.inServiceOf q) o hr
    have hrecipes := retire_slot (s := s.inServiceOf q) o hr hx
    have hengine := (retire_fields (s.inServiceOf q) o hr).1
    have hlevels := congrArg HoldManager.levels hfreed
    obtain ⟨hu, hd⟩ := request_done 36 (owner := fun eff => ownDispose eff tag d) htakes hown hdone
    refine ⟨_, hu, hd, hdead, fun k hk => hothers k hk, ?_, ⟨?_, fun k hk => ?_, ?_⟩,
      (congrArg (fun m => nth (HoldManager.shelf m) n) hfreed).trans (freeSlotsOf_resting hslot),
      fun m hr ha => (congrArg (fun h => nth (HoldManager.shelf h) m) hfreed).trans (freeSlotsOf_other hr ha), hlevels, ?_,
      fun hb => hengine.trans (if_neg hb), fun h1 h2 h3 h4 => retire_cure_away (s := s.inServiceOf q) o hr h1 h2 h3 h4⟩
    · exact htable
    · exact (congrArg (fun m => nth (RecipeStore.slots m) r.recipe) hrecipes).trans (nth_putNth_live _ hx)
    · exact (congrArg (fun m => nth (RecipeStore.slots m) k) hrecipes).trans (nth_putNth_other _ _ _ _ hk)
    · exact (congrArg RecipeStore.profiles hrecipes :)
    · exact outputsBecome_answered hio
  · intro s q tag t r htakes hf ht eff answers need ranged
    have hneed (d : DispositionField) (hd : ∀ c, d ≠ .other c) : dispositionLevel d = some (need d) := by
      cases d
      case other c => exact absurd rfl (hd c)
      all_goals rfl
    have hown (d : DispositionField) (hd : ∀ c, d ≠ .other c) :=
      ownDispose_live (s := s.inServiceOf q) (eff := eff) (d := d) (hneed d hd) hf ht
    have hrefused (d : DispositionField) {w : Status} {fields : List Field} :=
      refused (s := s) (q := q) (w := w) (fields := fields) 36 htakes (owner := fun eff => ownDispose eff tag d)
    refine ⟨fun c => hrefused _ rfl, fun d hd => ⟨fun hweak => ?level, fun hstrong hplace => ?stage,
      fun hstrong hstage hplace => ⟨fun hrange => ?invalid, fun hrange => ⟨fun hscrap hopen => ?holdsOpen,
        fun haccept hscrap hreleased => ⟨fun hmode => ?mode, fun hmode hfull => ?full⟩⟩⟩⟩⟩
    case level => exact hrefused d ((hown d hd).trans (if_pos hweak))
    case stage =>
      refine hrefused d ((hown d hd).trans ((if_neg (Nat.not_lt.2 hstrong)).trans (if_pos ?_)))
      rcases hplace with h | h <;> simp [h]
    case invalid =>
      refine hrefused d ((hown d hd).trans ((if_neg (Nat.not_lt.2 hstrong)).trans ((if_neg ?_).trans (if_pos ?_))))
      · simp [hstage, hplace]
      · simpa using fun h => hrange (strokesInRange_iff.1 h)
    case holdsOpen =>
      refine hrefused d ((hown d hd).trans ((if_neg (Nat.not_lt.2 hstrong)).trans ((if_neg ?_).trans ((if_neg ?_).trans
        (if_pos ?_)))))
      · simp [hstage, hplace]
      · simpa using strokesInRange_iff.2 hrange
      · simp [held_true hopen, hscrap]
    all_goals
      obtain ⟨route, hroute⟩ : ∃ route, reentryRoute d = some route := by
        cases d
        case accept => exact absurd rfl haccept
        case scrap => exact absurd rfl hscrap
        case other c => exact absurd rfl (hd c)
        all_goals exact ⟨_, rfl⟩
      have hjudged : ownDispose eff tag d (s.inServiceOf q) =
          if (s.inServiceOf q).mode = .drain then refuse (s.inServiceOf q) .mode
          else if Config.queueCapacity ≤ (s.inServiceOf q).occupancy then refuse (s.inServiceOf q) .full
          else accept ((s.inServiceOf q).reenter t r route) := by
        rw [ownDispose_shelved (s := s.inServiceOf q) (hneed d hd) hf ht hstrong hstage hplace
          (strokesInRange_iff.2 hrange) (.inl (held_false hreleased)), hroute]
    case mode => exact hrefused d (hjudged.trans (if_pos hmode))
    case full => exact hrefused d (hjudged.trans ((if_neg hmode).trans (if_pos hfull)))

end Sys2Proof.Machine
end

section
/-! PROOF of the family 'other': the decisions of the two diverters (R72, R73, R140; O33). -/

namespace Sys2Proof.Machine

variable {s u : State} {x : Station} {t n : Nat} {r : Traveler} {o : Option Place}

/-- A part that was named as changed and is as it was need not be named. -/
theorem Happened.narrow {ks : List NoticeKind} {c d : List Part} (h : Happened s u ks c)
    (hkept : ∀ p ∈ c, p ∈ d ∨ KeptPart s u p) : Happened s u ks d := by
  obtain ⟨hposted, hsettings, hframes, hparts⟩ := h
  refine ⟨hposted, hsettings, hframes, fun p hp => ?_⟩
  by_cases hc : p ∈ c
  · exact (hkept p hc).resolve_left hp
  · exact hparts p hc

/-- A decision carried out: what it posts, the board sent, the way set. -/
theorem decision_sends (hw : s.Waits x t r)
    (hd : DiverterSends x s.mode s.holds.shelf (s.vacant .cell = true) r.holds o) (hc : s.WayClear o) (ho : o ≠ none) :
    ∃ u, event (s.decideAt x) = .next u ∧ Happened s u (sentNotices r t o) [.table, .engine, .holds, .clock] ∧
      Sent s u x t r s.table s.engine s.holds.shelf o ∧ OutputsBecome s u (sentOutputs x s.io.outputs o) := by
  obtain ⟨hdone, hsent, -, hway⟩ := decideAt_sends hw hd hc
  exact ⟨_, rfl, event_happened hdone, hsent, outputsBecome_relight (hway ho)⟩

/-- A decision that sends the board nowhere. -/
theorem decideAt_keeps (hw : s.Waits x t r)
    (hd : DiverterSends x s.mode s.holds.shelf (s.vacant .cell = true) r.holds none) : s.decideAt x = s := by
  have ha := awaiting_waits hw
  cases x with
  | pre =>
    obtain ⟨-, hrun⟩ := hd
    by_cases hm : s.mode = .run ∨ s.mode = .drain
    · obtain ⟨hshelf, hline⟩ := hrun hm
      by_cases hheld : r.held = true
      · rcases hshelf (held_iff.1 hheld) with ⟨hfew, -⟩ | ⟨-, _, -, -, h⟩
        · simp [State.decideAt, State.decidePre, State.preDecision, hm, ha, hheld, State.freeSlots, ← List.count_eq_countP,
            Nat.not_le.2 hfew]
        · cases h
      · have hv : s.vacant .cell ≠ true := fun hv => by
          have := (hline fun h => hheld (held_iff.2 h)).1 hv
          cases this
        simp [State.decideAt, State.decidePre, State.preDecision, hm, ha, hheld, hv]
    · simp [State.decideAt, State.decidePre, State.preDecision, hm]
  | post =>
    obtain ⟨-, hrun⟩ := hd
    by_cases hm : s.mode = .halt
    · simp [State.decideAt, State.decideExit, State.exitDecision, hm]
    · obtain ⟨hshelf, hline⟩ := hrun hm
      by_cases hheld : r.held = true
      · rcases hshelf (held_iff.1 hheld) with ⟨hfew, -⟩ | ⟨-, _, -, -, h⟩
        · simp [State.decideAt, State.decideExit, State.exitDecision, hm, ha, hheld, lowestFree_none (Nat.lt_one_iff.1 hfew)]
        · cases h
      · cases hline fun h => hheld (held_iff.2 h)

theorem slotSelectOf_shelf (l : List Transfer) (e : Transfer) (h : e.dest = .shelf n) : slotSelectOf (l ++ [e]) = n := by
  unfold slotSelectOf
  rw [List.foldl_append, List.foldl_cons, h]
  rfl

/-- A board sent to shelf slot `n`. -/
theorem sent_shelf {y : Outputs} (hsent : Sent s u x t r s.table s.engine s.holds.shelf (some (.shelf n)))
    (hfree : nth s.holds.shelf n = some .free) (hway : OutputsBecome s u y) :
    Rewritten s u t { r with stage := .shelved, place := .arriving, shelfSlot := some n }
        { s.table with transfers := s.table.transfers ++ [entryFor s t (stationPlace x) (.shelf n)] } ∧
      nth u.holds.shelf n = some (.assigned t) ∧
      (∀ m, m ≠ n → nth u.holds.shelf m = nth s.holds.shelf m) ∧ u.holds.levels = s.holds.levels ∧
      OutputsBecome s u y ∧ u.io.outputs.slotSelect = n := by
  obtain ⟨hrec, -, hholds⟩ := hsent
  have htable := hrec.2.2
  have hselect : u.io.outputs.slotSelect = slotSelectOf u.table.transfers := by rw [hway]
  refine ⟨hrec, by rw [hholds]; exact nth_putNth_live _ hfree,
    fun m hm => by rw [hholds]; exact nth_putNth_other _ _ _ _ hm, by rw [hholds], hway, ?_⟩
  rw [hselect, htable]
  exact slotSelectOf_shelf _ _ rfl

theorem not_open {l : List Hold} (h : ∀ x ∈ l, x.state = .released) : ¬ ∃ x ∈ l, x.state = .isOpen := by
  rintro ⟨x, hx, ho⟩
  rw [h x hx] at ho
  cases ho

theorem stands_of_runs {m : LineMode} (h : m = .run ∨ m = .drain) : ¬ (m = .idle ∨ m = .halt) := by
  rcases h with rfl | rfl <;> decide

/-- Settles O33, by what each diverter's decision sends. -/
theorem divertersDecide : Obligations.DivertersDecide := by
  constructor
  · intro s i t r hi hit hp hr hstage hplace hclear
    have hw : s.Waits .pre t r := ⟨⟨i, hi, hit, hp⟩, hr, hstage, hplace, hclear⟩
    refine ⟨fun hm hreleased hv hc => ?line, fun hm hopen hfree n hn hlow hc => ?shelf, fun h => ?stays⟩
    case line =>
      have hd : DiverterSends .pre s.mode s.holds.shelf (s.vacant .cell = true) r.holds (some .cell) :=
        ⟨fun h => absurd h (stands_of_runs hm),
          fun _ => ⟨fun h => absurd h (not_open hreleased), fun _ => ⟨fun _ => rfl, fun h => absurd hv h⟩⟩⟩
      obtain ⟨u, hu, hdone, ⟨hrec, hengine, hholds⟩, hway⟩ := decision_sends hw hd (fun p h => by cases h; exact hc) nofun
      refine ⟨u, hu, ?_, hrec, hengine, hway⟩
      have hkeptHolds : KeptPart s u .holds := hholds
      have hkept := hdone.narrow (d := [.table, .engine, .clock]) (by simp [hkeptHolds])
      rwa [sentNotices, hstage] at hkept
    case shelf =>
      have hd : DiverterSends .pre s.mode s.holds.shelf (s.vacant .cell = true) r.holds (some (.shelf n)) :=
        ⟨fun h => absurd h (stands_of_runs hm),
          fun _ => ⟨fun _ => .inr ⟨by rwa [List.count_eq_countP], n, hn, hlow, rfl⟩, fun h => absurd hopen h⟩⟩
      obtain ⟨u, hu, hdone, hsent, hway⟩ := decision_sends hw hd (fun p h => by cases h; exact hc) nofun
      refine ⟨u, hu, ?_, sent_shelf hsent hn hway⟩
      have hkeptEngine : KeptPart s u .engine := hsent.2.1
      have hkept := hdone.narrow (d := [.table, .holds, .clock]) (by simp [hkeptEngine])
      rwa [sentNotices, hstage] at hkept
    case stays =>
      have hd : DiverterSends .pre s.mode s.holds.shelf (s.vacant .cell = true) r.holds none := by
        rcases h with ⟨hopen, hfew⟩ | ⟨hreleased, hv⟩ | hm
        · have hfew' : s.holds.shelf.count .free < 2 := by rwa [List.count_eq_countP]
          exact ⟨fun _ => rfl, fun _ => ⟨fun _ => .inl ⟨hfew', rfl⟩, fun h => absurd hopen h⟩⟩
        · exact ⟨fun _ => rfl, fun _ => ⟨fun h => absurd h (not_open hreleased),
            fun _ => ⟨fun h => absurd (h.symm.trans hv) nofun, fun _ => rfl⟩⟩⟩
        · exact ⟨fun _ => rfl, fun h => absurd hm (stands_of_runs h)⟩
      exact ⟨_, congrArg event (decideAt_keeps hw hd), event_happened (Happened.refl s)⟩
  · intro s i t r hi hit hp hr hstage hplace hclear
    have hw : s.Waits .post t r := ⟨⟨i, hi, hit, hp⟩, hr, hstage, hplace, hclear⟩
    refine ⟨fun hm hreleased hc => ?outfeed, fun hm hopen n hn hlow hc => ?shelf, fun h => ?stays⟩
    case outfeed =>
      have hd : DiverterSends .post s.mode s.holds.shelf (s.vacant .cell = true) r.holds (some .outfeed) :=
        ⟨fun h => absurd h hm, fun _ => ⟨fun h => absurd h (not_open hreleased), fun _ => rfl⟩⟩
      obtain ⟨u, hu, hdone, ⟨hrec, hengine, hholds⟩, hway⟩ := decision_sends hw hd (fun p h => by cases h; exact hc) nofun
      have hrecord : sentRecord r (some .outfeed) = { r with place := .arriving } := by
        exact congrArg (fun g => ({ r with stage := g, place := .arriving } : Traveler)) hstage.symm
      rw [hrecord] at hrec
      refine ⟨u, hu, ?_, hrec, hway⟩
      have hkeptEngine : KeptPart s u .engine := hengine
      have hkeptHolds : KeptPart s u .holds := hholds
      have hkept := hdone.narrow (d := [.table, .clock]) (by simp [hkeptEngine, hkeptHolds])
      rwa [sentNotices, hstage] at hkept
    case shelf =>
      have hcount : 1 ≤ s.holds.shelf.count .free := List.one_le_count_iff.2 (mem_of_nth hn)
      have hd : DiverterSends .post s.mode s.holds.shelf (s.vacant .cell = true) r.holds (some (.shelf n)) :=
        ⟨fun h => absurd h hm, fun _ => ⟨fun _ => .inr ⟨hcount, n, hn, hlow, rfl⟩, fun h => absurd hopen h⟩⟩
      obtain ⟨u, hu, hdone, hsent, hway⟩ := decision_sends hw hd (fun p h => by cases h; exact hc) nofun
      refine ⟨u, hu, ?_, sent_shelf hsent hn hway⟩
      have hkeptEngine : KeptPart s u .engine := hsent.2.1
      have hkept := hdone.narrow (d := [.table, .holds, .clock]) (by simp [hkeptEngine])
      rwa [sentNotices, hstage] at hkept
    case stays =>
      have hd : DiverterSends .post s.mode s.holds.shelf (s.vacant .cell = true) r.holds none := by
        rcases h with ⟨hopen, hfull⟩ | hm
        · have hfull' : s.holds.shelf.count .free < 1 := by rw [List.count_eq_countP]; exact Nat.lt_one_iff.2 hfull
          exact ⟨fun _ => rfl, fun _ => ⟨fun _ => .inl ⟨hfull', rfl⟩, fun h => absurd hopen h⟩⟩
        · exact ⟨fun _ => rfl, fun h => absurd hm h⟩
      exact ⟨_, congrArg event (decideAt_keeps hw hd), event_happened (Happened.refl s)⟩

end Sys2Proof.Machine
end

section
/-! PROOF of the family 'other': the move out of the oven (R132; O47), and the rules of raises and record changes that the
oven's commands share. -/

namespace Sys2Proof.Machine

variable {s u v : State} {t : Nat} {r r' : Traveler} {ks : List NoticeKind} {c : List Part}

/-! ### What a stretch keeps -/

theorem Happened.kept (h : Happened s u ks c) (p : Part) (hp : p ∉ c) : KeptPart s u p := h.2.2.2 p hp

theorem Happened.now_eq (h : Happened s u ks c) (hp : Part.clock ∉ c) : u.now = s.now := by
  have hio : u.io = _ := h.kept .clock hp
  rw [State.now, hio]
  rfl

/-- A stretch joined to one of the same parts, the clock not among them. -/
theorem Happened.join {ks' : List NoticeKind} {d : List Part} (h : Happened s v ks c) (h' : Happened v u ks' d)
    (hc : Part.clock ∉ c) (hd : ∀ p ∈ d, p ∈ c) : Happened s u (ks ++ ks') c :=
  h.then (h.now_eq hc) h' fun p hp => (List.mem_append.1 hp).elim id (hd p)

/-- A record rewritten twice. -/
theorem Rewritten.trans {b : TravelerTable} (h : Rewritten s v t r b) (h' : Rewritten v u t r' v.table) :
    Rewritten s u t r' b := by
  obtain ⟨-, hothers, htable⟩ := h
  obtain ⟨hlive, hothers', htable'⟩ := h'
  exact ⟨hlive, fun n hn => (hothers' n hn).trans (hothers n hn), htable'.trans (by rw [htable])⟩

theorem Rewritten.refl (h : s.traveler t = some r) : Rewritten s s t r s.table := ⟨h, fun _ _ => rfl, rfl⟩

theorem Rewritten.of_table {b : TravelerTable} (h : Rewritten s v t r b) (htable : u.table = v.table) : Rewritten s u t r b := by
  obtain ⟨hlive, hothers, hrest⟩ := h
  exact ⟨(traveler_of_table htable t).trans hlive, fun n hn => (traveler_of_table htable n).trans (hothers n hn),
    by rw [htable]; exact hrest⟩

theorem rewritten_setTraveler (r' : Traveler) (h : s.traveler t = some r) : Rewritten s (s.setTraveler t r') t r' s.table :=
  ⟨traveler_setTraveler_same _ h, fun _ hn => traveler_setTraveler_other s _ _ _ hn, rfl⟩

theorem rewritten_onTraveler (f : Traveler → Traveler) (h : s.traveler t = some r) :
    Rewritten s (s.onTraveler t f) t (f r) s.table := by
  rw [onTraveler_live f h]
  exact rewritten_setTraveler _ h

theorem rewritten_moveStage (g : Stage) (p : PlaceState) (h : s.traveler t = some r) :
    Rewritten s (s.moveStage t g p) t { r with stage := g, place := p } s.table := by
  rw [moveStage_live g p h]
  exact rewritten_setTraveler _ h

/-! ### Raises on one board (R149) -/

/-- Between `s` and `v` the raises `hs` were made on board `t` of record `r`, and nothing else. -/
def Raised (s v : State) (t : Nat) (r : Traveler) (hs : List Hold) : Prop :=
  Happened s v (raiseNotices r.tag t r.holds hs) [.table] ∧
    Rewritten s v t { r with holds := holdsAfterRaises r.holds hs } s.table

theorem raised_none (h : s.traveler t = some r) : Raised s s t r [] :=
  ⟨(Happened.refl s).mono (by simp), Rewritten.refl h⟩

theorem raised_one (k : HoldReason) (who : Raiser) (g : Stage) (d : HoldDetail) (h : s.traveler t = some r)
    (hl : s.leaving t = false) (ho : HoldsInOrder r.holds) :
    Raised s (s.raiseHold t k who g (some d)) t r [newHold s s.now k who g d] := by
  obtain ⟨hdone, hafter⟩ := raiseHold_spec k who g d h hl ho
  exact ⟨hdone, rewritten_of_travelers hafter (raiseHold_table ..)⟩

theorem leaving_of_transfers (h : u.table.transfers = s.table.transfers) : u.leaving t = s.leaving t := by
  rw [State.leaving, State.leaving, h]

theorem profileOf_of_recipes (h : u.recipes = s.recipes) (hr : r'.recipe = r.recipe) : u.profileOf r' = s.profileOf r := by
  rw [State.profileOf, State.profileOf, State.recipeOf, State.recipeOf, h, hr]

theorem newHold_of_holds (h : u.holds = s.holds) (stamp : Seconds) (k : HoldReason) (who : Raiser) (g : Stage) (d : HoldDetail) :
    newHold u stamp k who g d = newHold s stamp k who g d := by rw [newHold, newHold, h]

/-! ### The move out of the oven (R132) -/

theorem dropOven_head {c : CureMonitor} {e : OvenEntry} {rest : List OvenEntry} (h : c.oven = e :: rest)
    (hrest : ∀ x ∈ rest, x.traveler ≠ e.traveler) :
    c.dropOven e.traveler = { c with
      oven := rest, rangeLow := (admittedRange rest).1, rangeHigh := (admittedRange rest).2,
      overCured := c.overCured.filter (fun k => k != e.traveler) } := by
  have hfilter : c.oven.filter (fun x => x.traveler != e.traveler) = rest := by
    rw [h, List.filter_cons_of_neg (by simp)]
    exact List.filter_eq_self.2 fun x hx => by simpa using hrest x hx
  unfold CureMonitor.dropOven
  rw [if_pos (by simp [h]), hfilter]

/-- The board out of the oven: PRESENT in OVEN_EXIT, its lead position absent. -/
theorem leaveOven_spec (h : s.traveler t = some r) :
    Happened s (s.leaveOven t) [.boardStage r.tag t r.stage .ovenExit .present] [.table, .cure] ∧
      Rewritten s (s.leaveOven t) t { r with stage := .ovenExit, place := .present, lead := none } s.table ∧
      (s.leaveOven t).cure = { s.cure.dropOven t with exit := (s.cure.dropOven t).exit ++ [t] } := by
  let dropped := s.onCure fun c => { c.dropOven t with exit := (c.dropOven t).exit ++ [t] }
  have hdropped : dropped.traveler t = some r := h
  have hlead := rewritten_onTraveler (fun r => { r with lead := none }) hdropped
  have hmoved := rewritten_moveStage .ovenExit .present hlead.1
  have hdone : Happened s (dropped.onTraveler t fun r => { r with lead := none }) [] [.table, .cure] :=
    ((happened_onCure s _).mono (by simp)).join (happened_onTraveler dropped t _) (by decide) (by decide)
  have hstage := happened_moveStage .ovenExit .present hlead.1
  exact ⟨hdone.join hstage (by decide) (by decide), Rewritten.trans (v := dropped.onTraveler t _) hlead hmoved, by simp [State.leaveOven]⟩

/-- The verdict on the dose of a board that leaves the oven (R132). -/
theorem exitVerdict_spec {e : OvenEntry} {hs : List Hold} (h : s.traveler e.traveler = some r)
    (hl : s.leaving e.traveler = false) (ho : HoldsInOrder r.holds)
    (hverdict : (e.form = .profile ∧ hs = []) ∨ (e.form ≠ .profile ∧ ∃ p, s.profileOf r = some p ∧
      (p.required ≤ r.passDose → hs = []) ∧ (r.passDose < p.required →
        hs = [newHold s s.now .underCure .cureMonitor .ovenExit (.underCure r.passDose p.required)]))) :
    Raised s (s.exitVerdict e) e.traveler r hs := by
  unfold State.exitVerdict
  rw [h]
  dsimp only
  rcases hverdict with ⟨hform, rfl⟩ | ⟨hform, p, hp, hover, hunder⟩
  · split
    · exact raised_none h
    · rw [if_neg (fun hc => hc.1 hform)]
      exact raised_none h
  · rw [hp]
    dsimp only
    by_cases hdose : r.passDose < p.required
    · rw [if_pos ⟨hform, hdose⟩, hunder hdose]
      exact raised_one _ _ _ _ h hl ho
    · rw [if_neg (fun hc => hdose hc.2), hover (Nat.not_lt.1 hdose)]
      exact raised_none h

/-- The end of a stall, outside HALT (R135). -/
theorem endStall_spec (h : s.traveler t = some r) (hm : s.mode ≠ .halt) :
    Happened s (s.endStall t) (if s.cure.stalled then [.ovenResume r.tag t s.cure.setpoint] else []) [.cure] ∧
      (s.endStall t).table = s.table ∧
      (s.endStall t).cure = { s.cure with
        stalled := false, output := if s.cure.stalled then s.cure.setpoint else s.cure.output } := by
  unfold State.endStall
  cases hst : s.cure.stalled
  · rw [if_neg (by decide), if_neg (by decide), if_neg (by decide), ← hst]
    exact ⟨(Happened.refl s).mono (by simp), rfl, rfl⟩
  · rw [if_pos rfl, if_pos rfl, if_pos rfl]
    let driven := (s.onCure fun c => { c with stalled := false }).driveOutput
    have hdriven : driven.cure = { s.cure with stalled := false, output := s.cure.setpoint } := by
      have hout : (if s.mode = .halt ∨ false = true then 0 else s.cure.setpoint) = s.cure.setpoint := if_neg (by simp [hm])
      exact congrArg (fun n => ({ s.cure with stalled := false, output := n } : CureMonitor)) hout
    have htag : driven.tagOf t = r.tag := by
      have hlive : driven.traveler t = some r := h
      rw [State.tagOf, hlive]
    have houtput : driven.cure.output = s.cure.setpoint := by rw [hdriven]
    refine ⟨?_, rfl, hdriven⟩
    have hdone := ((happened_onCure s fun c => { c with stalled := false }).join (happened_driveOutput _) (by decide)
      (by decide)).join (happened_post driven (.ovenResume r.tag t s.cure.setpoint)) (by decide) (by decide)
    rw [← htag, ← houtput] at hdone ⊢
    exact hdone

/-- Settles O47: the board out, its dose judged, the stall ended. -/
theorem ovenExitMoveJudgesDose : Obligations.OvenExitMoveJudgesDose := by
  intro s e rest g r lead hoven hrest hg hr hlead
  have hexec : exec .ovenExitMove s = event (match s.exitMove with | none => s | some e => s.moveOut e) := rfl
  have hend := atOvenEnd_of hoven hg hr hlead
  refine ⟨fun hlen hm hroom hl ho hs hverdict => ?moves, fun hnot => ?stays⟩
  case moves =>
    have hmove : s.exitMove = some e := by
      rw [State.exitMove, hend, if_pos hlen]
      exact if_pos ⟨hm, hroom⟩
    let x : Traveler := { r with stage := .ovenExit, place := .present, lead := none }
    obtain ⟨hleft, hrec1, hcure1⟩ := leaveOven_spec hr
    have hholds : (s.leaveOven e.traveler).holds = s.holds := hleft.kept .holds (by decide)
    have hrecipes : (s.leaveOven e.traveler).recipes = s.recipes := hleft.kept .recipes (by decide)
    have hjudged : Raised (s.leaveOven e.traveler) ((s.leaveOven e.traveler).exitVerdict e) e.traveler x hs := by
      refine exitVerdict_spec (r := x) hrec1.1 ?_ ho ?_
      · exact (leaving_of_transfers (by rw [hrec1.2.2])).trans hl
      · rw [profileOf_of_recipes (r' := x) (r := r) hrecipes rfl]
        simp only [newHold_of_holds hholds, hleft.now_eq (by decide)]
        exact hverdict
    obtain ⟨hraised, hrec2⟩ := hjudged
    have hcure2 : ((s.leaveOven e.traveler).exitVerdict e).cure = (s.leaveOven e.traveler).cure :=
      hraised.kept .cure (by decide)
    have hcure : ((s.leaveOven e.traveler).exitVerdict e).cure = { s.cure with
        exit := s.cure.exit ++ [e.traveler], oven := rest, rangeLow := (admittedRange rest).1,
        rangeHigh := (admittedRange rest).2, overCured := s.cure.overCured.filter (fun k => k != e.traveler) } :=
      hcure2.trans (hcure1.trans (by rw [dropOven_head hoven hrest]))
    have hmode : ((s.leaveOven e.traveler).exitVerdict e).mode ≠ .halt := by
      rw [State.mode, hrec2.2.2, hrec1.2.2]
      exact hm
    obtain ⟨hresumed, htable, hcure3⟩ := endStall_spec hrec2.1 hmode
    rw [hexec, hmove]
    dsimp only
    rw [moveOut_eq]
    obtain ⟨u, hu, hdone⟩ := event_done ((hleft.join hraised (by decide) (by decide)).join hresumed (by decide) (by decide))
    cases hu
    rw [hcure] at hdone hcure3
    exact ⟨_, rfl, hdone, (hrec1.trans hrec2).of_table htable, hcure3⟩
  case stays =>
    have hstays : s.exitMove = none := by
      rw [State.exitMove, hend]
      by_cases hlen : g.length ≤ lead
      · rw [if_pos hlen]
        exact if_neg fun h => hnot.elim (fun h' => absurd hlen (Nat.not_le.2 h')) fun h' =>
          h'.elim h.1 fun h' => absurd h.2 (Nat.not_lt.2 h')
      · rw [if_neg hlen]
    rw [hexec, hstays]
    exact event_done (Happened.refl s)

end Sys2Proof.Machine
end

section
/-! PROOF of the family 'other': the forms of an admission to the oven (R116 to R118; O43). -/

namespace Sys2Proof.Machine

variable {s : State} {t : Nat} {rest : List Nat} {g : OvenGeometry} {r : Traveler} {h : Header}

/-- A stretch joined to one that posts nothing. -/
theorem Happened.quiet {v u : State} {ks : List NoticeKind} {c d : List Part} (h : Happened s v ks c) (h' : Happened v u [] d)
    (hc : Part.clock ∉ c) (hd : ∀ p ∈ d, p ∈ c) : Happened s u ks c := by
  have := h.join h' hc hd
  rwa [List.append_nil] at this

/-! ### When the head of the flash list is admitted (R116, R117) -/

/-- The conditions of R116 on the head of the flash list, all together. -/
theorem admission_eq (hflash : s.cure.flash = t :: rest) (hg : s.cure.geometry = some g) (hr : s.traveler t = some r)
    (hh : (s.recipeOf r).header = some h) :
    s.admission =
      if s.mode ≠ .halt ∧ s.cure.oven.length < Config.ovenCapacity ∧ s.entryClear g = true ∧ s.cure.stopUp = true ∧
          s.occupied .flashEnd = true ∧ ((s.flashTime r).any fun x => decide (s.flashMinimum r ≤ x)) = true then
        (admissionForm (s.profileOf r) (speedRange g h) s.cure.rangeLow s.cure.rangeHigh (s.cure.overdue.contains t)).map
          fun f => { traveler := t, form := f, range := speedRange g h }
      else none := by
  unfold State.admission
  rw [hflash, hg]
  dsimp only
  rw [hr]
  dsimp only
  rw [hh]

/-- What every admission had met (R116). -/
theorem admission_conditions {a : Admission} (ha : s.admission = some a) :
    ∃ t rest g r h, s.cure.flash = t :: rest ∧ s.cure.geometry = some g ∧ s.traveler t = some r ∧
      (s.recipeOf r).header = some h ∧ s.mode ≠ .halt ∧ s.cure.oven.length < 20 ∧ s.entryClear g = true ∧
      s.cure.stopUp = true ∧ s.occupied .flashEnd = true ∧
      ((s.flashTime r).any fun x => decide (s.flashMinimum r ≤ x)) = true := by
  have hsome : ∃ t rest g, s.cure.flash = t :: rest ∧ s.cure.geometry = some g := by
    unfold State.admission at ha
    split at ha
    · rename_i t rest g hflash hg
      exact ⟨t, rest, g, hflash, hg⟩
    · cases ha
  obtain ⟨t, rest, g, hflash, hg⟩ := hsome
  cases hr : s.traveler t with
  | none => simp [State.admission, hflash, hg, hr] at ha
  | some r =>
    cases hh : (s.recipeOf r).header with
    | none => simp [State.admission, hflash, hg, hr, hh] at ha
    | some h =>
      rw [admission_eq hflash hg hr hh] at ha
      split at ha
      · rename_i hall
        exact ⟨t, rest, g, r, h, hflash, hg, hr, hh, hall⟩
      · cases ha

/-- The entry is not clear while the tail board's trailing edge is short of the entry gap (R116). -/
theorem entryClear_short {e : OvenEntry} {lead : Nat} (he : s.cure.oven.getLast? = some e)
    (hr : s.traveler e.traveler = some r) (hh : (s.recipeOf r).header = some h) (hlead : r.lead = some lead)
    (hshort : (lead : Int) - h.length < g.gap) : s.entryClear g = false := by
  unfold State.entryClear
  rw [he]
  dsimp only
  rw [hr]
  dsimp only
  rw [hlead, hh]
  exact decide_eq_false (Int.not_le.2 hshort)

/-! ### The admission carried out (R118) -/

/-- The board in the oven list and in CURE, before I and the setpoint follow. -/
theorem enterOven_spec {a : Admission} {hs : List Hold} (hraised : Raised s (s.raiseForced a.traveler a.form) a.traveler r hs) :
    Happened s (s.enterOven a)
        (raiseNotices r.tag a.traveler r.holds hs ++ [.boardStage r.tag a.traveler r.stage .cure .present]) [.table, .cure] ∧
      Rewritten s (s.enterOven a) a.traveler
        { r with stage := .cure, place := .present, lead := some 0, passDose := 0, forced := a.form != .none,
                 holds := holdsAfterRaises r.holds hs } s.table ∧
      (s.enterOven a).cure = { s.cure with
        flash := s.cure.flash.filter (· != a.traveler), overdue := s.cure.overdue.filter (· != a.traveler),
        overCured := s.cure.overCured.filter (· != a.traveler), stopUp := false,
        oven := s.cure.oven ++ [{ traveler := a.traveler, stamp := s.io.seconds, range := a.range, form := a.form }] } := by
  obtain ⟨hdone, hrec⟩ := hraised
  have hcure : (s.raiseForced a.traveler a.form).cure = s.cure := hdone.kept .cure (by decide)
  have hnow : (s.raiseForced a.traveler a.form).now = s.io.seconds := hdone.now_eq (by decide)
  let entered := (s.raiseForced a.traveler a.form).onCure fun c =>
    { c with flash := c.flash.filter (· != a.traveler), overdue := c.overdue.filter (· != a.traveler),
             overCured := c.overCured.filter (· != a.traveler), stopUp := false,
             oven := c.oven ++ [{ traveler := a.traveler, stamp := (s.raiseForced a.traveler a.form).now,
                                  range := a.range, form := a.form }] }
  have hentered : Rewritten s entered a.traveler { r with holds := holdsAfterRaises r.holds hs } s.table := hrec
  have hfields := rewritten_onTraveler (fun r => { r with lead := some 0, passDose := 0, forced := a.form != .none }) hentered.1
  have hmoved := rewritten_moveStage .cure .present hfields.1
  have hstage := happened_moveStage .cure .present hfields.1
  have hbegun : Happened s (entered.onTraveler a.traveler fun r =>
      { r with lead := some 0, passDose := 0, forced := a.form != .none })
      (raiseNotices r.tag a.traveler r.holds hs) [.table, .cure] :=
    ((hdone.mono (by simp)).quiet (happened_onCure _ _) (by decide) (by decide)).quiet
      (happened_onTraveler entered a.traveler _) (by decide) (by decide)
  have hlists : (s.enterOven a).cure = entered.cure := by simp [State.enterOven, entered]
  refine ⟨hbegun.join hstage (by decide) (by decide), hentered.trans (Rewritten.trans hfields hmoved), hlists.trans ?_⟩
  show ({ (s.raiseForced a.traveler a.form).cure with flash := _, overdue := _, overCured := _, stopUp := _, oven := _ } :
    CureMonitor) = _
  rw [hcure, hnow]

theorem narrow_of_range {c c' : CureMonitor} (hlow : c'.rangeLow = c.rangeLow) (hhigh : c'.rangeHigh = c.rangeHigh)
    (f : ForcedForm) (range : Option (Nat × Nat)) :
    c'.narrow f range =
      { c' with rangeLow := (c.narrow f range).rangeLow, rangeHigh := (c.narrow f range).rangeHigh } := by
  unfold CureMonitor.narrow
  split
  · rw [hlow, hhigh]
  · rw [← hlow, ← hhigh]

/-- An admission carried out, by the I it leaves. -/
theorem admitBoard_spec {a : Admission} {hs : List Hold} {low high : Nat} (hm : s.mode ≠ .halt)
    (hraised : Raised s (s.raiseForced a.traveler a.form) a.traveler r hs)
    (hflash : s.cure.flash = a.traveler :: rest) (hrest : a.traveler ∉ rest)
    (hlow : (s.cure.narrow a.form a.range).rangeLow = low) (hhigh : (s.cure.narrow a.form a.range).rangeHigh = high)
    (hle : low ≤ high) :
    Happened s (s.admitBoard a)
        (raiseNotices r.tag a.traveler r.holds hs ++ [.boardStage r.tag a.traveler r.stage .cure .present] ++
          if s.cure.setpoint = max low (min high s.cure.setpoint) then []
          else [.speedChanged s.cure.setpoint (max low (min high s.cure.setpoint)) .admission]) [.table, .cure] ∧
      (s.admitBoard a).cure = { s.cure with
        flash := rest, overdue := s.cure.overdue.filter (· != a.traveler), stopUp := false,
        oven := s.cure.oven ++ [{ traveler := a.traveler, stamp := s.io.seconds, range := a.range, form := a.form }],
        overCured := s.cure.overCured.filter (· != a.traveler), rangeLow := low, rangeHigh := high,
        setpoint := max low (min high s.cure.setpoint),
        output := if s.cure.stalled then 0 else max low (min high s.cure.setpoint) } ∧
      Rewritten s (s.admitBoard a) a.traveler
        { r with stage := .cure, place := .present, lead := some 0, passDose := 0, forced := a.form != .none,
                 holds := holdsAfterRaises r.holds hs } s.table := by
  obtain ⟨hdone, hrec, hcure⟩ := enterOven_spec hraised
  let narrowed := (s.enterOven a).onCure (·.narrow a.form a.range)
  have hnarrowed : narrowed.cure = { s.cure with
      flash := rest, overdue := s.cure.overdue.filter (· != a.traveler), stopUp := false,
      oven := s.cure.oven ++ [{ traveler := a.traveler, stamp := s.io.seconds, range := a.range, form := a.form }],
      overCured := s.cure.overCured.filter (· != a.traveler), rangeLow := low, rangeHigh := high } := by
    show (s.enterOven a).cure.narrow a.form a.range = _
    rw [hcure]
    refine (narrow_of_range (c := s.cure) ?_ ?_ a.form a.range).trans ?_
    · rfl
    · rfl
    · rw [hlow, hhigh, hflash, List.filter_cons_of_neg (by simp), filter_absent hrest]
  have hspeed : clamp narrowed.cure.rangeLow narrowed.cure.rangeHigh narrowed.cure.setpoint =
      max low (min high s.cure.setpoint) := by
    rw [hnarrowed]
    exact clamp_eq hle _
  have hmode : narrowed.mode ≠ .halt := by
    have : narrowed.table = _ := hrec.2.2
    rw [State.mode, this]
    exact hm
  have hadmit : s.admitBoard a = narrowed.setSpeed (max low (min high s.cure.setpoint)) .admission := by
    rw [← hspeed]
    rfl
  have hsetpoint : narrowed.cure.setpoint = s.cure.setpoint := by rw [hnarrowed]
  have hstalled : narrowed.cure.stalled = s.cure.stalled := by rw [hnarrowed]
  have hset := happened_setSpeed narrowed (max low (min high s.cure.setpoint)) .admission
  have hout := setSpeed_cure narrowed (max low (min high s.cure.setpoint)) .admission
  rw [hsetpoint] at hset
  rw [hstalled, hnarrowed, ite_congr (propext (or_iff_right hmode)) (fun _ => rfl) fun _ => rfl] at hout
  have hbegun : Happened s narrowed (raiseNotices r.tag a.traveler r.holds hs ++
      [.boardStage r.tag a.traveler r.stage .cure .present]) [.table, .cure] :=
    hdone.quiet (happened_onCure _ _) (by decide) (by decide)
  rw [hadmit]
  refine ⟨hbegun.join hset (by decide) (by decide), hout, Rewritten.of_table hrec ?_⟩
  rw [setSpeed_eq]
  dsimp only
  split <;> rfl

/-- Settles O43: the form by the board's profile and range, and the conditions that every admission had met. -/
theorem ovenAdmissionForms : Obligations.OvenAdmissionForms := by
  have hexec (s : State) : exec .ovenAdmission s = event (match s.admission with | none => s | some a => s.admitBoard a) := rfl
  have hwaits {s : State} (h : s.admission = none) : ∃ u, exec .ovenAdmission s = .next u ∧ Happened s u [] [] := by
    rw [hexec, h]
    exact event_done (Happened.refl s)
  refine ⟨fun s t rest g r h o range e hm hflash hrest hg hr hh ho hrange hroom hentry hstop hend he hwaited hne hl horder => ?forms,
    fun s hnot => hwaits ?_⟩
  case forms =>
    intro admitted unverified
    have htime : ((s.flashTime r).any fun x => decide (s.flashMinimum r ≤ x)) = true := by
      rw [State.flashTime, he]
      exact decide_eq_true hwaited
    have hadmission : s.admission =
        (admissionForm o range s.cure.rangeLow s.cure.rangeHigh (s.cure.overdue.contains t)).map
          fun f => { traveler := t, form := f, range := range } := by
      rw [admission_eq hflash hg hr hh, ho, hrange]
      exact if_pos ⟨hm, hroom, hentry, hstop, hend, htime⟩
    have hforced {f : ForcedForm} {hs : List Hold} {low high : Nat}
        (hform : admissionForm o range s.cure.rangeLow s.cure.rangeHigh (s.cure.overdue.contains t) = some f)
        (hraised : Raised s (s.raiseForced t f) t r hs) (hlow : (s.cure.narrow f range).rangeLow = low)
        (hhigh : (s.cure.narrow f range).rangeHigh = high) (hle : low ≤ high) :
        ∃ u, exec .ovenAdmission s = .next u ∧ admitted u f hs low high := by
      rw [hform] at hadmission
      obtain ⟨hdone, hcure, hrec⟩ := admitBoard_spec (a := { traveler := t, form := f, range := range }) hm hraised hflash hrest
        hlow hhigh hle
      obtain ⟨u, hu, hd⟩ := event_done hdone
      rw [hexec, hadmission]
      refine ⟨u, hu, ?_⟩
      cases hu
      exact ⟨hd, hcure, hrec⟩
    refine ⟨fun p a b hp hab hmeet => ?ordinary, fun p a b hp hab hmiss => ⟨fun hover => ?overdue, fun hover => ?waits⟩,
      fun hp => ?profile, fun p hp hab => ?dwell⟩
    all_goals subst hp
    case ordinary =>
      subst hab
      exact hforced (f := .none) (if_pos hmeet) (raised_none hr) rfl rfl (by omega)
    case overdue =>
      subst hab
      have hform : admissionForm (some p) (some (a, b)) s.cure.rangeLow s.cure.rangeHigh (s.cure.overdue.contains t) =
          some .overdue := (if_neg (Nat.not_le.2 hmiss)).trans (if_pos (List.contains_iff_mem.2 hover))
      exact hforced hform (raised_none hr) rfl rfl hne
    case waits =>
      subst hab
      have hform : admissionForm (some p) (some (a, b)) s.cure.rangeLow s.cure.rangeHigh (s.cure.overdue.contains t) = none :=
        (if_neg (Nat.not_le.2 hmiss)).trans (if_neg fun h => hover (List.contains_iff_mem.1 h))
      exact hwaits (hadmission.trans (by rw [hform]; rfl))
    case profile => exact hforced (f := .profile) rfl (raised_one _ _ _ _ hr hl horder) rfl rfl hne
    case dwell =>
      subst hab
      exact hforced (f := .dwell) rfl (raised_one _ _ _ _ hr hl horder) rfl rfl hne
  rw [Option.eq_none_iff_forall_ne_some]
  intro a ha
  obtain ⟨t, rest, g, r, h, hflash, hg, hr, hh, hm, hroom, hclear, hstop, hend, hwaited⟩ := admission_conditions ha
  rcases hnot with hn | hn | hn | hn | hn | hn | ⟨t', r', h', ht', hr', hh', hwait⟩ | ⟨g', e, r', h', lead, hg', he, hr', hh', hlead, hshort⟩
  · exact hm hn
  · omega
  · exact absurd (hn.symm.trans hstop) (by decide)
  · exact absurd (hn.symm.trans hend) (by decide)
  · exact absurd (hn.symm.trans hflash) (by simp)
  · exact absurd (hn.symm.trans hg) (by simp)
  · rw [hflash] at ht'
    cases ht'
    rw [hr] at hr'
    cases hr'
    rw [hh] at hh'
    cases hh'
    rcases hwait with hn | ⟨e, he, hroute, hlt⟩
    · rw [State.flashTime, hn] at hwaited
      cases hwaited
    · rw [State.flashTime, he, State.flashMinimum, if_neg hroute, hh] at hwaited
      exact absurd (of_decide_eq_true hwaited) (Nat.not_le.2 hlt)
  · rw [hg] at hg'
    cases hg'
    exact absurd ((entryClear_short he hr' hh' hlead hshort).symm.trans hclear) (by decide)

end Sys2Proof.Machine
end

section
/-! PROOF of the family 'other': the second tick (R128 to R131, R177; O44). -/

namespace Sys2Proof.Machine

variable {s v : State} {e : OvenEntry} {r mid r' : Traveler} {ks : List NoticeKind} {marked : Bool} {marks : List Nat}

/-- State `v` within the second tick of `s`, the over-cure marks `marks` newly set: the next line second has begun, and
nothing else that a board's accrual reads has changed. -/
structure Ticking (s v : State) (marks : List Nat) : Prop where
  now       : v.now = s.io.seconds + 1
  holds     : v.holds = s.holds
  recipes   : v.recipes = s.recipes
  transfers : v.table.transfers = s.table.transfers
  cure      : v.cure = { s.cure with overCured := s.cure.overCured ++ marks }

namespace Ticking

theorem tickHold_eq (h : Ticking s v marks) (k : HoldReason) (d : HoldDetail) :
    newHold v v.now k .cureMonitor .cure d = tickHold s k d := by
  rw [tickHold, newHold_of_holds h.holds, h.now]

theorem profileOf (h : Ticking s v marks) (r : Traveler) : v.profileOf r = s.profileOf r := profileOf_of_recipes h.recipes rfl

theorem accrual (h : Ticking s v marks) (e : OvenEntry) (r : Traveler) : v.accrual e r = s.accrual e r := by
  unfold State.accrual
  rw [h.profileOf, State.recipeOf, State.recipeOf, h.recipes, h.cure]

/-- A stretch on the records keeps the tick. -/
theorem record (h : Ticking s v marks) {u : State} {t : Nat} (hdone : Happened v u ks [.table]) (hrec : Rewritten v u t r v.table) :
    Ticking s u marks where
  now := (hdone.now_eq (by decide)).trans h.now
  holds := Eq.trans (hdone.kept .holds (by decide)) h.holds
  recipes := Eq.trans (hdone.kept .recipes (by decide)) h.recipes
  transfers := by rw [hrec.2.2]; exact h.transfers
  cure := Eq.trans (hdone.kept .cure (by decide)) h.cure

end Ticking

/-- What an accrual makes of the board of an entry (R128), before its over-cure test. -/
def State.accrued (s : State) (e : OvenEntry) (r : Traveler) : State :=
  match s.accrual e r with
  | .nothing => s
  | .weight w => s.setTraveler e.traveler { r with passDose := addDose r.passDose w, lifeDose := addDose r.lifeDose w }
  | .failedZone k => s.raiseHold e.traveler .cureUnverified .cureMonitor .cure (some (.unverified (.zone k)))

theorem accrue_eq (h : s.traveler e.traveler = some r) : s.accrue e = (s.accrued e r).testOverCure e := by
  unfold State.accrue
  rw [h]
  rfl

/-- The zone under a board's centre is the first whose boundary lies beyond it. -/
theorem firstNth_boundary {bounds : List Nat} {k b : Nat} {c : Int} (hk : nth bounds k = some b) (hb : c < b)
    (hbefore : ∀ j y, 1 ≤ j → j < k → nth bounds j = some y → (y : Int) ≤ c) :
    firstNth (fun b => decide (c < (b : Int))) bounds = some k := by
  rw [bind_pure_comp, List.map_eq_map]
  refine firstNth_some (by rw [nth_map, hk]; rfl) (decide_eq_true hb) fun j y hj hy => ?_
  rw [nth_map] at hj
  obtain ⟨y, hy', rfl⟩ := Option.map_eq_some_iff.1 hj
  by_contra hlt
  exact absurd (of_decide_eq_true hy) (Int.not_lt.2 (hbefore j y (nth_some hy').1 (Nat.not_le.1 hlt) hy'))

section Accrual

variable {g : OvenGeometry} {lead k b : Nat} {hd : Header} {z : Zone}

theorem accrual_outside (hg : s.cure.geometry = some g) (hlead : r.lead = some lead) (hh : (s.recipeOf r).header = some hd)
    (hout : centre lead hd.length < 0 ∨ (g.length : Int) ≤ centre lead hd.length) : s.accrual e r = .nothing := by
  unfold State.accrual
  rw [hg, hlead, hh]
  exact if_pos hout

theorem accrual_zone (hg : s.cure.geometry = some g) (hlead : r.lead = some lead) (hh : (s.recipeOf r).header = some hd)
    (h0 : 0 ≤ centre lead hd.length) (hlt : centre lead hd.length < g.length) (hk : nth g.bounds k = some b)
    (hb : centre lead hd.length < b)
    (hbefore : ∀ j y, 1 ≤ j → j < k → nth g.bounds j = some y → (y : Int) ≤ centre lead hd.length)
    (hz : nth s.cure.zones k = some z) :
    s.accrual e r =
      match z.value with
      | none => .failedZone k
      | some t =>
        if e.form = .profile then .weight 1
        else
          match s.profileOf r with
          | none => .weight 0
          | some p => .weight (Profile.weight p t) := by
  have hin : ¬ (centre lead hd.length < 0 ∨ (g.length : Int) ≤ centre lead hd.length) := by omega
  unfold State.accrual
  rw [hg, hlead, hh]
  dsimp only
  rw [if_neg hin, firstNth_boundary hk hb hbefore]
  dsimp only
  rw [hz] <;> rfl

end Accrual

/-- The accrual carried out. -/
theorem accrued_spec (h : Ticking s v marks) (hr : v.traveler e.traveler = some r) (hl : v.leaving e.traveler = false)
    (ho : HoldsInOrder r.holds) (hx : TickAccrues s e r mid ks) :
    Happened v (v.accrued e r) ks [.table] ∧ Rewritten v (v.accrued e r) e.traveler mid v.table ∧ HoldsInOrder mid.holds := by
  obtain ⟨g, lead, hd, hg, hlead, hh, hcase⟩ := hx
  unfold State.accrued
  rw [h.accrual]
  rcases hcase with ⟨hout, rfl, rfl⟩ | ⟨k, b, z, h0, hlt, hk, hb, hbefore, hz, ⟨hfailed, rfl, rfl⟩ |
    ⟨hgood, temp, w, hlast, hprofile, hweight, rfl, rfl⟩⟩
  · rw [accrual_outside hg hlead hh hout]
    exact ⟨(Happened.refl v).mono (by simp), Rewritten.refl hr, ho⟩
  · have hvalue : z.value = none := if_pos hfailed
    rw [accrual_zone hg hlead hh h0 hlt hk hb hbefore hz, hvalue, ← h.tickHold_eq]
    obtain ⟨hdone, hrec⟩ := raised_one .cureUnverified .cureMonitor .cure (.unverified (.zone k)) hr hl ho
    exact ⟨hdone, hrec, holdsAfterRaise_inOrder _ ho⟩
  · have hvalue : z.value = some temp := (if_neg hgood).trans hlast
    have hw : s.accrual e r = .weight w := by
      rw [accrual_zone hg hlead hh h0 hlt hk hb hbefore hz, hvalue]
      dsimp only
      by_cases hform : e.form = .profile
      · rw [if_pos hform, hprofile hform]
      · obtain ⟨p, hp, hcold, hwarm⟩ := hweight hform
        rw [if_neg hform, hp]
        dsimp only
        unfold Profile.weight
        by_cases ht : temp < p.base
        · rw [if_pos ht, hcold ht]
        · rw [if_neg ht, hwarm (Int.not_lt.1 ht)]
          rfl
    rw [hw]
    exact ⟨happened_setTraveler v _ _, rewritten_setTraveler _ hr, ho⟩

theorem overCured_contains (h : Ticking s v marks) (hnew : e.traveler ∉ marks) :
    v.cure.overCured.contains e.traveler = false ↔ e.traveler ∉ s.cure.overCured := by
  rw [h.cure]
  simp [hnew]

/-- A board whose test finds no new excess (R131). -/
theorem testOverCure_none (h : Ticking s v marks) (hr : v.traveler e.traveler = some r) (hnew : e.traveler ∉ marks)
    (hno : e.form = .profile ∨ e.traveler ∈ s.cure.overCured ∨
      ∃ p, s.profileOf r = some p ∧ r.passDose ≤ p.passMax ∧ r.lifeDose ≤ p.lifeMax) : v.testOverCure e = v := by
  unfold State.testOverCure
  rw [hr]
  dsimp only
  rw [h.profileOf]
  cases hp : s.profileOf r with
  | none => rfl
  | some p =>
    refine if_neg fun ⟨hform, hmark, hdose⟩ => ?_
    rcases hno with hn | hn | ⟨p', hp', hpass, hlife⟩
    · exact hform hn
    · exact (overCured_contains h hnew).1 hmark hn
    · rw [hp] at hp'
      cases hp'
      omega

/-- A board whose pass dose or lifetime dose exceeds its bound for the first time (R131). -/
theorem testOverCure_marks {p : Profile} {bound : DoseBound} (h : Ticking s v marks) (hr : v.traveler e.traveler = some r)
    (hl : v.leaving e.traveler = false) (ho : HoldsInOrder r.holds) (hnew : e.traveler ∉ marks) (hform : e.form ≠ .profile)
    (hmark : e.traveler ∉ s.cure.overCured) (hp : s.profileOf r = some p)
    (hbound : (p.passMax < r.passDose ∧ bound = .pass) ∨
      (r.passDose ≤ p.passMax ∧ p.lifeMax < r.lifeDose ∧ bound = .life)) :
    Happened v (v.testOverCure e)
        (raiseNotices r.tag e.traveler r.holds [tickHold s .overCure (.overCure bound r.passDose r.lifeDose)] ++
          [.overcure r.tag e.traveler r.passDose r.lifeDose bound]) [.table, .cure] ∧
      Rewritten v (v.testOverCure e) e.traveler
        { r with holds := holdsAfterRaise r.holds (tickHold s .overCure (.overCure bound r.passDose r.lifeDose)) } v.table ∧
      Ticking s (v.testOverCure e) (marks ++ [e.traveler]) := by
  let marked := v.onCure fun c => { c with overCured := c.overCured ++ [e.traveler] }
  have htest : v.testOverCure e =
      (marked.raiseHold e.traveler .overCure .cureMonitor .cure (some (.overCure bound r.passDose r.lifeDose))).post
        (.overcure r.tag e.traveler r.passDose r.lifeDose bound) := by
    have hdose : p.passMax < r.passDose ∨ p.lifeMax < r.lifeDose := by omega
    have hword : (if p.passMax < r.passDose then DoseBound.pass else .life) = bound := by
      rcases hbound with ⟨h1, rfl⟩ | ⟨h1, -, rfl⟩
      · exact if_pos h1
      · exact if_neg (Nat.not_lt.2 h1)
    unfold State.testOverCure
    rw [hr]
    dsimp only
    rw [h.profileOf, hp]
    dsimp only
    rw [if_pos ⟨hform, (overCured_contains h hnew).2 hmark, hdose⟩, hword]
  have hcure : marked.cure = { s.cure with overCured := s.cure.overCured ++ (marks ++ [e.traveler]) } := by
    show ({ v.cure with overCured := v.cure.overCured ++ [e.traveler] } : CureMonitor) = _
    rw [h.cure, List.append_assoc]
  have hticking : Ticking s marked (marks ++ [e.traveler]) := { h with cure := hcure }
  obtain ⟨hdone, hrec⟩ := raised_one (s := marked) .overCure .cureMonitor .cure (.overCure bound r.passDose r.lifeDose) hr hl ho
  have hafter := hticking.record hdone hrec
  rw [hticking.tickHold_eq] at hdone hrec
  rw [htest]
  have hposted := (((happened_onCure v _).mono (by simp)).join hdone (by decide) (by decide) (c := [.table, .cure])).join
    (happened_post _ (.overcure r.tag e.traveler r.passDose r.lifeDose bound)) (by decide) (by decide)
  exact ⟨hposted, hrec, { hafter with }⟩

/-- The over-cure test carried out. -/
theorem tested_spec (h : Ticking s v marks) (hr : v.traveler e.traveler = some r) (hl : v.leaving e.traveler = false)
    (ho : HoldsInOrder r.holds) (hnew : e.traveler ∉ marks) (hx : TickTests s e r r' ks marked) :
    Happened v (v.testOverCure e) ks [.table, .cure] ∧ Rewritten v (v.testOverCure e) e.traveler r' v.table ∧
      Ticking s (v.testOverCure e) (marks ++ if marked then [e.traveler] else []) := by
  rcases hx with ⟨hno, rfl, rfl, rfl⟩ | ⟨hform, hmark, p, bound, hp, hbound, rfl, rfl, rfl⟩
  · rw [testOverCure_none h hr hnew hno, if_neg (by decide), List.append_nil]
    exact ⟨(Happened.refl v).mono (by simp), Rewritten.refl hr, h⟩
  · exact testOverCure_marks h hr hl ho hnew hform hmark hp hbound

/-- One board at the second tick. -/
theorem accrue_spec {x : TickOutcome} (h : Ticking s v marks) (hrec : v.traveler e.traveler = s.traveler e.traveler)
    (hnew : e.traveler ∉ marks) (hx : TickGives s e x) :
    Happened v (v.accrue e) x.notices [.table, .cure] ∧ Rewritten v (v.accrue e) e.traveler x.record v.table ∧
      Ticking s (v.accrue e) (marks ++ if x.marked then [e.traveler] else []) := by
  obtain ⟨r, mid, k1, k2, hr, hl, ho, haccrues, htests, hnotices⟩ := hx
  have hr' := hrec.trans hr
  have hl' := (leaving_of_transfers h.transfers).trans hl
  obtain ⟨hdone1, hrec1, ho1⟩ := accrued_spec h hr' hl' ho haccrues
  have h1 := h.record hdone1 hrec1
  have hl1 := (leaving_of_transfers h1.transfers).trans hl
  obtain ⟨hdone2, hrec2, h2⟩ := tested_spec h1 hrec1.1 hl1 ho1 hnew htests
  rw [accrue_eq hr', hnotices]
  exact ⟨(hdone1.mono (by simp)).join hdone2 (by decide) (by decide), hrec1.trans hrec2, h2⟩

/-- The boards newly marked, in the order of the oven list. -/
def newMarks (l : List (OvenEntry × TickOutcome)) : List Nat := (l.filter fun x => x.2.marked).map fun x => x.1.traveler

theorem newMarks_cons (e : OvenEntry) (x : TickOutcome) (l : List (OvenEntry × TickOutcome)) :
    newMarks ((e, x) :: l) = (if x.marked then [e.traveler] else []) ++ newMarks l := by
  unfold newMarks
  rw [List.filter_cons]
  split <;> rfl

/-- The boards of the oven list at the second tick, one after another. -/
theorem accrue_all {l : List OvenEntry} {outcomes : List TickOutcome} (hx : List.Forall₂ (TickGives s) l outcomes) :
    ∀ {v : State} {marks : List Nat}, Ticking s v marks → (l.map (·.traveler)).Nodup →
      (∀ e ∈ l, v.traveler e.traveler = s.traveler e.traveler ∧ e.traveler ∉ marks) →
      Happened v (l.foldl State.accrue v) (outcomes.flatMap (·.notices)) [.table, .cure] ∧
        (∀ e x, (e, x) ∈ l.zip outcomes → (l.foldl State.accrue v).traveler e.traveler = some x.record) ∧
        (∀ n, (∀ e ∈ l, e.traveler ≠ n) → (l.foldl State.accrue v).traveler n = v.traveler n) ∧
        RecordsOnly v (l.foldl State.accrue v) ∧
        Ticking s (l.foldl State.accrue v) (marks ++ newMarks (l.zip outcomes)) := by
  induction hx with
  | nil =>
    intro v marks h _ _
    rw [List.foldl_nil, newMarks, List.zip_nil_left, List.filter_nil, List.map_nil, List.append_nil]
    exact ⟨(Happened.refl v).mono (by simp), fun _ _ h => absurd h List.not_mem_nil, fun _ _ => rfl, RecordsOnly.refl v, h⟩
  | cons hgives hrest ih =>
    rename_i e x l outcomes
    intro v marks h hnodup hsame
    obtain ⟨hfirst, hnodup⟩ := List.nodup_cons.1 hnodup
    obtain ⟨hdone, hrec, h1⟩ := accrue_spec h (hsame e List.mem_cons_self).1 (hsame e List.mem_cons_self).2 hgives
    have hne : ∀ y ∈ l, y.traveler ≠ e.traveler := fun y hy heq =>
      hfirst (List.mem_map.2 ⟨y, hy, heq⟩)
    obtain ⟨hdones, hrecords, hothers, honly, h2⟩ := ih h1 hnodup fun y hy => by
      obtain ⟨hsame1, hnew⟩ := hsame y (List.mem_cons_of_mem _ hy)
      refine ⟨(hrec.2.1 _ (hne y hy)).trans hsame1, fun hmem => ?_⟩
      rcases List.mem_append.1 hmem with hmem | hmem
      · exact hnew hmem
      · split at hmem
        · exact hne y hy (List.mem_singleton.1 hmem)
        · exact absurd hmem List.not_mem_nil
    refine ⟨hdone.join hdones (by decide) (by decide), fun y z hyz => ?_, fun n hn => ?_, RecordsOnly.trans hrec.2.2 honly, ?_⟩
    · rcases List.mem_cons.1 hyz with heq | hyz
      · cases heq
        exact (hothers _ fun y hy => hne y hy).trans hrec.1
      · exact hrecords y z hyz
    · exact (hothers n fun y hy => hn y (List.mem_cons_of_mem _ hy)).trans
        (hrec.2.1 n (hn e List.mem_cons_self).symm)
    · rw [List.zip_cons_cons, newMarks_cons, ← List.append_assoc]
      exact h2

/-- A board's accrual leaves line I/O. -/
theorem accrue_io (s : State) (e : OvenEntry) : (s.accrue e).io = s.io := by
  have htest (v : State) : (v.testOverCure e).io = v.io := by
    unfold State.testOverCure
    split
    · rfl
    split
    · rfl
    split
    · simp
    · rfl
  have haccrued (r : Traveler) : (s.accrued e r).io = s.io := by
    unfold State.accrued
    split
    · rfl
    · rfl
    · simp
  cases hr : s.traveler e.traveler with
  | none => rw [State.accrue, hr]
  | some r => rw [accrue_eq hr, htest, haccrued]

theorem accrueAll_io (l : List OvenEntry) (s : State) : (l.foldl State.accrue s).io = s.io := by
  induction l generalizing s with
  | nil => rfl
  | cons e l ih => exact (ih _).trans (accrue_io s e)

/-- Settles O44: the line second, then the boards one after another. -/
theorem secondTickAccruesDose : Obligations.SecondTickAccruesDose := by
  have hexec (s : State) : exec .secondTick s =
      event ((s.onIo fun io => { io with seconds := io.seconds + 1 }).cure.oven.foldl State.accrue
        (s.onIo fun io => { io with seconds := io.seconds + 1 })) := rfl
  refine ⟨fun s => ?clock, fun s hoven => ?idle, fun s outcomes hnodup hgives => ?boards⟩
  case clock =>
    have hio := accrueAll_io s.cure.oven (s.onIo fun io => { io with seconds := io.seconds + 1 })
    exact ⟨_, hexec s, congrArg (fun io : LineIo => { io with outputs := { io.outputs with
      green := (s.cure.oven.foldl State.accrue (s.onIo fun io => { io with seconds := io.seconds + 1 })).greenLamp,
      amber := (s.cure.oven.foldl State.accrue (s.onIo fun io => { io with seconds := io.seconds + 1 })).amberLamp,
      red := (s.cure.oven.foldl State.accrue (s.onIo fun io => { io with seconds := io.seconds + 1 })).redLamp } }) hio⟩
  case idle =>
    rw [hexec, show (s.onIo fun io => { io with seconds := io.seconds + 1 }).cure.oven = [] from hoven]
    exact ⟨_, rfl, event_happened (happened_onIo s _), rfl⟩
  case boards =>
    have hticking : Ticking s (s.onIo fun io => { io with seconds := io.seconds + 1 }) [] :=
      ⟨rfl, rfl, rfl, rfl, by rw [List.append_nil]; rfl⟩
    obtain ⟨hdone, hrecords, hothers, honly, hafter⟩ :=
      accrue_all hgives hticking hnodup fun e _ => ⟨rfl, List.not_mem_nil⟩
    obtain ⟨hposted, hsettings, hframes, hkept⟩ := event_happened hdone
    rw [hexec]
    exact ⟨_, rfl, hposted, hsettings, hframes, ((happened_onIo s _).2.2.2.trans hkept).mono (by decide),
      congrArg LineIo.seconds (hkept .clock (by decide)), hrecords, hothers, honly, hafter.cure⟩

end Sys2Proof.Machine
end

section
/-! PROOF of the family 'other': the starts of the indexing transfers (R6, R94, R133; O21). -/

namespace Sys2Proof.Machine

variable {s : State} {t : Nat} {r : Traveler} {a d : Place} {parts : List Part}

/-! ### A transfer started on a clear way (R16) -/

theorem leaveSource_io (s : State) (t : Nat) (a : Place) : (s.leaveSource t a).io = s.io := by
  unfold State.leaveSource
  split <;> rfl

theorem expect_io (s : State) (t : Nat) (d : Place) : (s.expect t d).io = s.io := by
  unfold State.expect
  split
  · rfl
  · simp [State.assignSlot]
  · rfl
  · rfl

/-- The way opened and the slot select set, before the stage changes. -/
theorem preMove_way (s : State) (t : Nat) (a d : Place) : OutputsBecome s (s.preMove t a d) (openWay a d s.io.outputs) := by
  have hio : (s.preMove t a d).io = { s.io with outputs :=
      { openWay a d s.io.outputs with slotSelect := slotSelectOf (s.preMove t a d).table.transfers } } := by
    unfold State.preMove State.reselect
    show ({ (State.expect _ t d).io with outputs := { (State.expect _ t d).io.outputs with slotSelect := _ } } : LineIo) = _
    rw [expect_io, leaveSource_io]
    rfl
  rw [OutputsBecome, hio]

/-- A transfer to anywhere but the flash belt, its destination sensor vacant, by what its owners take first. -/
theorem start_begins (hr : s.traveler t = some r) (hq : a = .queue → t ∈ s.table.queue)
    (hn : ∀ e ∈ s.table.transfers, e.traveler ≠ t) (ho : s.occupied d.sensor = false) (hd : d ≠ .flashBelt)
    (hpre : Happened s (s.preMove t a d) [] parts) (htable : Part.table ∈ parts)
    (hrecords : (s.preMove t a d).table.records = s.table.records) :
    Happened s (s.startTransfer t a d) [.boardStage r.tag t r.stage d.stage .arriving] parts ∧
      Rewritten s (s.startTransfer t a d) t { r with stage := d.stage, place := .arriving } (s.preMove t a d).table ∧
      (s.startTransfer t a d).cure = (s.preMove t a d).cure ∧
      OutputsBecome s (s.startTransfer t a d) (openWay a d s.io.outputs) := by
  have hlive : (s.preMove t a d).traveler t = some r := by rw [State.traveler, hrecords]; exact hr
  have hothers (n : Nat) : (s.preMove t a d).traveler n = s.traveler n := by rw [State.traveler, hrecords]; rfl
  have hmoved := rewritten_moveStage d.stage .arriving hlive
  have hway := preMove_way s t a d
  have hnow : (s.preMove t a d).now = s.now := (congrArg LineIo.seconds (hway : (s.preMove t a d).io = _)).trans rfl
  rw [start_waits s t a d hq hn ho, begin_eq s t a d hd]
  refine ⟨hpre.then hnow (happened_moveStage d.stage .arriving hlive) fun p hp => ?_,
    ⟨hmoved.1, fun n hn => (hmoved.2.1 n hn).trans (hothers n), hmoved.2.2⟩, by simp, ?_⟩
  · rcases List.mem_append.1 hp with hp | hp
    · exact hp
    · rwa [List.mem_singleton.1 hp]
  · rw [moveStage_live d.stage .arriving hlive]
    exact hway

/-! ### The flash maxima examined at a start (R111) -/

theorem overdueDue_live : s.overdueDue t = true ↔ ∃ y, s.traveler t = some y ∧ y.stage = .flash ∧ t ∉ s.cure.overdue ∧
    y.route ≠ .reCure ∧ ∃ h e, (s.recipeOf y).header = some h ∧ y.sprayEnd = some e ∧ h.flashMax ≤ (s.io.seconds - e).toNat := by
  cases hy : s.traveler t with
  | none => simp [State.overdueDue, hy]
  | some y =>
    cases hh : (s.recipeOf y).header with
    | none => simp [State.overdueDue, hy, State.flashMaximum, hh]
    | some h =>
      cases he : y.sprayEnd with
      | none => simp [State.overdueDue, hy, State.flashTime, he]
      | some e =>
        rw [overdueDue_iff hy hh he]
        simp [he, hh]

theorem queueReady_none (h : s.mode ≠ .run ∨ s.table.queue = [] ∨ s.vacant .preStation = false) : s.queueReady = none := by
  unfold State.queueReady
  split
  · rfl
  · rename_i t rest hqueue
    refine if_neg fun ⟨hm, _, hv, _⟩ => ?_
    rcases h with h | h | h
    · exact h hm
    · exact absurd (h.symm.trans hqueue) (by simp)
    · exact absurd (h.symm.trans hv) (by decide)

theorem exitReady_none (h : s.mode = .halt ∨ s.cure.exit = [] ∨ s.vacant .postStation = false) : s.exitReady = none := by
  unfold State.exitReady
  split
  · rfl
  · rename_i t rest hexit
    refine if_neg fun ⟨_, hv, _, hm⟩ => ?_
    rcases h with h | h | h
    · exact hm h
    · exact absurd (h.symm.trans hexit) (by simp)
    · exact absurd (h.symm.trans hv) (by decide)

theorem flashReady_none (h : s.mode = .halt ∨ 4 ≤ s.flashCount ∨ s.engine.cell ≠ .done) : s.flashReady = none := by
  unfold State.flashReady
  split
  · rename_i n hcell hboard
    refine if_neg fun ⟨_, _, hm, hroom⟩ => ?_
    rcases h with h | h | h
    · exact hm h
    · exact absurd hroom (Nat.not_lt.2 h)
    · exact h hcell
  · rfl

theorem flashReady_some (hcell : s.engine.cell = .done) (hboard : s.engine.board = some t) (hr : s.traveler t = some r)
    (hstage : r.stage = .spray) (hplace : r.place = .present)
    (hn : ∀ e ∈ s.table.transfers, e.source ≠ .cell ∧ e.dest ≠ .cell ∧ e.traveler ≠ t) (hm : s.mode ≠ .halt)
    (hroom : s.flashCount < 4) : s.flashReady = some t := by
  have hnamed : s.named .cell = false := by
    rw [State.named, List.any_eq_false]
    intro e he
    simp [hn e he]
  rw [State.flashReady, hcell, hboard]
  exact if_pos ⟨by rw [hr]; simp [hstage, hplace], hnamed, hm, hroom⟩

/-- The board on its way to the flash belt, before the flash maxima are examined. -/
theorem flashMoved_spec (hr : s.traveler t = some r) :
    let v := (s.preMove t .cell .flashBelt).moveStage t .flash .arriving
    Happened s v [.boardStage r.tag t r.stage .flash .arriving] [.table, .cure, .clock] ∧
      (∀ k, v.traveler k = if k = t then some { r with stage := .flash, place := .arriving } else s.traveler k) ∧
      v.table = { s.table with
        records := v.table.records, transfers := s.table.transfers ++ [entryFor s t .cell .flashBelt] } ∧
      v.cure = { s.cure with overdue := s.cure.overdue.filter (· != t) } ∧
      OutputsBecome s v { s.io.outputs with cellGate := true } ∧ v.engine = s.engine ∧ v.now = s.now := by
  intro v
  have hlive : (s.preMove t .cell .flashBelt).traveler t = some r := hr
  have hpre : Happened s (s.preMove t .cell .flashBelt) [] [.table, .cure, .clock] :=
    .ofLinks rfl fun p hp => by
      cases p
      case table | cure | clock => exact absurd (by decide) hp
      all_goals rfl
  have hv : v = ((s.preMove t .cell .flashBelt).setTraveler t { r with stage := .flash, place := .arriving }).post
      (.boardStage r.tag t r.stage .flash .arriving) := moveStage_live _ _ hlive
  refine ⟨hpre.then rfl (happened_moveStage .flash .arriving hlive) (by simp), fun k => traveler_moveStage _ _ k hlive, ?_⟩
  rw [hv]
  exact ⟨rfl, rfl, preMove_way s t .cell .flashBelt, rfl, rfl⟩

/-- The outputs after a stretch that leaves line I/O and the transfer list. -/
theorem OutputsBecome.kept {v u : State} {o : Outputs} (h : OutputsBecome s v o) (hclock : KeptPart v u .clock)
    (htransfers : u.table.transfers = v.table.transfers) : OutputsBecome s u o := by
  have hu : u.io = _ := hclock
  have hv : v.io = _ := h
  refine hu.trans ?_
  rw [htransfers, hv]

/-- Every traveler examined, where those of the table are in order and within reach. -/
theorem examineFlash_within (h : ∀ k ∈ List.range' 1 48, s.overdueDue k = true →
    s.leaving k = false ∧ ∀ y, s.traveler k = some y → HoldsInOrder y.holds) :
    MarkedOverdue s s.examineFlash ((List.range' 1 48).filter s.overdueDue) := by
  have hall : s.examineFlash = (List.range' 1 48).foldl State.examineOverdue s := by
    simp only [State.examineFlash, List.range'_eq_map_range, List.foldl_map, Nat.add_comm 1]
    rfl
  rw [hall]
  exact examineAll_spec (List.nodup_range' ..) h

/-- Settles O21: each start by its conditions, the flash maxima by the boards that are late. -/
theorem indexingTransfersStart : Obligations.IndexingTransfersStart := by
  have hqueue (s : State) : exec .queueRelease s = event (match s.queueReady with
    | none => s | some t => (s.startTransfer t .queue .preStation).handArrival .preStation) := rfl
  have hexit (s : State) : exec .exitTransferStart s = event (match s.exitReady with
    | none => s | some t => s.startTransfer t .accumulator .postStation) := rfl
  have hflash (s : State) : exec .flashTransferStart s = event (match s.flashReady with
    | none => s
    | some t =>
      let s := s.startTransfer t .cell .flashBelt
      if s.engine.cell = .vacant then s.handArrival .flashBelt else s) := rfl
  refine ⟨fun s => ⟨fun t rest r hm hlist hrest hr hplace hvacant hnamed hn ho => ?released, fun hnot => ?queueStays⟩, ?flash,
    fun s => ⟨fun t rest r hm hlist hrest hr hplace hvacant hnamed hn ho => ?exits, fun hnot => ?exitStays⟩⟩
  case released =>
    have hready : s.queueReady = some t := by
      rw [State.queueReady, hlist]
      exact if_pos ⟨hm, by rw [hr]; simp [hplace], hvacant, hnamed⟩
    have hmem : t ∈ s.table.queue := by rw [hlist]; exact List.mem_cons_self
    have hpre : Happened s (s.preMove t .queue .preStation) [] [.table, .clock] :=
      .ofLinks rfl fun p hp => by
        cases p
        case table | clock => exact absurd (by decide) hp
        all_goals rfl
    obtain ⟨hdone, hrec, -, hway⟩ := start_begins (d := .preStation) hr (fun _ => hmem) hn ho (by decide) hpre (by decide) rfl
    have hstays : (s.startTransfer t .queue .preStation).handArrival .preStation = s.startTransfer t .queue .preStation := by
      rw [start_waits s t .queue .preStation (fun _ => hmem) hn ho]
      exact decidePre_named (begin_named s t _ _)
    have htable : (s.preMove t .queue .preStation).table = { s.table with
        queue := rest, transfers := s.table.transfers ++ [entryFor s t .queue .preStation] } := by
      have hfilter : s.table.queue.filter (· != t) = rest := by rw [hlist, filter_head hrest]
      rw [← hfilter]
      rfl
    rw [hqueue, hready]
    dsimp only
    rw [hstays]
    rw [htable] at hrec
    exact ⟨_, rfl, event_happened hdone, hrec, outputsBecome_relight hway⟩
  case queueStays =>
    rw [hqueue, queueReady_none hnot]
    exact event_done (Happened.refl s)
  case exits =>
    have hready : s.exitReady = some t := by
      rw [State.exitReady, hlist]
      exact if_pos ⟨by rw [hr]; simp [hplace], hvacant, hnamed, hm⟩
    have hpre : Happened s (s.preMove t .accumulator .postStation) [] [.table, .cure, .clock] :=
      .ofLinks rfl fun p hp => by
        cases p
        case table | cure | clock => exact absurd (by decide) hp
        all_goals rfl
    obtain ⟨hdone, hrec, hcure, hway⟩ := start_begins (a := .accumulator) (d := .postStation) hr nofun hn ho (by decide) hpre (by decide) rfl
    have hleft : (s.preMove t .accumulator .postStation).cure = { s.cure with exit := rest } := by
      have hfilter : s.cure.exit.filter (· != t) = rest := by rw [hlist, filter_head hrest]
      rw [← hfilter]
      rfl
    rw [hexit, hready]
    dsimp only
    exact ⟨_, rfl, event_happened hdone, hrec, hcure.trans hleft, outputsBecome_relight hway⟩
  case exitStays =>
    rw [hexit, exitReady_none hnot]
    exact event_done (Happened.refl s)
  case flash =>
    intro s t r late due time hold moved before notices
    refine ⟨fun hcell hboard hr hstage hplace hn hm hroom ho hsorted hlate horder => ?_, fun hnot => ?_⟩
    · let v := (s.preMove t .cell .flashBelt).moveStage t .flash .arriving
      obtain ⟨hmoved, hbefore, htable, hcure, hway, hengine, hnow⟩ := flashMoved_spec hr
      have hrecipes : v.recipes = s.recipes := hmoved.kept .recipes (by decide)
      have hholds : v.holds = s.holds := hmoved.kept .holds (by decide)
      have hrecord (k : Nat) : v.traveler k = before k := hbefore k
      have hdue (k : Nat) : v.overdueDue k = true ↔ ∃ y, before k = some y ∧ y.stage = .flash ∧
          (k = t ∨ k ∉ s.cure.overdue) ∧ due y := by
        have hrecipe (y : Traveler) : v.recipeOf y = s.recipeOf y := by simp only [State.recipeOf, hrecipes]
        have hseconds : v.io.seconds = s.io.seconds := hnow
        have hmarked : k ∉ v.cure.overdue ↔ k = t ∨ k ∉ s.cure.overdue := by
          rw [hcure]
          simp only [List.mem_filter, bne_iff_ne]
          tauto
        simp only [overdueDue_live, hrecipe, hseconds, hmarked, hrecord]
        rfl
      have hmarks : (List.range' 1 48).filter v.overdueDue = late := by
        refine List.Pairwise.eq_of_mem_iff (List.Pairwise.filter _ (List.pairwise_lt_range' 1)) hsorted fun k => ?_
        rw [List.mem_filter, List.mem_range'_1, hlate, hdue]
        exact ⟨fun ⟨⟨h1, h2⟩, h3⟩ => ⟨h1, Nat.le_of_lt_succ h2, h3⟩, fun ⟨h1, h2, h3⟩ => ⟨⟨h1, Nat.lt_succ_of_le h2⟩, h3⟩⟩
      have hleaving (k : Nat) : v.leaving k = s.leaving k := by
        rw [State.leaving, State.leaving, htable]
        simp [entryFor]
      obtain ⟨hexamined, hcure', htable', hafter⟩ := examineFlash_within (s := v) fun k hrange hk => by
        have hmem : k ∈ late := by rw [← hmarks]; exact List.mem_filter.2 ⟨hrange, hk⟩
        obtain ⟨y, hy, -⟩ := (hdue k).1 hk
        exact ⟨(hleaving k).trans (horder k hmem y hy).2, fun z hz => (horder k hmem z ((hrecord k).symm.trans hz)).1⟩
      rw [hmarks] at hexamined hcure' hafter
      have hholdEq (y : Traveler) : v.overdueHold y = hold y := by
        rw [State.overdueHold, newHold_of_holds hholds, State.flashTime, hnow]
        rfl
      have hnotices : v.overdueNotices = notices := by
        funext k
        rw [State.overdueNotices, hrecord]
        simp only [hholdEq]
        rfl
      rw [hnotices] at hexamined
      simp only [hholdEq, hrecord] at hafter
      have hstart : s.startTransfer t .cell .flashBelt = v.examineFlash := by
        rw [start_waits s t .cell .flashBelt nofun (fun e he => (hn e he).2.2) ho, begin_flash]
      have hcellKept : v.examineFlash.engine.cell ≠ .vacant := by
        have hkept : v.examineFlash.engine = v.engine := hexamined.kept .engine (by decide)
        rw [hkept, hengine, hcell]
        decide
      rw [hflash, flashReady_some hcell hboard hr hstage hplace hn hm hroom]
      dsimp only
      rw [hstart, if_neg hcellKept]
      rw [hstage] at hmoved
      have hdone : Happened s v.examineFlash _ [.table, .cure, .clock] := hmoved.then hnow hexamined (by simp)
      have hlist : v.examineFlash.table = { s.table with
          transfers := s.table.transfers ++ [entryFor s t .cell .flashBelt]
          records := v.examineFlash.table.records } := htable'.trans (by rw [htable])
      have hmark : v.examineFlash.cure = { s.cure with overdue := s.cure.overdue.filter (· != t) ++ late } :=
        hcure'.trans (by rw [hcure])
      have houtputs : OutputsBecome s v.examineFlash { s.io.outputs with cellGate := true } :=
        OutputsBecome.kept hway (hexamined.kept .clock (by decide)) (congrArg TravelerTable.transfers htable' :)
      generalize v.examineFlash = w at hdone hlist hmark houtputs hafter ⊢
      exact ⟨_, rfl, event_happened hdone, hlist, hmark, outputsBecome_relight houtputs, hafter⟩
    · rw [hflash, flashReady_none hnot]
      exact event_done (Happened.refl s)

end Sys2Proof.Machine
end

section
/-! PROOF of the family 'other': the end of a transfer at its sensor (R17; O22), and what a diverter's decision adds to the
stretch before it. -/

namespace Sys2Proof.Machine

variable {s v u : State} {t k : Nat} {r : Traveler} {e : Transfer} {x : Station} {o : Option Place}

/-! ### A decision after an earlier stretch -/

theorem entryFor_of_io (hseconds : v.io.seconds = s.io.seconds) (htimeouts : v.io.timeouts = s.io.timeouts) (t : Nat)
    (a : Place) : entryFor v t a = entryFor s t a := by
  funext d
  simp only [entryFor, hseconds, htimeouts]

/-- A board sent after a stretch that rewrote its record, as sent from the state before it. -/
theorem Sent.over {b : TravelerTable} {shelf : List ShelfSlot} (hrec : Rewritten s v t r b)
    (hsent : Sent v u x t r v.table v.engine v.holds.shelf o) (hseconds : v.io.seconds = s.io.seconds)
    (htimeouts : v.io.timeouts = s.io.timeouts) (hholds : v.holds = { s.holds with shelf := shelf }) :
    Sent s u x t r b v.engine shelf o := by
  obtain ⟨-, hothers, hrest⟩ := hrec
  obtain ⟨⟨hlive, hothers', hrest'⟩, hengine, hshelf⟩ := hsent
  refine ⟨⟨hlive, fun n hn => (hothers' n hn).trans (hothers n hn), hrest'.trans ?_⟩, hengine, hshelf.trans (by rw [hholds])⟩
  rw [hrest, entryFor_of_io hseconds htimeouts]

/-- A way set after a stretch that set the outputs. -/
theorem OutputsBecome.sent {y : Outputs} (h : OutputsBecome s v y) (hway : WaySet v u x o)
    (hnone : o = none → u.table.transfers = v.table.transfers) : OutputsBecome s u (sentOutputs x y o) := by
  cases o with
  | none => exact OutputsBecome.kept h (hway.1 rfl) (hnone rfl)
  | some p =>
    have hu : u.io = _ := hway.2 nofun
    have hv : v.io = _ := h
    refine hu.trans ?_
    rw [hv]
    cases x <;> cases p <;> rfl

theorem Sent.transfers_none (h : Sent s u x t r s.table s.engine s.holds.shelf none) :
    u.table.transfers = s.table.transfers := by
  obtain ⟨⟨-, -, hrest⟩, -, -⟩ := h
  exact (congrArg TravelerTable.transfers hrest).trans (List.append_nil _)

theorem occupied_of_outputs {y : Outputs} (h : OutputsBecome s v y) (x : Sensor) : v.occupied x = s.occupied x := by
  have hv : v.io = _ := h
  rw [State.occupied, State.occupied, hv]

theorem vacant_cell_iff : s.vacant .cell = true ↔
    (∀ n y, s.traveler n = some y → y.stage = .spray → y.place ≠ .present) ∧
      ∀ e ∈ s.table.transfers, e.source ≠ .cell ∧ e.dest ≠ .cell := by
  have hboards : s.presentIn .spray = none ↔ ∀ n y, s.traveler n = some y → y.stage = .spray → y.place ≠ .present := by
    refine ⟨fun h n y hy hstage hplace => presentIn_none h n ⟨y, hy, hstage, hplace⟩, fun h => firstNth_none fun a ha => ?_⟩
    cases a with
    | none => rfl
    | some y =>
      obtain ⟨n, hn⟩ := traveler_of_mem ha
      by_cases hstage : y.stage = .spray
      · simp [h n y hn hstage]
      · simp [hstage]
  have hnamed : s.named .cell = false ↔ ∀ e ∈ s.table.transfers, e.source ≠ .cell ∧ e.dest ≠ .cell := by
    simp [State.named]
  rw [State.vacant, Bool.and_eq_true, Bool.not_eq_true', Option.isNone_iff_eq_none, hnamed]
  exact and_congr_left fun _ => hboards

/-- The cell vacant or not after a stretch that rewrote a board's record out of the spray cell. -/
theorem vacant_cell_after {l : List Transfer} (h : Rewritten s v t r { s.table with transfers := l }) (hr : r.stage ≠ .spray) :
    v.vacant .cell = true ↔ (∀ n y, n ≠ t → s.traveler n = some y → y.stage = .spray → y.place ≠ .present) ∧
      ∀ e ∈ l, e.source ≠ .cell ∧ e.dest ≠ .cell := by
  obtain ⟨hlive, hothers, hrest⟩ := h
  have htransfers : v.table.transfers = l := congrArg TravelerTable.transfers hrest
  rw [vacant_cell_iff, htransfers]
  refine and_congr_left fun _ => ⟨fun h n y hn hy => h n y ((hothers n hn).trans hy), fun h n y hy hstage => ?_⟩
  by_cases hn : n = t
  · subst hn
    rw [hlive] at hy
    cases hy
    exact absurd hstage hr
  · exact h n y hn ((hothers n hn).symm.trans hy) hstage

/-- A decision for a board that waits after a stretch that set the outputs. -/
theorem decided_after {ks : List NoticeKind} {c : List Part} {y : Outputs} (hdone : Happened s v ks c) (hnow : v.now = s.now)
    (hout : OutputsBecome s v y) (hw : v.Waits x k r)
    (hd : DiverterSends x v.mode v.holds.shelf (v.vacant .cell = true) r.holds o) (hc : s.WayClear o) :
    Happened s (v.decideAt x) (ks ++ sentNotices r k o) (c ++ [.table, .engine, .holds, .clock]) ∧
      Sent v (v.decideAt x) x k r v.table v.engine v.holds.shelf o ∧
      OutputsBecome s (v.decideAt x) (sentOutputs x y o) ∧ (v.decideAt x).mask = v.mask ∧ (v.decideAt x).cure = v.cure := by
  obtain ⟨hdecided, hsent, hway⟩ := decideAt_sends hw hd fun p hp => (occupied_of_outputs hout _).trans (hc p hp)
  exact ⟨hdone.trans hnow hdecided, hsent, OutputsBecome.sent hout hway fun hnone => Sent.transfers_none (hnone ▸ hsent),
    hdecided.kept .mask (by decide), hdecided.kept .cure (by decide)⟩

/-! ### The board received at its destination (R17) -/

/-- The mask unit once a transfer from `a` has ended: the record of that station removed (R75, R144). -/
def leftMask (m : MaskUnit) : Place → MaskUnit
  | .preStation => { m with pre := none }
  | .postStation => { m with post := none }
  | _ => m

/-- The shelf slots once a board has reached its destination (R155). -/
def receivedShelf (l : List ShelfSlot) (t : Nat) : Place → List ShelfSlot
  | .shelf n => putNth l n (.resting t)
  | _ => l

/-- The spray cell once a board has reached its destination (R77, R110). -/
def receivedEngine (e : StrokeEngine) (t : Nat) : Place → StrokeEngine
  | .cell => { e with cell := .ready, board := some t }
  | .flashBelt => e.vacate
  | _ => e

/-- The cure monitor once a board has reached its destination (R110). -/
def receivedCure (c : CureMonitor) (t : Nat) : Place → CureMonitor
  | .flashBelt => { c with flash := c.flash ++ [t] }
  | _ => c

theorem happened_leaveStation (s : State) (a : Place) : Happened s (s.leaveStation a) [] [.mask] := by
  cases a
  case preStation | postStation => exact happened_onMask s _
  all_goals exact (Happened.refl s).mono (by simp)

theorem happened_receive (s : State) (t : Nat) (d : Place) : Happened s (s.receive t d) [] [.engine, .cure, .holds] := by
  cases d
  case cell => exact (happened_onEngine s _).mono (by simp)
  case flashBelt =>
    have hcure : Happened s _ [] [.engine, .cure, .holds] := (happened_onCure s fun c => { c with flash := c.flash ++ [t] }).mono (by simp)
    exact hcure.join (happened_onEngine _ _) (by simp) (by simp)
  case shelf => exact (happened_onHolds s _).mono (by simp)
  all_goals exact (Happened.refl s).mono (by simp)

/-- A board settled anywhere but at the outfeed. -/
theorem settle_spec (hr : s.traveler e.traveler = some r) (hd : e.dest ≠ .outfeed) :
    Happened s (s.settle e) [.boardStage r.tag e.traveler r.stage e.dest.stage .present] [.table, .mask, .engine, .cure, .holds] ∧
      Rewritten s (s.settle e) e.traveler { r with stage := e.dest.stage, place := .present } s.table ∧
      (s.settle e).mask = leftMask s.mask e.source ∧ (s.settle e).engine = receivedEngine s.engine e.traveler e.dest ∧
      (s.settle e).cure = receivedCure s.cure e.traveler e.dest ∧
      (s.settle e).holds = { s.holds with shelf := receivedShelf s.holds.shelf e.traveler e.dest } := by
  rw [settle_inside hd]
  have hmoved := happened_moveStage e.dest.stage .present hr
  have hleft := happened_leaveStation (s.moveStage e.traveler e.dest.stage .present) e.source
  have hreceived := happened_receive ((s.moveStage e.traveler e.dest.stage .present).leaveStation e.source) e.traveler e.dest
  refine ⟨?_, Rewritten.of_table (rewritten_moveStage _ _ hr) ((receive_table _ _ _).trans (leaveStation_table _ _)), ?_, ?_, ?_, ?_⟩
  · exact ((hmoved.mono (by simp)).quiet (hleft.mono (by simp)) (by simp) (fun _ h => h)).quiet hreceived (by simp) (by simp)
  · rw [moveStage_live _ _ hr]
    cases e.source <;> cases e.dest <;> rfl
  · rw [moveStage_live _ _ hr]
    cases e.source <;> cases e.dest <;> rfl
  · rw [moveStage_live _ _ hr]
    cases e.source <;> cases e.dest <;> rfl
  · rw [moveStage_live _ _ hr]
    cases e.source <;> cases e.dest <;> rfl

/-- An inspection opened (R56, R137). -/
theorem openInspection_opens (hr : s.traveler t = some r) (h : ¬(x = .pre ∧ r.route = .reCure)) :
    s.openInspection x t = (s.setRecord x (some
      { traveler := t, phase := .isOpen, opened := s.now, deadline := some (deadlineIn s.now (s.inspectTimeout x)) })).post
      (.inspectReady x r.tag t r.recipe r.route (s.inspectTimeout x)
        (if x = .pre then (s.recipeOf r).sites else []) (if x = .post then (s.recipeOf r).windows else [])) := by
  unfold State.openInspection
  rw [hr]
  exact if_neg h

/-- An inspection opened after a stretch that moved the board there. -/
theorem openInspection_after {g : Stage} {p : PlaceState} (hlive : v.traveler t = some { r with stage := g, place := p })
    (hnow : v.now = s.now) (htimeouts : v.io.timeouts = s.io.timeouts) (hrecipes : v.recipes = s.recipes)
    (h : ¬(x = .pre ∧ r.route = .reCure)) :
    v.openInspection x t = (v.setRecord x (some
      { traveler := t, phase := .isOpen, opened := s.now, deadline := some (deadlineIn s.now (s.inspectTimeout x)) })).post
      (.inspectReady x r.tag t r.recipe r.route (s.inspectTimeout x)
        (if x = .pre then (s.recipeOf r).sites else []) (if x = .post then (s.recipeOf r).windows else [])) := by
  have htimeout : v.inspectTimeout x = s.inspectTimeout x := by cases x <;> simp only [State.inspectTimeout, htimeouts]
  have hrecipe (y : Traveler) : v.recipeOf y = s.recipeOf y := by simp only [State.recipeOf, hrecipes]
  rw [openInspection_opens hlive h, hnow, htimeout, hrecipe]
  rfl

/-- A RE_CURE board passes the pre-inspection station (R57). -/
theorem openInspection_passes (hr : s.traveler t = some r) (h : r.route = .reCure) :
    s.openInspection .pre t =
      s.setRecord .pre (some { traveler := t, phase := .ended .passed, opened := s.now, deadline := none }) := by
  unfold State.openInspection
  rw [hr]
  exact if_pos ⟨rfl, h⟩

/-- The record of a station set and a notice posted. -/
theorem happened_setRecord_post (s : State) (x : Station) (i : Option Inspection) (n : NoticeKind) :
    Happened s ((s.setRecord x i).post n) [n] [.mask] :=
  (happened_onMask s _).then rfl (happened_post _ n) (by simp)

/-- A retirement, with every part it changes (R19). -/
theorem retired_spec (out : RetireOutcome) (hr : s.traveler t = some r) :
    Happened s (s.retire t out) [.boardRetired r.tag t out] [.table, .recipes, .mask, .engine, .cure, .holds, .clock] ∧
      Retired s (s.retire t out) t r s.table ∧
      (s.retire t out).engine = (if s.engine.board = some t then s.engine.vacate else s.engine) ∧
      (s.retire t out).cure = { s.cure.dropOven t with
        flash := (s.cure.dropOven t).flash.filter (· != t), overdue := (s.cure.dropOven t).overdue.filter (· != t),
        exit := (s.cure.dropOven t).exit.filter (· != t) } ∧
      (s.retire t out).holds = { s.holds with shelf := freeSlotsOf t s.holds.shelf } ∧
      OutputsBecome s (s.retire t out) s.io.outputs := by
  obtain ⟨hdead, -, -, -, hothers⟩ := retire_live out hr
  obtain ⟨hengine, hcure, -⟩ := retire_fields s out hr
  have hmask : (s.retire t out).mask =
      { pre := s.mask.pre.filter (·.traveler != t), post := s.mask.post.filter (·.traveler != t) } := by
    unfold State.retire
    rw [hr]
    rfl
  obtain ⟨hposted, hsettings, hframes, -⟩ := happened_post s (.boardRetired r.tag t out)
  refine ⟨?_, ⟨hdead, hothers, retire_table_rest out hr, fun x hx => ?_, fun x => ?_⟩, hengine, hcure, ?_⟩
  · unfold State.retire
    rw [hr]
    refine ⟨hposted, hsettings, hframes, fun p hp => ?_⟩
    cases p
    case pending | lots => rfl
    all_goals exact absurd (by decide) hp
  · have hrecipes := retire_slot out hr hx
    exact ⟨(congrArg (fun m => nth (RecipeStore.slots m) r.recipe) hrecipes).trans (nth_putNth_live _ hx),
      fun k hk => (congrArg (fun m => nth (RecipeStore.slots m) k) hrecipes).trans (nth_putNth_other _ _ _ _ hk),
      (congrArg RecipeStore.profiles hrecipes :)⟩
  · have hrecord : (s.retire t out).record x = (s.record x).filter (·.traveler != t) := by
      rw [State.record, hmask]
      cases x <;> rfl
    rw [hrecord]
    refine ⟨fun ⟨i, hi, hit⟩ => ?_, fun i hi hit => ?_, fun h => ?_⟩
    · simp [hi, hit, Option.filter]
    · simp [hi, hit, Option.filter]
    · simp [h]
  · unfold State.retire
    rw [hr]
    exact ⟨rfl, rfl⟩

theorem freeSlotsOf_absent {l : List ShelfSlot} (ha : .assigned t ∉ l) (hr : .resting t ∉ l) : freeSlotsOf t l = l := by
  refine (List.map_congr_left fun x hx => if_neg ?_).trans (List.map_id l)
  rintro (rfl | rfl)
  · exact ha hx
  · exact hr hx

/-- Outputs set and then kept. -/
theorem OutputsBecome.over {y : Outputs} (h : OutputsBecome s v y) (h' : OutputsBecome v u v.io.outputs) :
    OutputsBecome s u y := by
  have hv : v.io = _ := h
  have hu : u.io = _ := h'
  refine hu.trans ?_
  rw [hv]

/-! ### The end of a transfer -/

/-- The way of a transfer closed and its entry removed. -/
theorem closed_spec (s : State) (a : Place) (t : Nat) :
    let v := (s.onOutputs (closeWay a)).removeTransfer t
    Happened s v [] [.table, .clock] ∧ v.table = { s.table with transfers := s.table.transfers.filter fun x => x.traveler != t } ∧
      OutputsBecome s v (closeWay a s.io.outputs) := by
  refine ⟨.ofLinks rfl fun p hp => ?_, rfl, rfl⟩
  cases p
  case table | clock => exact absurd (by decide) hp
  all_goals rfl

/-- The transfer ended and its board settled, before its inspection opens. -/
theorem arrived_spec (hr : s.traveler e.traveler = some r) (hd : e.dest ≠ .outfeed) :
    let v := ((s.onOutputs (closeWay e.source)).removeTransfer e.traveler).settle e
    Happened s v [.boardStage r.tag e.traveler r.stage e.dest.stage .present] [.table, .mask, .engine, .cure, .holds, .clock] ∧
      Rewritten s v e.traveler { r with stage := e.dest.stage, place := .present }
        { s.table with transfers := s.table.transfers.filter fun x => x.traveler != e.traveler } ∧
      v.mask = leftMask s.mask e.source ∧ v.engine = receivedEngine s.engine e.traveler e.dest ∧
      v.cure = receivedCure s.cure e.traveler e.dest ∧
      v.holds = { s.holds with shelf := receivedShelf s.holds.shelf e.traveler e.dest } ∧
      OutputsBecome s v (closeWay e.source s.io.outputs) := by
  intro v
  obtain ⟨hclosed, htable, hway⟩ := closed_spec s e.source e.traveler
  obtain ⟨hdone, ⟨hlive, hothers, hrest⟩, hmask, hengine, hcure, hholds⟩ :=
    settle_spec (s := (s.onOutputs (closeWay e.source)).removeTransfer e.traveler) (e := e) (r := r) hr hd
  refine ⟨hclosed.then rfl hdone (by simp), ⟨hlive, hothers, hrest⟩, hmask, hengine, hcure, hholds,
    OutputsBecome.kept hway (hdone.kept .clock (by decide)) ?_⟩
  exact (congrArg TravelerTable.transfers hrest :)

theorem transferEnd_ends (he : s.transferOf t = some e) (hm : s.mode ≠ .halt) (ho : s.occupied e.dest.sensor = true) :
    exec (.transferEnd t) s = event ((s.finishTransfer e).handArrival e.dest) := by
  have hends : s.transferEnds t = some e := by
    unfold State.transferEnds
    rw [he]
    exact if_pos (by simp [ho, hm])
  have hexec : exec (.transferEnd t) s =
      event (match s.transferEnds t with | none => s | some e => (s.finishTransfer e).handArrival e.dest) := rfl
  rw [hexec, hends]

theorem transferEnd_waits (he : s.transferOf t = some e) (h : s.mode = .halt ∨ s.occupied e.dest.sensor = false) :
    exec (.transferEnd t) s = event s := by
  have hnone : s.transferEnds t = none := by
    unfold State.transferEnds
    rw [he]
    exact if_neg (by rcases h with h | h <;> simp [h])
  have hexec : exec (.transferEnd t) s =
      event (match s.transferEnds t with | none => s | some e => (s.finishTransfer e).handArrival e.dest) := rfl
  rw [hexec, hnone]

theorem transferOf_traveler (he : s.transferOf t = some e) : e.traveler = t := by
  simpa using List.find?_some he

theorem decidePre_idle (h : s.mode = .idle ∨ s.mode = .halt) : s.decidePre = s := by
  have hm : ¬(s.mode = .run ∨ s.mode = .drain) := by rcases h with h | h <;> simp [h]
  have hnone : s.preDecision = none := if_neg hm
  rw [State.decidePre, hnone]

/-- Settles O22: the board settled, then what its owner and the pre diverter make of it. -/
theorem transferEndsAtSensor : Obligations.TransferEndsAtSensor := by
  intro s t e r he hr
  obtain rfl := transferOf_traveler he
  refine ⟨fun h => ?stays, fun hm ho => ?ends⟩
  case stays =>
    rw [transferEnd_waits he h]
    exact event_done (Happened.refl s)
  case ends =>
    intro list left openAt here moved ways parts arrived vacated flashed cellVacant
    have hleft : leftMask s.mask e.source = left := by
      dsimp only [left]
      cases e.source <;> rfl
    have hexec := transferEnd_ends he hm ho
    let v := ((s.onOutputs (closeWay e.source)).removeTransfer e.traveler).settle e
    have hfinish : s.finishTransfer e = v.inspectAt e.traveler e.dest := rfl
    rw [hfinish] at hexec
    have hio (hd : e.dest ≠ .outfeed) : OutputsBecome s v ways := (arrived_spec hr hd).2.2.2.2.2.2
    have hnow (hd : e.dest ≠ .outfeed) : v.now = s.now := by
      have hv : v.io = _ := hio hd
      rw [State.now, hv]
      rfl
    have htimeouts (hd : e.dest ≠ .outfeed) : v.io.timeouts = s.io.timeouts := by
      have hv : v.io = _ := hio hd
      rw [hv]
    have hrecipes (hd : e.dest ≠ .outfeed) : v.recipes = s.recipes := (arrived_spec hr hd).1.kept .recipes (by decide)
    have inspected (x : Station) (hd : e.dest = stationPlace x) (hroute : ¬(x = .pre ∧ r.route = .reCure)) :
        arrived [.inspectReady x r.tag e.traveler r.recipe r.route (s.inspectTimeout x)
            (if x = .pre then (s.recipeOf r).sites else []) (if x = .post then (s.recipeOf r).windows else [])]
          (left.setRecord x (some (openAt (s.inspectTimeout x)))) s.engine s.cure s.holds.shelf := by
      have hinside : e.dest ≠ .outfeed := by rw [hd]; cases x <;> exact nofun
      obtain ⟨hdone, hrec, hmask, hengine, hcure, hholds, hout⟩ := arrived_spec hr hinside
      have hopens := openInspection_after (s := s) (x := x) hrec.1 (hnow hinside) (htimeouts hinside) (hrecipes hinside) hroute
      have hrests (i : Inspection) (n : NoticeKind) (hi : i.phase = .isOpen) :
          ((v.setRecord x (some i)).post n).handArrival (stationPlace x) = (v.setRecord x (some i)).post n := by
        cases x with
        | pre => exact decideAt_rests (x := .pre) (.inr (.inl ⟨i, rfl, hi⟩))
        | post => rfl
      have harrives : (v.inspectAt e.traveler e.dest).handArrival e.dest =
          (v.openInspection x e.traveler).handArrival (stationPlace x) := by rw [hd]; cases x <;> rfl
      rw [hopens, hrests _ _ rfl] at harrives
      exact ⟨_, hexec.trans (congrArg event harrives),
        event_happened (hdone.then (hnow hinside) (happened_setRecord_post v _ _ _) (by simp [parts])), hrec,
        congrArg (fun m : MaskUnit => m.setRecord x (some (openAt (s.inspectTimeout x)))) (hmask.trans hleft),
        hengine.trans (by rw [hd]; cases x <;> rfl), hcure.trans (by rw [hd]; cases x <;> rfl),
        hholds.trans (by rw [hd]; cases x <;> rfl), outputsBecome_relight hout⟩
    refine ⟨fun hd => ?toCell, fun n hd => ?toShelf, fun hd => ?toPost, fun hd hroute => ?toPre,
      fun hd hroute hclear o hsends hway => ?passed, fun hd hsource hrests => ?toFlash,
      fun hd hsource k y o hk hwaits hsends hway => ?vacated, fun hd => ?toOutfeed⟩
    case toPost => exact inspected .post hd (by simp)
    case toPre => exact inspected .pre hd (by simpa using hroute)
    case toOutfeed =>
      obtain ⟨hclosed, htable, hway⟩ := closed_spec s e.source e.traveler
      let w := (s.onOutputs (closeWay e.source)).removeTransfer e.traveler
      have hlive : w.traveler e.traveler = some r := hr
      obtain ⟨hdone, ⟨hdead, hothers, hrest, hslot, hrecord⟩, hengine, hcure, hholds, hout⟩ := retired_spec .departed hlive
      have hsettled : (v.inspectAt e.traveler e.dest).handArrival e.dest = w.retire e.traveler .departed := by
        rw [hd]
        exact if_pos hd
      refine ⟨_, hexec.trans (congrArg event hsettled), event_happened (hclosed.then rfl hdone (by simp [parts])),
        ⟨hdead, hothers, ?_, hslot, hrecord⟩, fun hboard => hengine.trans (if_neg hboard), fun h1 h2 h3 h4 => ?_,
        (congrArg HoldManager.levels hholds :), fun ha hrests => ?_, outputsBecome_relight ?_⟩
      · refine hrest.trans ?_
        rw [htable]
        simp
      · exact retire_cure_away .departed hlive h1 h2 h3 h4
      · exact hholds.trans (congrArg (HoldManager.mk s.holds.levels) (freeSlotsOf_absent ha hrests))
      · exact OutputsBecome.over hway hout
    all_goals
      have hinside : e.dest ≠ .outfeed := by rw [hd]; exact nofun
      obtain ⟨hdone, hrec, hmask, hengine, hcure, hholds, hout⟩ := arrived_spec hr hinside
      rw [hd] at hexec hdone hrec hengine hcure hholds
      rw [hleft] at hmask
      dsimp only [here, moved, arrived]
      rw [hd]
    case toCell => 
      exact ⟨_, hexec, event_happened hdone, hrec, hmask, hengine, hcure, hholds, outputsBecome_relight hout⟩
    case toShelf =>
      exact ⟨_, hexec, event_happened hdone, hrec, hmask, hengine, hcure, hholds, outputsBecome_relight hout⟩
    case passed =>
      let w := v.setRecord .pre (some { openAt 0 with phase := .ended .passed, deadline := none })
      have hrest := hrec.2.2
      have htransfers : w.table.transfers = list := congrArg TravelerTable.transfers hrest
      have hpasses : v.openInspection .pre e.traveler = w := by
        refine (openInspection_passes (s := v) hrec.1 hroute).trans ?_
        rw [hnow hinside]
        rfl
      have hmode : w.mode = s.mode := (congrArg TravelerTable.mode hrest :)
      have hwaits : w.Waits .pre e.traveler { r with stage := .preInspect, place := .present } := by
        refine ⟨⟨_, rfl, rfl, nofun⟩, hrec.1, rfl, rfl, fun x hx => ?_⟩
        rw [htransfers] at hx
        obtain ⟨hsrc, hdst⟩ := hclear x hx
        exact ⟨hsrc, hdst, by simpa using (List.mem_filter.1 hx).2⟩
      have hvacant : (w.vacant .cell = true) = cellVacant := propext (vacant_cell_after (v := w) hrec nofun)
      have hfilled : Happened s w _ parts := hdone.then (hnow hinside) (happened_onMask v _) (by simp [parts])
      have hshelf : w.holds.shelf = s.holds.shelf := congrArg HoldManager.shelf hholds
      obtain ⟨hu, hsent, hways, hmask', hcure'⟩ := decided_after (v := w) (o := o) hfilled (hnow hinside) hout hwaits
        (by rw [hmode, hshelf, hvacant]; exact hsends) hway
      have harrives : (v.openInspection .pre e.traveler).decidePre = w.decideAt .pre := by rw [hpasses]; rfl
      have hsent' := Sent.over (v := w) hrec hsent (hnow hinside) (htimeouts hinside) hholds
      have hengine' : w.engine = s.engine := hengine
      rw [hengine'] at hsent'
      exact ⟨_, hexec.trans (congrArg event harrives), event_happened (hu.mono (by simp [parts])), hsent',
        hmask'.trans (congrArg (fun m : MaskUnit => m.setRecord .pre (some _)) hmask), hcure'.trans hcure, outputsBecome_relight hways⟩
    all_goals
      have hkept : v.mask = s.mask := hmask.trans (by rw [← hleft, hsource]; rfl)
      have hrest := hrec.2.2
      have hmode : v.mode = s.mode := (congrArg TravelerTable.mode hrest :)
      have htransfers : v.table.transfers = list := congrArg TravelerTable.transfers hrest
    case toFlash =>
      have hstays : v.decidePre = v := by
        rcases hrests with hidle | hnone | ⟨i, hi, hopen⟩ | ⟨x, hx, hnames⟩
        · exact decidePre_idle (.inl (hmode.trans hidle))
        · exact decideAt_rests (x := .pre) (.inl ((congrArg MaskUnit.pre hkept).trans hnone))
        · exact decideAt_rests (x := .pre) (.inr (.inl ⟨i, (congrArg MaskUnit.pre hkept).trans hi, hopen⟩))
        · exact decideAt_rests (x := .pre) (.inr (.inr ⟨x, by rw [htransfers]; exact hx, hnames⟩))
      exact ⟨_, hexec.trans (congrArg event hstays), event_happened hdone, hrec, hkept, hengine, hcure, hholds,
        outputsBecome_relight hout⟩
    case vacated =>
      obtain ⟨⟨i, hi, hit, hp⟩, hlive, hstage, hplace, hclear⟩ := hwaits
      have hhere := hrec.1
      have hothers := hrec.2.1
      have hwaits' : v.Waits .pre k y :=
        ⟨⟨i, (congrArg MaskUnit.pre hkept).trans hi, hit, hp⟩, (hothers k hk).trans hlive, hstage, hplace, fun x hx => by
          rw [htransfers] at hx
          exact hclear x (List.mem_filter.1 hx).1⟩
      have hvacant : (v.vacant .cell = true) = cellVacant := propext (vacant_cell_after hrec nofun)
      have hshelf : v.holds.shelf = s.holds.shelf := congrArg HoldManager.shelf hholds
      obtain ⟨hu, ⟨⟨hsent, hsentOthers, hsentRest⟩, hsentEngine, hsentHolds⟩, hways, hmask', hcure'⟩ := decided_after (v := v) (o := o)
        hdone (hnow hinside) hout hwaits' (by rw [hmode, hshelf, hvacant]; exact hsends) hway
      have hentries : entryFor v k .preStation = entryFor s k .preStation := entryFor_of_io (hnow hinside) (htimeouts hinside) _ _
      refine ⟨_, hexec, event_happened (hu.mono (by simp [parts])), (hsentOthers _ (Ne.symm hk)).trans hhere, hsent,
        fun n hn hnk => (hsentOthers n hnk).trans (hothers n hn), ?_, hmask'.trans hkept, hsentEngine.trans (by rw [hengine]; rfl),
        hcure'.trans hcure, hsentHolds.trans (by rw [hholds]; rfl), outputsBecome_relight hways⟩
      refine hsentRest.trans ?_
      rw [hrest, stationPlace, hentries]
      rfl

end Sys2Proof.Machine
end

section
/-! PROOF of the family 'other': Start and Drain (R8, R9, R74; O15). -/

namespace Sys2Proof.Machine

variable {s v u : State} {q : Req} {x : Station} {t : Nat} {r : Traveler} {o : Option Place} {m : LineMode}

/-! ### A way set, and what follows it -/

theorem WaySet.answered {code level : Nat} {a : Reply} (h : WaySet s u x o) : WaySet s (u.answered q code level a) x o :=
  ⟨fun hn => (congrArg (fun io : LineIo => { io with outputs :=
      { io.outputs with green := (u.answered q code level a).io.outputs.green,
                        amber := (u.answered q code level a).io.outputs.amber,
                        red := (u.answered q code level a).io.outputs.red } }) (h.1 hn) :),
    fun hn => outputsBecome_answered (h.2 hn)⟩

/-- A decision of the pre diverter after a change of mode (R74). -/
theorem setMode_decides (c : Option HaltCause) (d : Option HaltDetail) (hw : s.Waits .pre t r)
    (hd : DiverterSends .pre m s.holds.shelf (s.vacant .cell = true) r.holds o) (hc : s.WayClear o) :
    let u := (s.setMode m c d).decidePre
    Happened s u (.modeChanged s.mode m :: sentNotices r t o) [.table, .engine, .holds, .clock] ∧
      Sent s u .pre t r { s.table with mode := m, cause := c, detail := d } s.engine s.holds.shelf o ∧ WaySet s u .pre o := by
  obtain ⟨hdone, hsent, hway⟩ := decideAt_sends (s := s.setMode m c d) (x := .pre) (t := t) (r := r) (o := o) hw hd hc
  exact ⟨(happened_setMode s m c d).then rfl hdone (by simp), hsent, hway⟩

theorem setMode_rests (c : Option HaltCause) (d : Option HaltDetail) (hn : s.NoneWaits .pre) :
    (s.setMode m c d).decidePre = s.setMode m c d := decideAt_rests (s := s.setMode m c d) (x := .pre) hn

/-! ### The line empty (R9) -/

theorem lineEmpty_iff : s.lineEmpty = true ↔ ∀ t r, s.traveler t = some r → r.stage = .queued ∨ r.stage = .shelved := by
  have hpast (r : Traveler) : pastQueue r = true ↔ ¬(r.stage = .queued ∨ r.stage = .shelved) := by simp [pastQueue]
  have hany := anyTraveler_iff (s := s) (p := pastQueue)
  rw [State.lineEmpty, Bool.not_eq_true', ← Bool.not_eq_true, hany]
  simp only [hpast, not_exists, not_and, not_not]

theorem drainDone_empty (hm : s.mode = .drain) (h : s.lineEmpty = true) : s.drainDone = s.setMode .idle none none :=
  if_pos ⟨hm, h⟩

theorem drainDone_occupied (h : s.lineEmpty ≠ true) : s.drainDone = s := if_neg fun hc => h hc.2

theorem sentTo_drain {l : List ShelfSlot} {p : Prop} {hs : List Hold} (hd : DiverterSends .pre .drain l p hs o) :
    o = none ∨ o = some .cell ∨ ∃ n, o = some (.shelf n) := by
  obtain ⟨-, hrun⟩ := hd
  obtain ⟨hheld, hfree⟩ := hrun (.inr rfl)
  by_cases hopen : ∃ h ∈ hs, h.state = .isOpen
  · rcases hheld hopen with ⟨-, rfl⟩ | ⟨-, n, -, -, rfl⟩
    · exact .inl rfl
    · exact .inr (.inr ⟨n, rfl⟩)
  · by_cases hv : p
    · exact .inr (.inl ((hfree hopen).1 hv))
    · exact .inl ((hfree hopen).2 hv)

/-! ### The settling -/

theorem ownStart_runs (h : s.mode = .idle ∧ s.io.estop = false ∧ s.cure.geometry ≠ none ∧ s.engine.limits ≠ none ∨ s.mode = .drain) :
    ownStart s = accept s.run := by
  unfold ownStart
  rcases h with ⟨hm, he, hg, hl⟩ | hm
  · rw [hm]
    simp [he, hg, hl]
  · rw [hm]

theorem ownDrain_runs (hm : s.mode = .run) : ownDrain s = accept ((s.setMode .drain none none).decidePre).drainDone := by
  unfold ownDrain
  rw [hm]

/-- Settles O15: the mode changed, then the pre diverter's decision and the examination for an empty line. -/
theorem startAndDrainSetMode : Obligations.StartAndDrainSetMode := by
  constructor
  · intro s q htakes
    have hrefused {w : Status} := refused (s := s) (q := q) (w := w) (fields := []) 2 htakes (owner := fun _ => ownStart)
    refine ⟨fun hstarts => ?runs, fun hm he => ?estop, fun hm he hcfg => ?unset, fun hm => ?running, fun hm => ?halted⟩
    case runs =>
      intro table
      have hown : ownStart (s.inServiceOf q) = accept (s.inServiceOf q).run := ownStart_runs hstarts
      have hcalm := calm_decidePre ((s.inServiceOf q).setMode .run none none)
      have hframes : FramesKept (s.inServiceOf q) (s.inServiceOf q).run := 
        (happened_setMode (s.inServiceOf q) .run none none).2.2.1.trans hcalm.frames
      obtain ⟨hu, hanswer⟩ := request_answered 2 (owner := fun _ => ownStart) htakes hown hframes
      refine ⟨_, hu, hanswer, hcalm.mode, hcalm.cause, hcalm.detail, fun hnone => ?_, fun t r o hw hd hc => ?_⟩
      · have hrests : (s.inServiceOf q).run = (s.inServiceOf q).setMode .run none none :=
          setMode_rests (s := s.inServiceOf q) (m := .run) none none hnone
        have hdone : Happened (s.inServiceOf q) (s.inServiceOf q).run [.modeChanged s.mode .run] [.table] := by
          rw [hrests]
          exact happened_setMode _ _ _ _
        exact ⟨(request_done 2 (owner := fun _ => ownStart) htakes hown hdone).2, (congrArg State.table hrests :)⟩
      · obtain ⟨hdone, hsent, hway⟩ := setMode_decides (s := s.inServiceOf q) none none hw hd hc
        exact ⟨(request_done 2 (owner := fun _ => ownStart) htakes hown hdone).2, hsent, hway.answered⟩
    case estop => exact hrefused (by unfold ownStart; simp [hm, he, refuse])
    case unset => exact hrefused (by unfold ownStart; simp [hm, he, hcfg, refuse])
    case halted => exact hrefused (by unfold ownStart; simp [hm, refuse])
    case running =>
      have hown : ownStart (s.inServiceOf q) = accept (s.inServiceOf q) := by unfold ownStart; simp [hm]
      exact ⟨_, request_done 2 (owner := fun _ => ownStart) htakes hown (Happened.refl _)⟩
  · intro s q inMode past
    have hpast (y : Traveler) : ¬past y ↔ y.stage = .queued ∨ y.stage = .shelved := by simp only [past]; tauto
    refine ⟨fun htakes hm hnone => ⟨fun hsome => ?occupied, fun hempty => ?emptied⟩,
      ?decided,
      fun htakes hm => ?draining, fun htakes hm => ?refused, fun hm hempty => ?complete⟩
    case complete =>
      have hexec : exec .drainComplete s = event s.drainDone := rfl
      rw [hexec, drainDone_empty hm (lineEmpty_iff.2 hempty)]
      have hdone := happened_setMode s .idle none none
      rw [hm] at hdone
      exact ⟨_, rfl, event_happened hdone, rfl⟩
    case draining =>
      have hown : ownDrain (s.inServiceOf q) = accept (s.inServiceOf q) := by unfold ownDrain; simp [hm]
      exact ⟨_, request_done 3 (owner := fun _ => ownDrain) htakes hown (Happened.refl _)⟩
    case refused =>
      refine refused 3 htakes (owner := fun _ => ownDrain) ?_
      unfold ownDrain
      rcases hm with hm | hm <;> simp [hm, refuse]
    case occupied =>
      obtain ⟨t, r, hr, hp⟩ := hsome
      let v := (s.inServiceOf q).setMode .drain none none
      have hstays : v.drainDone = v := drainDone_occupied fun h => (hpast r).2 (lineEmpty_iff.1 h t r hr) hp
      have hown : ownDrain (s.inServiceOf q) = accept v := by
        rw [ownDrain_runs (s := s.inServiceOf q) hm, setMode_rests (s := s.inServiceOf q) none none hnone]
        exact congrArg (accept ·) hstays
      have hdone := happened_setMode (s.inServiceOf q) .drain none none
      have hmode : (s.inServiceOf q).mode = .run := hm
      rw [hmode] at hdone
      obtain ⟨hu, hd⟩ := request_done 3 (owner := fun _ => ownDrain) htakes hown hdone
      exact ⟨_, hu, hd, rfl⟩
    case emptied =>
      let v := (s.inServiceOf q).setMode .drain none none
      have hends : v.drainDone = v.setMode .idle none none :=
        drainDone_empty rfl (lineEmpty_iff.2 fun t r hr => (hpast r).1 (hempty t r hr))
      have hown : ownDrain (s.inServiceOf q) = accept (v.setMode .idle none none) := by
        rw [ownDrain_runs (s := s.inServiceOf q) hm, setMode_rests (s := s.inServiceOf q) none none hnone]
        exact congrArg (accept ·) hends
      have hdone := happened_setMode (s.inServiceOf q) .drain none none
      have hmode : (s.inServiceOf q).mode = .run := hm
      rw [hmode] at hdone
      have hboth := hdone.then rfl (happened_setMode v .idle none none) (e := [.table]) (by simp)
      obtain ⟨hu, hd⟩ := request_done 3 (owner := fun _ => ownDrain) htakes hown hboth
      exact ⟨_, hu, hd, rfl⟩
    case decided =>
      intro t r o htakes hm hw hd hc shelved others
      let u := ((s.inServiceOf q).setMode .drain none none).decidePre
      obtain ⟨hdone, hsent, hway⟩ := setMode_decides (s := s.inServiceOf q) none none hw hd hc
      have hmode : (s.inServiceOf q).mode = .run := hm
      rw [hmode] at hdone
      have hown : ownDrain (s.inServiceOf q) = accept u.drainDone := ownDrain_runs (s := s.inServiceOf q) hm
      have hstage : r.stage = .preInspect := hw.2.2.1
      have hlive : u.traveler t = some (sentRecord r o) := hsent.1.1
      have hothers (n : Nat) (hn : n ≠ t) : u.traveler n = s.traveler n := hsent.1.2.1 n hn
      have hrest : u.table = _ := hsent.1.2.2
      have hempty : u.lineEmpty = true ↔ shelved ∧ ¬others := by
        rw [lineEmpty_iff]
        refine ⟨fun h => ⟨?_, fun ⟨n, y, hn, hy, hp⟩ => (hpast y).2 (h n y ((hothers n hn).trans hy)) hp⟩,
          fun ⟨⟨n, ho⟩, halone⟩ k y hy => ?_⟩
        · have hsentStage := h t _ hlive
          rcases sentTo_drain hd with rfl | rfl | hshelf
          · exact absurd hsentStage (by simp [sentRecord, hstage])
          · exact absurd hsentStage (by simp [sentRecord, Place.stage])
          · exact hshelf
        · by_cases hk : k = t
          · subst hk ho
            rw [hlive] at hy
            cases hy
            exact .inr rfl
          · exact (hpast y).1 fun hp => halone ⟨k, y, hk, (hothers k hk).symm.trans hy, hp⟩
      refine ⟨fun h => ?_, fun hshelf halone => ?_⟩
      · have hstays : u.drainDone = u := drainDone_occupied fun hc => by
          obtain ⟨hshelf, halone⟩ := hempty.1 hc
          exact h.elim (fun hline => hline hshelf) halone
        rw [hstays] at hown
        obtain ⟨hu, hd⟩ := request_done 3 (owner := fun _ => ownDrain) htakes hown hdone
        exact ⟨_, hu, hd, hsent, hway.answered⟩
      · have hdrain : u.mode = .drain := by rw [State.mode, hrest]
        rw [drainDone_empty hdrain (hempty.2 ⟨hshelf, halone⟩)] at hown
        have hends := happened_setMode u .idle none none
        rw [hdrain] at hends
        have hnow : u.now = s.now := (calm_decidePre _).now
        obtain ⟨hu, hd⟩ := request_done 3 (owner := fun _ => ownDrain) htakes hown
          (hdone.then hnow hends (e := [.table, .engine, .holds, .clock]) (by simp))
        refine ⟨_, hu, hd, ⟨⟨hlive, hothers, ?_⟩, hsent.2⟩, ?_⟩
        · exact (congrArg (fun b : TravelerTable => { b with mode := .idle, cause := none, detail := none }) hrest :)
        · exact WaySet.answered (u := u.setMode .idle none none) hway

end Sys2Proof.Machine
end

section
/-! PROOF of the family 'other': the gantry port and the end of a pass or a program (R87 to R96; O35, O38). -/

namespace Sys2Proof.Machine

variable {s v u : State} {t : Nat} {r r' r'' : Traveler} {e e' : StrokeEngine} {ks ks' : List NoticeKind} {l : GantryLimits}
  {o : Outstanding} {w : StrokeWork}

/-! ### A stretch of the stroke engine's work on one board -/

/-- Between `s` and `u` the stroke engine worked on board `t`: its record is now `r`, the engine `e`, and the notices `ks`
were posted. -/
structure CellStep (s u : State) (t : Nat) (r : Traveler) (ks : List NoticeKind) (e : StrokeEngine) : Prop where
  happened : Happened s u ks [.table, .engine]
  record   : Rewritten s u t r s.table
  engine   : u.engine = e

theorem CellStep.trans (h : CellStep s v t r ks e) (h' : CellStep v u t r' ks' e') : CellStep s u t r' (ks ++ ks') e' :=
  ⟨h.happened.join h'.happened (by decide) (fun _ hp => hp), Rewritten.trans h.record h'.record, h'.engine⟩

theorem CellStep.quiet (h : CellStep s v t r ks e) (h' : CellStep v u t r' [] e') : CellStep s u t r' ks e' := by
  have := h.trans h'
  rwa [List.append_nil] at this

theorem CellStep.kept (h : CellStep s u t r ks e) {p : Part} (hp : p ∉ [Part.table, Part.engine]) : KeptPart s u p :=
  h.happened.kept p hp

theorem CellStep.now_eq (h : CellStep s u t r ks e) : u.now = s.now := h.happened.now_eq (by decide)

theorem CellStep.timeouts (h : CellStep s u t r ks e) : u.io.timeouts = s.io.timeouts := by
  have hio : u.io = _ := h.kept (p := .clock) (by decide)
  rw [hio]

theorem CellStep.awaits (h : CellStep s u t r ks e) : awaitingAnswer u = awaitingAnswer s := by
  funext m p n
  rw [awaitingAnswer, awaitingAnswer, h.timeouts]

theorem CellStep.leaving_eq (h : CellStep s u t r ks e) (n : Nat) : u.leaving n = s.leaving n :=
  leaving_of_transfers (congrArg TravelerTable.transfers h.record.2.2 :)

theorem cellStep_refl (h : s.traveler t = some r) : CellStep s s t r [] s.engine :=
  ⟨(Happened.refl s).mono (by simp), Rewritten.refl h, rfl⟩

theorem cellStep_onEngine (f : StrokeEngine → StrokeEngine) (h : s.traveler t = some r) :
    CellStep s (s.onEngine f) t r [] (f s.engine) :=
  ⟨(happened_onEngine s f).mono (by simp), Rewritten.refl h, rfl⟩

theorem cellStep_setTraveler (r' : Traveler) (h : s.traveler t = some r) :
    CellStep s (s.setTraveler t r') t r' [] s.engine :=
  ⟨(happened_setTraveler s t r').mono (by simp), rewritten_setTraveler r' h, rfl⟩

theorem cellStep_onTraveler (f : Traveler → Traveler) (h : s.traveler t = some r) :
    CellStep s (s.onTraveler t f) t (f r) [] s.engine := by
  rw [onTraveler_live f h]
  exact cellStep_setTraveler _ h

theorem cellStep_raise {k : HoldReason} {g : Stage} {d : HoldDetail} (h : s.traveler t = some r) (hl : s.leaving t = false)
    (ho : HoldsInOrder r.holds) :
    CellStep s (s.raiseHold t k .strokeEngine g (some d)) t
      { r with holds := holdsAfterRaise r.holds (newHold s s.now k .strokeEngine g d) }
      (raiseNotices r.tag t r.holds [newHold s s.now k .strokeEngine g d]) s.engine := by
  obtain ⟨hdone, hrec⟩ := raised_one k .strokeEngine g d h hl ho
  exact ⟨hdone.mono (by simp), hrec, by simp⟩

/-! ### Messages sent (R90, R91) -/

theorem sendMove_engine (s : State) (head : Nat) (p : Point) (speed : Nat) :
    (s.sendMove head p speed).engine =
      { s.engine with port := awaitingAnswer s (.move head p speed) p (s.engine.moveTime p speed) } := rfl

theorem cellStep_sendMove (head : Nat) (p : Point) (speed : Nat) (h : s.traveler t = some r) :
    CellStep s (s.sendMove head p speed) t r []
      { s.engine with port := awaitingAnswer s (.move head p speed) p (s.engine.moveTime p speed) } :=
  cellStep_onEngine (fun e => { e with port := awaitingAnswer s (.move head p speed) p (s.engine.moveTime p speed) }) h

theorem sendPark_eq (h : s.engine.limits = some l) : s.sendPark = s.sendMove 0 l.park l.parkSpeed := by
  rw [State.sendPark, h]

/-- The expected time of a MOVE from an unknown reference point: that of the diagonal of the travel limits (R91). -/
theorem moveTime_unknown {p : Point} {speed : Nat} (h : e.reference = none) (hl : e.limits = some l) :
    e.moveTime p speed = ceilDiv (distance { x := l.xMin, y := l.yMin, z := l.zMin }
      { x := l.xMax, y := l.yMax, z := l.zMax } * 1000) speed := by
  rw [StrokeEngine.moveTime, h, hl]

theorem moveTime_known {p a : Point} {speed : Nat} (h : e.reference = some a) :
    e.moveTime p speed = ceilDiv (distance a p * 1000) speed := by
  rw [StrokeEngine.moveTime, h]

/-! ### The end of a pass and of a program (R87, R93) -/

/-- A program over: DONE, the cell PARKING, the park MOVE outstanding. -/
theorem cellStep_endProgram (h : s.traveler t = some r) (hl : s.engine.limits = some l) :
    CellStep s (s.endProgram t) t { r with program := .done } []
      { s.engine with
        cell := .parking, work := none,
        port := awaitingAnswer s (.move 0 l.park l.parkSpeed) l.park (s.engine.moveTime l.park l.parkSpeed) } := by
  have hdone := cellStep_onTraveler (fun r => { r with program := .done }) h
  let v := s.onTraveler t fun r => { r with program := .done }
  have hparking := hdone.trans (cellStep_onEngine (fun e => { e with cell := .parking, work := none }) hdone.record.1)
  have hlimits : (v.onEngine fun e => { e with cell := .parking, work := none }).engine.limits = some l :=
    (congrArg StrokeEngine.limits hdone.engine).trans hl
  have hmove := hparking.trans (cellStep_sendMove 0 l.park l.parkSpeed hparking.record.1)
  rw [State.endProgram, sendPark_eq hlimits]
  rw [hparking.awaits, hparking.engine, hdone.engine] at hmove
  exact hmove

theorem cellStep_startPass {k : Nat} {a b : Point} (h : s.traveler t = some r) (hp : w.passes[k]? = some (a, b)) :
    CellStep s (s.startPass w k) t r []
      { s.engine with
        work := some { w with phase := .toStart },
        port := awaitingAnswer s (.move w.head a w.transit) a (s.engine.moveTime a w.transit) } := by
  rw [State.startPass, hp]
  exact (cellStep_onEngine (fun e => { e with work := some { w with phase := .toStart } }) h).quiet
    (cellStep_sendMove w.head a w.transit h)

/-- The end of a pass that is not the last of its stroke. -/
theorem cellStep_endPass {a b : Point} (h : s.traveler t = some r) (hp : w.passes[r.passCursor + 1]? = some (a, b)) :
    CellStep s (s.endPass t w) t { r with passCursor := r.passCursor + 1 } []
      { s.engine with
        work := some { w with phase := .toStart },
        port := awaitingAnswer s (.move w.head a w.transit) a (s.engine.moveTime a w.transit) } := by
  have hlen : r.passCursor + 1 < w.passes.length := (List.getElem?_eq_some_iff.1 hp).1
  have hset := cellStep_setTraveler { r with passCursor := r.passCursor + 1 } h
  have hnext := hset.trans (cellStep_startPass hset.record.1 hp)
  rw [State.endPass, h]
  dsimp only
  rw [if_pos hlen]
  exact hnext

/-- The board of a stroke whose last pass has ended. -/
def Traveler.strokeRun (r : Traveler) : Traveler :=
  { r with passCursor := r.passCursor + 1, coat := { r.coat with run := r.coat.run + 1 } }

/-- The stroke counted as run, before the next one is taken up. -/
def State.strokeRun (s : State) (t : Nat) (r : Traveler) : State :=
  ((s.setTraveler t { r with passCursor := r.passCursor + 1 }).onTraveler t fun r =>
    { r with coat := { r.coat with run := r.coat.run + 1 } }).onEngine fun e => { e with work := none }

theorem cellStep_strokeRun (h : s.traveler t = some r) :
    CellStep s (s.strokeRun t r) t r.strokeRun [] { s.engine with work := none } := by
  have hset := cellStep_setTraveler { r with passCursor := r.passCursor + 1 } h
  have hrun := hset.trans (cellStep_onTraveler (fun r => { r with coat := { r.coat with run := r.coat.run + 1 } }) hset.record.1)
  have hidle := hrun.trans (cellStep_onEngine (fun e => { e with work := none }) hrun.record.1)
  rw [hrun.engine] at hidle
  exact hidle

/-- The end of the last pass of a stroke takes up the next stroke. -/
theorem endPass_last (h : s.traveler t = some r) (hlen : w.passes.length ≤ r.passCursor + 1) :
    s.endPass t w = State.takeUp t (s.lastStroke t - w.stroke) (w.stroke + 1) (s.strokeRun t r) := by
  have hstep := cellStep_strokeRun h
  have hlast : (s.strokeRun t r).lastStroke t = s.lastStroke t := by
    have hrecipes : (s.strokeRun t r).recipes = s.recipes := hstep.kept (p := .recipes) (by decide)
    have hrecipe (y : Traveler) : (s.strokeRun t r).recipeOf y = s.recipeOf y := by simp only [State.recipeOf, hrecipes]
    rw [State.lastStroke, State.lastStroke, hstep.record.1, h]
    dsimp only
    rw [hrecipe]
    rfl
  rw [State.endPass, h]
  dsimp only
  rw [if_neg (Nat.not_lt.2 hlen)]
  exact congrArg (fun n => State.takeUp t (n - w.stroke) (w.stroke + 1) (s.strokeRun t r)) hlast

/-- The end of the last pass of the last stroke. -/
theorem cellStep_endPass_over (h : s.traveler t = some r) (hlen : w.passes.length ≤ r.passCursor + 1)
    (hlast : s.lastStroke t ≤ w.stroke) (hl : s.engine.limits = some l) :
    CellStep s (s.endPass t w) t { r.strokeRun with program := .done } []
      { s.engine with
        cell := .parking, work := none,
        port := awaitingAnswer s (.move 0 l.park l.parkSpeed) l.park (s.engine.moveTime l.park l.parkSpeed) } := by
  have hrun := cellStep_strokeRun h
  have hover := hrun.trans (cellStep_endProgram hrun.record.1 ((congrArg StrokeEngine.limits hrun.engine).trans hl))
  rw [endPass_last h hlen, Nat.sub_eq_zero_of_le hlast]
  rw [hrun.awaits, hrun.engine] at hover
  exact hover

/-! ### Parking and faults (R86, R93, R96) -/

/-- The board of a parked gantry: its spray end stamp, which an aborted one keeps (R93, R96). -/
def Traveler.parkedAt (r : Traveler) (stamp : Seconds) : Traveler :=
  if r.program = .aborted then r else { r with sprayEnd := some stamp }

theorem cellStep_parked (h : s.traveler t = some r) (hcell : s.engine.cell = .parking) (hboard : s.engine.board = some t) :
    CellStep s s.parked t (r.parkedAt (s.engine.lastClose.getD s.now)) [] { s.engine with cell := .done } := by
  have hdone := cellStep_onEngine (fun e => { e with cell := .done }) h
  have hstamp := hdone.trans (cellStep_onTraveler
    (fun r => if r.program = .aborted then r else { r with sprayEnd := some (s.engine.lastClose.getD s.now) }) hdone.record.1)
  rw [State.parked, hcell, hboard]
  exact hstamp

theorem parkAgain_stays (h : s.mode = .halt ∨ (s.engine.cell ≠ .aborted ∧ s.engine.cell ≠ .parking)) : s.parkAgain = s := by
  refine if_neg fun ⟨hm, _, hcell⟩ => ?_
  rcases h with h | ⟨h1, h2⟩
  · exact hm h
  · exact hcell.elim h1 h2

/-- Out of HALT a QUIET port parks an aborted board (R96). -/
theorem parkAgain_parks (hm : s.mode ≠ .halt) (hport : s.engine.port = .quiet)
    (hcell : s.engine.cell = .aborted ∨ s.engine.cell = .parking) (hl : s.engine.limits = some l) :
    Happened s s.parkAgain [] [.engine] ∧
      s.parkAgain.engine = { s.engine with
        cell := .parking,
        port := awaitingAnswer s (.move 0 l.park l.parkSpeed) l.park (s.engine.moveTime l.park l.parkSpeed) } := by
  have hparks : s.parkAgain = (s.onEngine fun e => { e with cell := .parking }).sendMove 0 l.park l.parkSpeed :=
    (if_pos ⟨hm, hport, hcell⟩).trans (sendPark_eq hl)
  rw [hparks]
  exact ⟨(happened_onEngine s _).quiet (happened_onEngine _ _) (by decide) (fun _ hp => hp), rfl⟩

/-- The board after a stroke fault is counted (R86). -/
def Traveler.faulted (r : Traveler) (f : StrokeFault) : Traveler :=
  { r with coat := { r.coat with faults := r.coat.faults + 1, first := if r.coat.faults = 0 then some f else r.coat.first } }

/-- A stroke fault that is not the program's first is only counted. -/
theorem cellStep_recordFault_later {k p : Nat} {c : StrokeFaultCause} (h : s.traveler t = some r) (hf : r.coat.faults ≠ 0) :
    CellStep s (s.recordFault t k p c) t (r.faulted ⟨k, p, c⟩) [] s.engine := by
  have hset := cellStep_setTraveler (r.faulted ⟨k, p, c⟩) h
  rw [State.recordFault, h]
  dsimp only
  rw [if_neg hf]
  exact hset

/-- The first stroke fault of a program is kept and raises STROKE_FAULT. -/
theorem recordFault_first {k p : Nat} {c : StrokeFaultCause} (h : s.traveler t = some r) (hf : r.coat.faults = 0) :
    s.recordFault t k p c = (s.setTraveler t (r.faulted ⟨k, p, c⟩)).raiseHold t .strokeFault .strokeEngine .spray
      (some (.strokeFault k p c)) := by
  rw [State.recordFault, h]
  dsimp only
  rw [if_pos hf]
  rfl

theorem cellStep_recordFault_first {k p : Nat} {c : StrokeFaultCause} (h : s.traveler t = some r) (hf : r.coat.faults = 0)
    (hl : s.leaving t = false) (hh : r.holds = []) :
    CellStep s (s.recordFault t k p c) t
      { r.faulted ⟨k, p, c⟩ with holds := [newHold s s.now .strokeFault .strokeEngine .spray (.strokeFault k p c)] }
      [.holdRaised r.tag t .strokeFault .strokeEngine .spray (s.holds.levelOf .strokeFault) (some (.strokeFault k p c))]
      s.engine := by
  have hset := cellStep_setTraveler (r.faulted ⟨k, p, c⟩) h
  have hraise := hset.trans (cellStep_raise (k := .strokeFault) (g := .spray) (d := .strokeFault k p c) hset.record.1
    ((hset.leaving_eq t).trans hl) (by rw [Traveler.faulted, hh]; exact List.Pairwise.nil))
  rw [recordFault_first h hf]
  have hholds : (r.faulted ⟨k, p, c⟩).holds = [] := hh
  rw [hholds] at hraise
  exact hraise

/-! ### ARRIVED (R92) -/

theorem arrived_move {p : Point} {head speed : Nat} (hp : s.engine.port = .waiting o) (hm : o.message = .move head p speed) :
    exec .arrived s = event (if head = 0 then (s.quiet o.target).parked else (s.quiet o.target).arrivedInProgram) := by
  have hexec : exec .arrived s = event (match s.engine.port with
    | .waiting o =>
      match o.message with
      | .move h _ _ => if h = 0 then (s.quiet o.target).parked else (s.quiet o.target).arrivedInProgram
      | .pass _ _ _ _ | .stop => s
    | .quiet | .lost => s) := rfl
  rw [hexec, hp]
  dsimp only
  rw [hm] <;> rfl

theorem arrived_discarded (h : s.engine.port = .quiet ∨ s.engine.port = .lost ∨
    (s.engine.port = .waiting o ∧ ∀ h a v, o.message ≠ .move h a v)) : exec .arrived s = event s := by
  have hexec : exec .arrived s = event (match s.engine.port with
    | .waiting o =>
      match o.message with
      | .move h _ _ => if h = 0 then (s.quiet o.target).parked else (s.quiet o.target).arrivedInProgram
      | .pass _ _ _ _ | .stop => s
    | .quiet | .lost => s) := rfl
  rw [hexec]
  rcases h with h | h | ⟨h, hmsg⟩
  · rw [h] <;> rfl
  · rw [h] <;> rfl
  · rw [h]
    dsimp only
    cases hm : o.message with
    | move h a v => exact absurd hm (hmsg h a v)
    | pass h a b v => rfl
    | stop => rfl

theorem arrivedInProgram_along (hcell : s.engine.cell = .running) (hboard : s.engine.board = some t)
    (hw : s.engine.work = some w) (hphase : w.phase = .along) : s.arrivedInProgram = s.endPass t w := by
  rw [State.arrivedInProgram, hcell, hboard, hw]
  dsimp only
  rw [hphase]

theorem arrivedInProgram_start {p : Point × Point} (hcell : s.engine.cell = .running) (hboard : s.engine.board = some t)
    (hw : s.engine.work = some w) (hphase : w.phase = .toStart) (h : s.traveler t = some r)
    (hp : w.passes[r.passCursor]? = some p) : s.arrivedInProgram = s.alongPass w p := by
  have hpoint : ((s.traveler t).bind fun r => w.passes[r.passCursor]?) = some p := by rw [h]; exact hp
  rw [State.arrivedInProgram, hcell, hboard, hw]
  dsimp only
  rw [hphase]
  dsimp only
  rw [hpoint]

/-- PASS sent and the valve opened (R87). -/
theorem alongPass_sendsPass {a b : Point} {d : Dispense} (hd : w.results = some d) (he : s.io.estop = false) :
    Happened s (s.alongPass w (a, b)) [] [.engine] ∧ (s.alongPass w (a, b)).engine = { s.engine with
      work := some { w with phase := .along },
      valve := some { head := w.head, flow := d.flow, duration := d.duration, openMs := 0 },
      port := awaitingAnswer s (.pass w.head b.x b.y d.speed) b d.duration } := by
  let v := (s.onEngine fun e => { e with work := some { w with phase := .along } }).send (.pass w.head b.x b.y d.speed)
    (some b) d.duration
  have hopens : s.alongPass w (a, b) = v.onEngine fun e =>
      { e with valve := some { head := w.head, flow := d.flow, duration := d.duration, openMs := 0 } } := by
    have hestop : v.io.estop = false := he
    have hopen : s.alongPass w (a, b) = v.openValve w.head d := by
      unfold State.alongPass
      split
      · rename_i hnone
        exact absurd (hd.symm.trans hnone) nofun
      · rename_i d' hsome
        obtain rfl : d = d' := Option.some.inj (hd.symm.trans hsome)
        rfl
    exact hopen.trans (if_neg (by rw [hestop]; decide))
  rw [hopens]
  exact ⟨.ofLinks rfl fun p hp => by
    cases p
    case engine => exact absurd (by decide) hp
    all_goals rfl, rfl⟩

/-- The MOVE to the end of a dry pass (R80). -/
theorem alongPass_sendsMove {a b : Point} (hd : w.results = none) :
    Happened s (s.alongPass w (a, b)) [] [.engine] ∧ (s.alongPass w (a, b)).engine = { s.engine with
      work := some { w with phase := .along },
      port := awaitingAnswer s (.move w.head b w.transit) b (s.engine.moveTime b w.transit) } := by
  have hmove : s.alongPass w (a, b) =
      (s.onEngine fun e => { e with work := some { w with phase := .along } }).sendMove w.head b w.transit := by
    unfold State.alongPass
    split
    · rfl
    · rename_i d' hsome
      exact absurd (hd.symm.trans hsome) nofun
  rw [hmove]
  exact ⟨.ofLinks rfl fun p hp => by
    cases p
    case engine => exact absurd (by decide) hp
    all_goals rfl, rfl⟩

/-- A stretch of the engine's work as the outcome of an event. -/
theorem event_cellStep (h : CellStep s v t r ks e) :
    ∃ u, event v = .next u ∧ Happened s u ks [.table, .engine] ∧ Rewritten s u t r s.table ∧ u.engine = e :=
  ⟨_, rfl, event_happened h.happened, h.record, h.engine⟩

theorem event_cellStep' (h : CellStep s v t r ks e) :
    ∃ u, event v = .next u ∧ Happened s u ks [.table, .engine] ∧ u.engine = e ∧ Rewritten s u t r s.table :=
  ⟨_, rfl, event_happened h.happened, h.engine, h.record⟩

/-- Settles O35, by the message answered and the step that waited for it. -/
theorem arrivedGoesOn : Obligations.ArrivedGoesOn := by
  intro s o p head speed t r
  refine ⟨fun hport hmsg hcell hboard hr => ?parks, fun hport hmsg hcell => ?vacant,
    fun w a b d hport hmsg hhead hcell hboard hr hw hphase hp hd hestop => ?sprays,
    fun w a b hport hmsg hhead hcell hboard hr hw hphase hp hd htarget => ?dry,
    fun w l hport hmsg hhead hcell hboard hr hw hphase hd htarget hl => ?ends, fun h => ?discarded⟩
  case parks =>
    have hquiet := cellStep_onEngine (fun e => { e with port := .quiet, reference := o.target }) hr
    have hparked := hquiet.trans (cellStep_parked (s := s.quiet o.target) hquiet.record.1 hcell hboard)
    rw [arrived_move hport hmsg, if_pos rfl]
    exact event_cellStep' hparked
  case vacant =>
    have hparked : (s.quiet o.target).parked = s.quiet o.target := by
      have hc : (s.quiet o.target).engine.cell = .vacant := hcell
      rw [State.parked, hc]
    have harrived : (s.quiet o.target).arrivedInProgram = s.quiet o.target := by
      have hc : (s.quiet o.target).engine.cell = .vacant := hcell
      rw [State.arrivedInProgram, hc]
    rw [arrived_move hport hmsg, hparked, harrived, ite_self]
    exact ⟨_, rfl, event_happened (happened_onEngine s _), rfl⟩
  case sprays =>
    rw [arrived_move hport hmsg, if_neg hhead,
      arrivedInProgram_start (s := s.quiet o.target) hcell hboard hw hphase hr hp]
    obtain ⟨hdone, hengine⟩ := alongPass_sendsPass (s := s.quiet o.target) (a := a) (b := b) hd hestop
    exact ⟨_, rfl, event_happened ((happened_onEngine s _).quiet hdone (by decide) (fun _ h => h)), hengine⟩
  case dry =>
    rw [arrived_move hport hmsg, if_neg hhead,
      arrivedInProgram_start (s := s.quiet o.target) hcell hboard hw hphase hr hp]
    obtain ⟨hdone, hengine⟩ := alongPass_sendsMove (s := s.quiet o.target) (a := a) (b := b) hd
    rw [moveTime_known (e := (s.quiet o.target).engine) htarget] at hengine
    refine ⟨_, rfl, event_happened ((happened_onEngine s _).quiet hdone (by decide) (fun _ h => h)), hengine.trans ?_⟩
    rw [← htarget]
    rfl
  case ends =>
    have hquiet := cellStep_onEngine (fun e => { e with port := .quiet, reference := o.target }) hr
    rw [arrived_move hport hmsg, if_neg hhead, arrivedInProgram_along (s := s.quiet o.target) hcell hboard hw hphase]
    refine ⟨fun a b hp => ?_, fun hlen hlast => ?_⟩
    · have hnext := hquiet.trans (cellStep_endPass (s := s.quiet o.target) hquiet.record.1 hp)
      rw [moveTime_known (e := (s.quiet o.target).engine) htarget] at hnext
      obtain ⟨u, hu, hdone, hrec, hengine⟩ := event_cellStep hnext
      exact ⟨u, hu, hdone, hrec, hengine.trans (by rw [← htarget]; rfl)⟩
    · have hover := hquiet.trans (cellStep_endPass_over (s := s.quiet o.target) hquiet.record.1 hlen hlast hl)
      rw [moveTime_known (e := (s.quiet o.target).engine) htarget] at hover
      obtain ⟨u, hu, hdone, hrec, hengine⟩ := event_cellStep hover
      exact ⟨u, hu, hdone, hrec, hengine.trans (by rw [← htarget]; rfl)⟩
  case discarded =>
    rw [arrived_discarded h]
    exact event_done (Happened.refl s)

end Sys2Proof.Machine
end

section
/-! PROOF of the family 'other': STOPPED and FAULT (R86, R92, R93, R95, R96; O38). -/

namespace Sys2Proof.Machine

variable {s v u : State} {t code : Nat} {r r' : Traveler} {ks : List NoticeKind} {l : GantryLimits} {o : Outstanding}
  {k p : Nat} {c : StrokeFaultCause}

/-! ### STOPPED -/

theorem stopped_stop (hp : s.engine.port = .waiting o) (hm : o.message = .stop) :
    exec .stopped s = event (s.quiet none).parkAgain := by
  have hexec : exec .stopped s = event (match s.engine.port with
    | .waiting o => if o.message = .stop then (s.quiet none).parkAgain else s
    | .quiet | .lost => s) := rfl
  rw [hexec, hp]
  exact congrArg event (if_pos hm)

theorem stopped_discarded (h : s.engine.port = .quiet ∨ s.engine.port = .lost ∨
    (s.engine.port = .waiting o ∧ o.message ≠ .stop)) : exec .stopped s = event s := by
  have hexec : exec .stopped s = event (match s.engine.port with
    | .waiting o => if o.message = .stop then (s.quiet none).parkAgain else s
    | .quiet | .lost => s) := rfl
  rw [hexec]
  rcases h with h | h | ⟨h, hm⟩
  · rw [h] <;> rfl
  · rw [h] <;> rfl
  · rw [h]
    exact congrArg event (if_neg hm)

/-! ### FAULT -/

/-- The fault code recorded and the outstanding message ended (R92). -/
def State.faultTaken (s : State) (code : Nat) : State := (s.onEngine fun e => { e with lastFault := some code }).quiet none

theorem cellStep_faultTaken (code : Nat) (h : s.traveler t = some r) :
    CellStep s (s.faultTaken code) t r [] { s.engine with lastFault := some code, port := .quiet, reference := none } :=
  (cellStep_onEngine (fun e => { e with lastFault := some code }) h).quiet
    (cellStep_onEngine (fun e => { e with port := .quiet, reference := none }) h)

theorem happened_faultTaken (s : State) (code : Nat) : Happened s (s.faultTaken code) [] [.engine] :=
  (happened_onEngine s _).quiet (happened_onEngine _ _) (by decide) (fun _ h => h)

theorem gantryFault_eq (s : State) (code : Nat) : exec (.gantryFault code) s = event (match s.engine.port with
    | .waiting o =>
      match o.message with
      | .stop => (s.faultTaken code).parkAgain
      | m => if m.isPark then (s.faultTaken code).faultAtPark code else (s.faultTaken code).faultInProgram code
    | .quiet | .lost => s.onEngine fun e => { e with lastFault := some code }) := rfl

theorem gantryFault_idle (h : s.engine.port = .quiet ∨ s.engine.port = .lost) :
    exec (.gantryFault code) s = event (s.onEngine fun e => { e with lastFault := some code }) := by
  rw [gantryFault_eq]
  rcases h with h | h
  · rw [h] <;> rfl
  · rw [h] <;> rfl

theorem gantryFault_stop (hp : s.engine.port = .waiting o) (hm : o.message = .stop) :
    exec (.gantryFault code) s = event (s.faultTaken code).parkAgain := by
  rw [gantryFault_eq, hp]
  dsimp only
  rw [hm] <;> rfl

theorem gantryFault_move (hp : s.engine.port = .waiting o) {head speed : Nat} {a : Point} (hm : o.message = .move head a speed) :
    exec (.gantryFault code) s = event (if head = 0 then (s.faultTaken code).faultAtPark code
      else (s.faultTaken code).faultInProgram code) := by
  rw [gantryFault_eq, hp]
  dsimp only
  rw [hm]
  cases head
  · rfl
  · rfl

theorem gantryFault_pass (hp : s.engine.port = .waiting o) {head speed : Nat} {x y : Int}
    (hm : o.message = .pass head x y speed) :
    exec (.gantryFault code) s = event ((s.faultTaken code).faultInProgram code) := by
  rw [gantryFault_eq, hp]
  dsimp only
  rw [hm] <;> rfl

/-- The first stroke fault of a program on a board that has no hold of the reason. -/
theorem cellStep_recordFault_adds (h : s.traveler t = some r) (hf : r.coat.faults = 0) (hl : s.leaving t = false)
    (hh : ∀ x ∈ r.holds, x.reason ≠ .strokeFault) :
    ∃ hs, HoldAdded r.holds hs (newHold s s.now .strokeFault .strokeEngine .spray (.strokeFault k p c)) ∧
      CellStep s (s.recordFault t k p c) t { r.faulted ⟨k, p, c⟩ with holds := hs }
        [.holdRaised r.tag t .strokeFault .strokeEngine .spray (s.holds.levelOf .strokeFault) (some (.strokeFault k p c))]
        s.engine := by
  have hset := cellStep_setTraveler (r.faulted ⟨k, p, c⟩) h
  obtain ⟨hs, hdone, hafter, hadd⟩ := raiseHold_adds (k := .strokeFault) .strokeEngine .spray (.strokeFault k p c) hset.record.1
    ((hset.leaving_eq t).trans hl) hh
  have hraise : CellStep (s.setTraveler t (r.faulted ⟨k, p, c⟩)) _ t { r.faulted ⟨k, p, c⟩ with holds := hs } _ s.engine :=
    ⟨hdone.mono (by simp), rewritten_of_travelers hafter (raiseHold_table ..), by simp⟩
  rw [recordFault_first h hf]
  exact ⟨hs, hadd, hset.trans hraise⟩

/-- FAULT to a message of a program, by what recording the fault does to its board. -/
theorem cellStep_faultInProgram (hcell : s.engine.cell = .running) (hboard : s.engine.board = some t)
    (h : s.closeValve.traveler t = some r) (hl : s.closeValve.engine.limits = some l)
    (hrec : CellStep s.closeValve (s.closeValve.recordFault t r.strokeCursor r.passCursor (.gantry code)) t r' ks
      s.closeValve.engine) :
    CellStep s.closeValve (s.faultInProgram code) t { r' with program := .done } ks
      { s.closeValve.engine with
        cell := .parking, work := none,
        port := awaitingAnswer s.closeValve (.move 0 l.park l.parkSpeed) l.park
          (s.closeValve.engine.moveTime l.park l.parkSpeed) } := by
  have hover := hrec.quiet (cellStep_endProgram hrec.record.1 ((congrArg StrokeEngine.limits hrec.engine).trans hl))
  rw [State.faultInProgram, hcell, hboard]
  dsimp only
  rw [h]
  rw [hrec.awaits, hrec.engine] at hover
  exact hover

theorem faultAtPark_eq (hcell : s.engine.cell = .parking) (hboard : s.engine.board = some t) :
    s.faultAtPark code = s.parked.recordFault t 0 0 (.gantry code) := by
  rw [State.faultAtPark, hcell, hboard]

theorem parkedAt_eq (r : Traveler) (stamp : Seconds) :
    r.parkedAt stamp = { r with sprayEnd := if r.program = .aborted then r.sprayEnd else some stamp } := by
  unfold Traveler.parkedAt
  split <;> rfl

/-- STOP ended out of HALT: the park MOVE outstanding, timed from an unknown reference point. -/
theorem stopEnded_parks (hm : s.mode ≠ .halt) (hport : s.engine.port = .quiet) (href : s.engine.reference = none)
    (hcell : s.engine.cell = .aborted ∨ s.engine.cell = .parking) (hl : s.engine.limits = some l) :
    Happened s s.parkAgain [] [.engine] ∧ s.parkAgain.engine = { s.engine with
      cell := .parking,
      port := awaitingAnswer s (.move 0 l.park l.parkSpeed) l.park (ceilDiv (distance
        { x := l.xMin, y := l.yMin, z := l.zMin } { x := l.xMax, y := l.yMax, z := l.zMax } * 1000) l.parkSpeed) } := by
  obtain ⟨hdone, hengine⟩ := parkAgain_parks hm hport hcell hl
  rw [moveTime_unknown href hl] at hengine
  exact ⟨hdone, hengine⟩

/-- A fault to a message of a running program with the valve shut, by what recording it does to the board. -/
theorem faultInProgram_shut (hcell : s.engine.cell = .running) (hboard : s.engine.board = some t)
    (hvalve : s.engine.valve = none) (h : s.traveler t = some r) (hl : s.engine.limits = some l)
    (href : s.engine.reference = none)
    (hrec : CellStep s (s.recordFault t r.strokeCursor r.passCursor (.gantry code)) t r' ks s.engine) :
    CellStep s (s.faultInProgram code) t { r' with program := .done } ks
      { s.engine with
        cell := .parking, work := none,
        port := awaitingAnswer s (.move 0 l.park l.parkSpeed) l.park (ceilDiv (distance
          { x := l.xMin, y := l.yMin, z := l.zMin } { x := l.xMax, y := l.yMax, z := l.zMax } * 1000) l.parkSpeed) } := by
  have hshut := closeValve_none hvalve
  have hstep := cellStep_faultInProgram (code := code) (r' := r') (ks := ks) (l := l) (r := r) hcell hboard
  rw [hshut, moveTime_unknown href hl] at hstep
  exact hstep h hl hrec

/-- Settles O38, by the message that is ended. -/
theorem stopAndFaultEndMessage : Obligations.StopAndFaultEndMessage := by
  refine ⟨fun s o l => ?stopped, fun s code o p head speed t r l => ?fault, fun s code o l hport hl => ?faults⟩
  case stopped =>
    intro diagonal
    refine ⟨fun hport hmsg => ⟨fun hstays => ?_, fun hm hcell hl => ?_⟩, fun h => ?_⟩
    · rw [stopped_stop hport hmsg, parkAgain_stays (s := s.quiet none) hstays]
      exact ⟨_, rfl, event_happened (happened_onEngine s _), rfl⟩
    · obtain ⟨hdone, hengine⟩ := stopEnded_parks (s := s.quiet none) hm rfl rfl hcell hl
      rw [stopped_stop hport hmsg]
      exact ⟨_, rfl, event_happened ((happened_onEngine s _).quiet hdone (by decide) (fun _ h => h)), hengine⟩
    · rw [stopped_discarded h]
      exact event_done (Happened.refl s)
  case fault =>
    intro diagonal
    refine ⟨fun hport => ?_, fun hport hmsg hhead hcell hboard hr hvalve hf hleaving hholds hl => ?_⟩
    · rw [gantryFault_idle hport]
      exact ⟨_, rfl, event_happened (happened_onEngine s _), rfl⟩
    · have htaken := cellStep_faultTaken code hr
      obtain ⟨hs, hadd, hrec⟩ := cellStep_recordFault_adds (s := s.faultTaken code) (k := r.strokeCursor) (p := r.passCursor)
        (c := .gantry code) htaken.record.1 hf hleaving hholds
      have hover := htaken.trans (faultInProgram_shut (s := s.faultTaken code) hcell hboard hvalve htaken.record.1 hl rfl hrec)
      rw [gantryFault_move hport hmsg, if_neg hhead]
      obtain ⟨u, hu, hdone, hlast, hengine⟩ := event_cellStep hover
      refine ⟨u, hu, hdone, hengine, hs, hadd, ?_⟩
      simp only [Traveler.faulted, hf] at hlast
      exact hlast
  case faults =>
    intro diagonal raised hold
    refine ⟨fun t r head x y speed hmsg hcell hboard hr hvalve hf hleaving hholds => ?_,
      fun t r p speed hmsg hcell hboard hr hleaving hholds => ?_, fun hmsg => ⟨fun hstays => ?_, fun hm hcell => ?_⟩⟩
    · intro d
      have htaken := cellStep_faultTaken code hr
      have hrec := cellStep_recordFault_first (s := s.faultTaken code) (k := r.strokeCursor) (p := r.passCursor)
        (c := .gantry code) htaken.record.1 hf hleaving hholds
      have hover := htaken.trans (faultInProgram_shut (s := s.faultTaken code) hcell hboard hvalve htaken.record.1 hl rfl hrec)
      rw [gantryFault_pass hport hmsg]
      obtain ⟨u, hu, hdone, hlast, hengine⟩ := event_cellStep hover
      refine ⟨u, hu, hdone, ?_, hengine⟩
      simp only [Traveler.faulted, hf] at hlast
      exact hlast
    · intro d stamp
      have htaken := cellStep_faultTaken code hr
      have hparked := htaken.trans (cellStep_parked (s := s.faultTaken code) htaken.record.1 hcell hboard)
      rw [gantryFault_move hport hmsg, if_pos rfl, faultAtPark_eq (s := s.faultTaken code) hcell hboard]
      rw [parkedAt_eq] at hparked
      by_cases hf : r.coat.faults = 0
      · have hrec := hparked.trans (cellStep_recordFault_first (k := 0) (p := 0) (c := .gantry code) hparked.record.1 hf
          ((hparked.leaving_eq t).trans hleaving) hholds)
        have hkept : (s.faultTaken code).parked.holds = s.holds := hparked.kept (p := .holds) (by decide)
        rw [newHold_of_holds hkept, hparked.now_eq, hkept, hparked.engine] at hrec
        obtain ⟨u, hu, hdone, hlast, hengine⟩ := event_cellStep hrec
        simp only [hf, if_true]
        simp only [Traveler.faulted, hf] at hlast
        exact ⟨u, hu, hdone, hlast, hengine⟩
      · have hrec := hparked.trans (cellStep_recordFault_later (k := 0) (p := 0) (c := .gantry code) hparked.record.1 hf)
        rw [hparked.engine] at hrec
        obtain ⟨u, hu, hdone, hlast, hengine⟩ := event_cellStep hrec
        simp only [hf, if_false]
        simp only [Traveler.faulted, hf, if_false, hholds] at hlast
        exact ⟨u, hu, hdone, hlast, hengine⟩
    · rw [gantryFault_stop hport hmsg, parkAgain_stays (s := s.faultTaken code) hstays]
      exact ⟨_, rfl, event_happened (happened_faultTaken s code), rfl⟩
    · obtain ⟨hdone, hengine⟩ := stopEnded_parks (s := s.faultTaken code) hm rfl rfl hcell hl
      rw [gantryFault_stop hport hmsg]
      exact ⟨_, rfl, event_happened ((happened_faultTaken s code).quiet hdone (by decide) (fun _ h => h)), hengine⟩

end Sys2Proof.Machine
end

section
/-! PROOF of the family 'other': the start of a program and the decisions of a stroke (R78 to R87; O34, O36, O37). -/

namespace Sys2Proof.Machine

variable {s v u : State} {t k n : Nat} {r r' : Traveler} {ks : List NoticeKind} {l : GantryLimits} {x : Stroke} {w : Window}
  {h : Header} {c : HeadConfig} {m : Lot} {d : Dispense} {e : StrokeEngine}

/-! ### A stroke taken up (R79) -/

/-- The cursors at stroke `k` and pass 0. -/
def Traveler.atStroke (r : Traveler) (k : Nat) : Traveler := { r with strokeCursor := k, passCursor := 0 }

def State.atStroke (s : State) (t k : Nat) : State := s.onTraveler t fun r => r.atStroke k

theorem cellStep_atStroke (k : Nat) (hr : s.traveler t = some r) :
    CellStep s (s.atStroke t k) t (r.atStroke k) [] s.engine := cellStep_onTraveler (fun r => r.atStroke k) hr

theorem recipeOf_atStroke (hr : s.traveler t = some r) : (s.atStroke t k).recipeOf (r.atStroke k) = s.recipeOf r := by
  have hrecipes : (s.atStroke t k).recipes = s.recipes := (cellStep_atStroke k hr).kept (p := .recipes) (by decide)
  rw [State.recipeOf, State.recipeOf, hrecipes]
  rfl

theorem takeStroke_dry (hr : s.traveler t = some r) (hx : nth (s.recipeOf r).strokes k = some x) (hv : x.valveOn = false) :
    s.takeStroke t k =
      (s.atStroke t k).headStep t k x fun c => (s.atStroke t k).travelStep t k (r.atStroke k) x c none := by
  have hlive := (cellStep_atStroke k hr).record.1
  have hset : (s.onTraveler t fun r => { r with strokeCursor := k, passCursor := 0 }) = s.atStroke t k := rfl
  unfold State.takeStroke
  dsimp only
  rw [hset, hlive]
  dsimp only
  rw [recipeOf_atStroke hr, hx]
  exact if_neg (by rw [hv]; decide)

/-- A spraying stroke, by its mask dependency (R81). -/
theorem takeStroke_sprays (hr : s.traveler t = some r) (hx : nth (s.recipeOf r).strokes k = some x) (hv : x.valveOn = true)
    (hw : nth (s.recipeOf r).windows x.window = some w) (hh : (s.recipeOf r).header = some h) :
    s.takeStroke t k = match maskStop (r.atStroke k) w with
      | some site => (((s.atStroke t k).countSkipped t).raiseHold t .partialCoat .strokeEngine .spray (some (.site site)), .skipped)
      | none => (s.atStroke t k).headStep t k x fun c => (s.atStroke t k).materialStep t k h.kind (r.atStroke k) x w c := by
  have hlive := (cellStep_atStroke k hr).record.1
  have hrecipe := recipeOf_atStroke (k := k) hr
  have hset : (s.onTraveler t fun r => { r with strokeCursor := k, passCursor := 0 }) = s.atStroke t k := rfl
  unfold State.takeStroke
  dsimp only
  rw [hset, hlive]
  dsimp only
  rw [hrecipe, hx]
  dsimp only
  rw [if_pos hv, hw, hh] <;> rfl

/-! ### The decisions (R81 to R85) -/

theorem maskStop_none (hs : w.mask = 0 ∨ nth r.sites w.mask = some .present ∨ nth r.sites w.mask = some .notFitted) :
    maskStop r w = none := by
  unfold maskStop
  by_cases h0 : w.mask = 0
  · exact if_pos h0
  · rcases hs with hs | hs | hs
    · exact absurd hs h0
    · simp [hs, SiteVerdict.lets]
    · simp [hs, SiteVerdict.lets]

theorem maskStop_some (h0 : w.mask ≠ 0) (hp : nth r.sites w.mask ≠ some .present) (hn : nth r.sites w.mask ≠ some .notFitted) :
    maskStop r w = some w.mask := by
  have hlets : ((nth r.sites w.mask).getD .unchecked).lets = false := by
    cases hv : nth r.sites w.mask with
    | none => rfl
    | some v =>
      cases v
      case present => exact absurd hv hp
      case notFitted => exact absurd hv hn
      all_goals rfl
  unfold maskStop
  rw [if_neg h0, if_neg (by rw [hlets]; decide)]

theorem headFor_some {b : LotTable} (hc : nth b.heads x.head = some (some c)) (h1 : c.zMin ≤ x.height) (h2 : x.height ≤ c.zMax) :
    b.headFor x = some c := by
  unfold LotTable.headFor
  rw [hc]
  exact if_pos (within_iff.2 ⟨h1, h2⟩)

theorem headFor_none {b : LotTable} (hc : ∀ c, ¬(nth b.heads x.head = some (some c) ∧ c.zMin ≤ x.height ∧ x.height ≤ c.zMax)) :
    b.headFor x = none := by
  unfold LotTable.headFor
  split
  · rfl
  · rename_i c hjoin
    refine if_neg fun hin => hc c ⟨Option.join_eq_some_iff.1 hjoin, within_iff.1 hin⟩

theorem headStep_some {next : HeadConfig → State × TakeUp} (hc : s.lots.headFor x = some c) : s.headStep t k x next = next c := by
  rw [State.headStep, hc]

theorem headStep_none {next : HeadConfig → State × TakeUp} (hc : s.lots.headFor x = none) :
    s.headStep t k x next = ((s.countSkipped t).recordFault t k 0 .head, .skipped) := by
  rw [State.headStep, hc]

theorem firstOutside_none {passes : List (Point × Point)}
    (hin : ∀ p ∈ passes, withinTravel l p.1 = true ∧ withinTravel l p.2 = true) : firstOutside l passes = none := by
  rw [firstOutside, List.findIdx?_eq_none_iff]
  intro p hp
  simp [hin p hp]

/-- A stroke in work, waiting for the MOVE to its first pass start. -/
def workAt (k : Nat) (x : Stroke) (c : HeadConfig) (results : Option Dispense) (passes : List (Point × Point)) : StrokeWork :=
  { stroke := k, head := x.head, transit := c.transit, results := results, passes := passes, phase := .toStart }

/-- The stroke engine with that stroke in work. -/
def takenUp (s : State) (e : StrokeEngine) (k : Nat) (x : Stroke) (c : HeadConfig) (results : Option Dispense)
    (passes : List (Point × Point)) (p : Point) : StrokeEngine :=
  { e with
    work := some (workAt k x c results passes),
    port := awaitingAnswer s (.move x.head p c.transit) p (e.moveTime p c.transit) }

theorem CellStep.takenUp_eq (hs : CellStep s v t r ks e) : takenUp v = takenUp s := by
  funext e k x c results passes p
  rw [takenUp, takenUp, hs.awaits]

/-- A stroke within the travel limits begins its first pass. -/
theorem travelStep_runs {p q : Point} (hl : s.engine.limits = some l)
    (hin : ∀ p ∈ machinePasses l r.shift x, withinTravel l p.1 = true ∧ withinTravel l p.2 = true)
    (hfirst : (machinePasses l r.shift x)[0]? = some (p, q)) (hr : s.traveler t = some r') (results : Option Dispense) :
    ∃ v, s.travelStep t k r x c results = (v, .runs) ∧
      CellStep s v t r' [] (takenUp s s.engine k x c results (machinePasses l r.shift x) p) := by
  refine ⟨_, ?_, cellStep_startPass (k := 0) (w := workAt k x c results (machinePasses l r.shift x)) hr hfirst⟩
  unfold State.travelStep
  rw [hl]
  dsimp only
  rw [firstOutside_none hin]
  rfl

/-! ### The material check (R83, R84) -/

theorem material_noLot {b : LotTable} {now : Seconds} {kind : Nat} (hm : nth b.map x.head = some none) :
    b.material now kind c x w = .error .noLot := by
  unfold LotTable.material
  rw [mountedOn_none hm]

theorem material_live {b : LotTable} {now : Seconds} {kind : Nat} (hn : nth b.map x.head = some (some n))
    (hm : nth b.records n = some (some m)) :
    b.material now kind c x w =
      if m.state = .expired then .error .expired
      else if m.kind ≠ kind then .error .kind
      else if m.remaining < (dispense c m.potLife m.derate (m.age now) x w).strokeVolume then .error .volume
      else .ok (m, dispense c m.potLife m.derate (m.age now) x w) := by
  unfold LotTable.material
  rw [mountedOn_live hn hm]

theorem materialStep_error {kind : Nat} {cause : MaterialCause} (hm : s.lots.material s.now kind c x w = .error cause) :
    s.materialStep t k kind r x w c =
      ((s.countSkipped t).raiseHold t .material .strokeEngine .spray (some (.material cause)), .programOver) := by
  unfold State.materialStep
  rw [hm]

/-- The lot of a stroke recorded as used (R83). -/
def State.lotRecorded (s : State) (t head : Nat) (id : Text) : State :=
  s.onTraveler t fun r => { r with lotsUsed := putNth r.lotsUsed head (some id) }

theorem cellStep_lotRecorded {head : Nat} {id : Text} (hr : s.traveler t = some r) :
    CellStep s (s.lotRecorded t head id) t { r with lotsUsed := putNth r.lotsUsed head (some id) } [] s.engine :=
  cellStep_onTraveler (fun r => { r with lotsUsed := putNth r.lotsUsed head (some id) }) hr

theorem materialStep_ok {kind : Nat} (hm : s.lots.material s.now kind c x w = .ok (m, d)) :
    s.materialStep t k kind r x w c =
      (if d.verdict = .nominal then s.lotRecorded t x.head m.id
      else (s.lotRecorded t x.head m.id).raiseHold t .coatDeviation .strokeEngine .spray
        (some (.deviation k d.verdict d.mark))).travelStep t k r x c (some d) := by
  unfold State.materialStep
  rw [hm]
  rfl

theorem lots_atStroke (hr : s.traveler t = some r) : (s.atStroke t k).lots = s.lots :=
  (cellStep_atStroke k hr).kept (p := .lots) (by decide)

/-- A spraying stroke that its mask and its head let through comes to its material check. -/
theorem takeStroke_checked (hr : s.traveler t = some r) (hx : nth (s.recipeOf r).strokes k = some x) (hv : x.valveOn = true)
    (hw : nth (s.recipeOf r).windows x.window = some w) (hh : (s.recipeOf r).header = some h)
    (hmask : maskStop r w = none) (hc : s.lots.headFor x = some c) :
    s.takeStroke t k = (s.atStroke t k).materialStep t k h.kind (r.atStroke k) x w c := by
  have hstops : maskStop (r.atStroke k) w = none := hmask
  rw [takeStroke_sprays hr hx hv hw hh, hstops]
  exact headStep_some (by rw [lots_atStroke hr]; exact hc)

/-- The material check of a stroke's lot at the line second of `s`. -/
theorem material_atStroke {kind : Nat} (hr : s.traveler t = some r) :
    (s.atStroke t k).lots.material (s.atStroke t k).now kind c x w = s.lots.material s.io.seconds kind c x w := by
  rw [lots_atStroke hr, (cellStep_atStroke k hr).now_eq]
  rfl

/-- A stroke that passes every decision runs. -/
theorem takeStroke_runs {p q : Point} {results : Option Dispense} {used : List (Option Text)} (hr : s.traveler t = some r)
    (hx : nth (s.recipeOf r).strokes k = some x) (hl : s.engine.limits = some l)
    (hfirst : (machinePasses l r.shift x)[0]? = some (p, q)) (hpasses : StrokePasses s r x c l results used) :
    ∃ v, s.takeStroke t k = (v, .runs) ∧ CellStep s v t { r.atStroke k with lotsUsed := used } []
      (takenUp s s.engine k x c results (machinePasses l r.shift x) p) := by
  obtain ⟨hc, hlow, hhigh, hin, hlot⟩ := hpasses
  have hat := cellStep_atStroke k hr
  have hlimits : (s.atStroke t k).engine.limits = some l := (congrArg StrokeEngine.limits hat.engine).trans hl
  have hhead : s.lots.headFor x = some c := headFor_some hc hlow hhigh
  rcases hlot with ⟨hv, rfl, rfl⟩ | ⟨h, w, n, m, hv, hh, hw, hmask, hn, hm, hstate, hkind, hvolume, hverdict, rfl, rfl⟩
  · obtain ⟨v, hrun, hstep⟩ := travelStep_runs (s := s.atStroke t k) (r := r.atStroke k) (k := k) (c := c) hlimits hin hfirst hat.record.1 none
    rw [takeStroke_dry hr hx hv, headStep_some (by rw [lots_atStroke hr]; exact hhead)]
    rw [hat.takenUp_eq, hat.engine] at hstep
    exact ⟨v, hrun, hat.trans hstep⟩
  · have hmaterial : s.lots.material s.io.seconds h.kind c x w =
        .ok (m, dispense c m.potLife m.derate (m.age s.io.seconds) x w) := by
      rw [material_live hn hm, if_neg hstate, if_neg (not_not.2 hkind)]
      exact if_neg (not_lt.2 hvolume)
    have hused := hat.trans (cellStep_lotRecorded (head := x.head) (id := m.id) hat.record.1)
    have hlimits' : ((s.atStroke t k).lotRecorded t x.head m.id).engine.limits = some l :=
      (congrArg StrokeEngine.limits hused.engine).trans hlimits
    obtain ⟨v, hrun, hstep⟩ := travelStep_runs (r := r.atStroke k) (k := k) (c := c) hlimits' hin hfirst hused.record.1
      (some (dispense c m.potLife m.derate (m.age s.io.seconds) x w))
    rw [takeStroke_checked hr hx hv hw hh (maskStop_none hmask) hhead, materialStep_ok ((material_atStroke hr).trans hmaterial),
      if_pos hverdict]
    rw [hused.takenUp_eq, hused.engine, hat.engine] at hstep
    exact ⟨v, hrun, hused.trans hstep⟩

/-! ### The next stroke taken up, or the program over (R79, R93) -/

theorem takeUp_runs (hk : s.takeStroke t k = (v, .runs)) (n : Nat) : State.takeUp t (n + 1) k s = v := by
  rw [State.takeUp, hk]

theorem takeUp_over (hk : s.takeStroke t k = (v, .skipped) ∨ s.takeStroke t k = (v, .programOver)) :
    State.takeUp t 1 k s = v.endProgram t := by
  rw [State.takeUp]
  rcases hk with hk | hk
  · rw [hk]; rfl
  · rw [hk]

/-! ### The passes in the machine frame (R85, R87) -/

/-- A point of the board frame in the machine frame. -/
def machinePoint (l : GantryLimits) (shift : Int × Int) (x : Stroke) (a b : Int) : Point :=
  { x := a + shift.1 + l.origin.x, y := b + shift.2 + l.origin.y, z := x.height + l.origin.z }

theorem machinePasses_get (l : GantryLimits) (shift : Int × Int) (hk : k < x.passes) :
    (machinePasses l shift x)[k]? =
      some (if x.serpentine = true ∧ k % 2 = 1 then
        (machinePoint l shift x (x.endX + k * x.stepX) (x.endY + k * x.stepY),
          machinePoint l shift x (x.startX + k * x.stepX) (x.startY + k * x.stepY))
      else (machinePoint l shift x (x.startX + k * x.stepX) (x.startY + k * x.stepY),
        machinePoint l shift x (x.endX + k * x.stepX) (x.endY + k * x.stepY))) := by
  have hget : (machinePasses l shift x)[k]? =
      some (translatePoint l shift (x.passPoints k).1 x.height, translatePoint l shift (x.passPoints k).2 x.height) := by
    rw [machinePasses, List.getElem?_map, List.getElem?_range hk]
    rfl
  rw [hget, Stroke.passPoints]
  by_cases hturn : x.serpentine = true ∧ k % 2 = 1
  · simp [hturn, translatePoint, machinePoint]
  · have hturn' : (x.serpentine && k % 2 == 1) = false := by simpa using hturn
    simp [hturn, hturn', translatePoint, machinePoint]

theorem machinePasses_first (l : GantryLimits) (shift : Int × Int) (hp : 1 ≤ x.passes) :
    (machinePasses l shift x)[0]? = some (machinePoint l shift x x.startX x.startY, machinePoint l shift x x.endX x.endY) := by
  rw [machinePasses_get l shift hp]
  simp

theorem withinTravel_iff {p : Point} : withinTravel l p = true ↔
    l.xMin ≤ p.x ∧ p.x ≤ l.xMax ∧ l.yMin ≤ p.y ∧ p.y ≤ l.yMax ∧ l.zMin ≤ p.z ∧ p.z ≤ l.zMax := by
  simp [withinTravel, withinInt, and_assoc]

/-! ### The start of a program (R78) -/

/-- The board of a program that begins. -/
def Traveler.begun (r : Traveler) : Traveler :=
  { r with program := .running, strokeCursor := 0, passCursor := 0,
           coat := { run := 0, skipped := 0, faults := 0, first := none }, sprayEnd := none }

/-- A program begun, before its first stroke is taken up. -/
def State.begun (s : State) (t : Nat) (r : Traveler) : State :=
  (s.setTraveler t r.begun).onEngine fun e => { e with cell := .running, work := none, lastClose := none }

theorem cellStep_begun (hr : s.traveler t = some r) :
    CellStep s (s.begun t r) t r.begun [] { s.engine with cell := .running, work := none, lastClose := none } := by
  have hset := cellStep_setTraveler r.begun hr
  exact hset.trans (cellStep_onEngine (fun e => { e with cell := .running, work := none, lastClose := none }) hset.record.1)

theorem startProgram_begins (hr : s.traveler t = some r) (hroute : r.route ≠ .reCure) :
    s.startProgram t = State.takeUp t
      ((programRange r (s.recipeOf r).strokes.length).2 + 1 - (programRange r (s.recipeOf r).strokes.length).1)
      (programRange r (s.recipeOf r).strokes.length).1 (s.begun t r) := by
  rw [State.startProgram, hr]
  exact if_neg hroute

theorem programStart_starts (hcell : s.engine.cell = .ready) (hm : s.mode = .run ∨ s.mode = .drain)
    (hport : s.engine.port = .quiet) (hboard : s.engine.board = some t) : exec .programStart s = event (s.startProgram t) := by
  have hexec : exec .programStart s = event (match s.programReady with | none => s | some t => s.startProgram t) := rfl
  have hready : s.programReady = some t := (if_pos ⟨hcell, hm, hport⟩).trans hboard
  rw [hexec, hready]

theorem programStart_stays (hn : s.engine.cell ≠ .ready ∨ s.mode = .idle ∨ s.mode = .halt ∨ s.engine.port ≠ .quiet) :
    exec .programStart s = event s := by
  have hexec : exec .programStart s = event (match s.programReady with | none => s | some t => s.startProgram t) := rfl
  have hready : s.programReady = none := if_neg fun ⟨hcell, hm, hport⟩ => by
    rcases hn with h | h | h | h
    · exact h hcell
    · rw [h] at hm; rcases hm with hm | hm <;> cases hm
    · rw [h] at hm; rcases hm with hm | hm <;> cases hm
    · exact h hport
  rw [hexec, hready]

/-- Settles O34: an empty program, no program, and a program whose first stroke passes every decision. -/
theorem programStarts : Obligations.ProgramStarts := by
  refine ⟨fun s => ⟨fun t r hcell hm hport hboard hr hroute => ?empty, fun h => ?stays⟩,
    ?sprays⟩
  case empty =>
    have hset := cellStep_setTraveler { r with sprayEnd := some s.now } hr
    have hdone := hset.trans (cellStep_onEngine (fun e => { e with cell := .done }) hset.record.1)
    rw [programStart_starts hcell hm hport hboard, State.startProgram, hr]
    dsimp only
    rw [if_pos hroute]
    exact event_cellStep' hdone
  case stays =>
    rw [programStart_stays h]
    exact event_done (Happened.refl s)
  case sprays =>
    intro s t n r h x w c m l first last d inside start hcell hm hport hboard hr hroute hrange hpasses hh hx hv hw hmask hc hlow
      hhigh hn hm' hstate hkind hvolume hverdict hl hin
    have hbegun := cellStep_begun hr
    have hprogram : programRange r (s.recipeOf r).strokes.length = (first, last) := by
      unfold programRange
      dsimp only [first, last]
      generalize r.route = route
      cases route <;> rfl
    have hfirst := machinePasses_first l r.shift hpasses
    have hpass : StrokePasses (s.begun t r) r.begun x c l (some d) (putNth r.lotsUsed x.head (some m.id)) :=
      ⟨hc, hlow, hhigh, fun p hp => ⟨withinTravel_iff.2 (hin p hp).1, withinTravel_iff.2 (hin p hp).2⟩,
        .inr ⟨h, w, n, m, hv, hh, hw, hmask, hn, hm', by rw [hstate]; decide, hkind, hvolume, hverdict, rfl, rfl⟩⟩
    obtain ⟨v, hrun, hstep⟩ := takeStroke_runs (s := s.begun t r) (k := first) hbegun.record.1 hx hl hfirst hpass
    have hcount : last + 1 - first = (last - first) + 1 := by omega
    rw [programStart_starts hcell hm hport hboard, startProgram_begins hr hroute, hprogram]
    dsimp only
    rw [hcount, takeUp_runs hrun]
    rw [hbegun.takenUp_eq, hbegun.engine] at hstep
    exact event_cellStep (hbegun.trans hstep)

end Sys2Proof.Machine
end

section
/-! PROOF of the family 'other': the decisions that stop a stroke, and the end of a pass that takes up the next (R79 to R93;
O36, O37). -/

namespace Sys2Proof.Machine

variable {s v u : State} {t k n : Nat} {r r' : Traveler} {ks : List NoticeKind} {l : GantryLimits} {x : Stroke} {w : Window}
  {h : Header} {c : HeadConfig} {m : Lot} {d : Dispense} {e : StrokeEngine}

/-! ### A stroke skipped (R79, R86) -/

/-- The stroke counted as skipped. -/
def Traveler.skipped (r : Traveler) : Traveler := { r with coat := { r.coat with skipped := r.coat.skipped + 1 } }

theorem cellStep_countSkipped (hr : s.traveler t = some r) : CellStep s (s.countSkipped t) t r.skipped [] s.engine :=
  cellStep_onTraveler (fun r => r.skipped) hr

/-- A raise on a board without holds. -/
theorem cellStep_raise_first {reason : HoldReason} {detail : HoldDetail} (hr : s.traveler t = some r)
    (hl : s.leaving t = false) (hh : r.holds = []) :
    CellStep s (s.raiseHold t reason .strokeEngine .spray (some detail)) t
      { r with holds := [newHold s s.now reason .strokeEngine .spray detail] }
      [.holdRaised r.tag t reason .strokeEngine .spray (s.holds.levelOf reason) (some detail)] s.engine := by
  have hraise := cellStep_raise (k := reason) (g := .spray) (d := detail) hr hl (by rw [hh]; exact List.Pairwise.nil)
  rw [hh] at hraise
  exact hraise

/-- A stroke skipped with a raise. -/
theorem cellStep_skip {reason : HoldReason} {detail : HoldDetail} (hr : s.traveler t = some r) (hl : s.leaving t = false)
    (hh : r.holds = []) :
    CellStep s (((s.atStroke t k).countSkipped t).raiseHold t reason .strokeEngine .spray (some detail)) t
      { (r.atStroke k).skipped with holds := [newHold s s.now reason .strokeEngine .spray detail] }
      [.holdRaised r.tag t reason .strokeEngine .spray (s.holds.levelOf reason) (some detail)] s.engine := by
  have hat := cellStep_atStroke k hr
  have hskip := hat.trans (cellStep_countSkipped hat.record.1)
  have hraise := cellStep_raise_first (reason := reason) (detail := detail) hskip.record.1 ((hskip.leaving_eq t).trans hl) hh
  have hkept : ((s.atStroke t k).countSkipped t).holds = s.holds := hskip.kept (p := .holds) (by decide)
  rw [newHold_of_holds hkept, hskip.now_eq, hkept, hskip.engine, hat.engine] at hraise
  exact hskip.trans hraise

/-- A stroke skipped with the first stroke fault of its program. -/
theorem cellStep_skipFault {p : Nat} {cause : StrokeFaultCause} (hr : s.traveler t = some r) (hf : r.coat.faults = 0)
    (hl : s.leaving t = false) (hh : r.holds = []) :
    CellStep s (((s.atStroke t k).countSkipped t).recordFault t k p cause) t
      { (r.atStroke k).skipped.faulted ⟨k, p, cause⟩ with
        holds := [newHold s s.now .strokeFault .strokeEngine .spray (.strokeFault k p cause)] }
      [.holdRaised r.tag t .strokeFault .strokeEngine .spray (s.holds.levelOf .strokeFault) (some (.strokeFault k p cause))]
      s.engine := by
  have hat := cellStep_atStroke k hr
  have hskip := hat.trans (cellStep_countSkipped hat.record.1)
  have hrec := cellStep_recordFault_first (k := k) (p := p) (c := cause) hskip.record.1 hf ((hskip.leaving_eq t).trans hl) hh
  have hkept : ((s.atStroke t k).countSkipped t).holds = s.holds := hskip.kept (p := .holds) (by decide)
  rw [newHold_of_holds hkept, hskip.now_eq, hkept, hskip.engine, hat.engine] at hrec
  exact hskip.trans hrec

/-- A stroke that its head does not let run (R82). -/
theorem takeStroke_noHead (hr : s.traveler t = some r) (hx : nth (s.recipeOf r).strokes k = some x)
    (hh : (s.recipeOf r).header = some h)
    (hs : x.valveOn = false ∨ ∃ w, x.valveOn = true ∧ nth (s.recipeOf r).windows x.window = some w ∧ maskStop r w = none)
    (hc : s.lots.headFor x = none) :
    s.takeStroke t k = (((s.atStroke t k).countSkipped t).recordFault t k 0 .head, .skipped) := by
  have hc' : (s.atStroke t k).lots.headFor x = none := by rw [lots_atStroke hr]; exact hc
  rcases hs with hv | ⟨w, hv, hw, hmask⟩
  · rw [takeStroke_dry hr hx hv, headStep_none hc']
  · have hstops : maskStop (r.atStroke k) w = none := hmask
    rw [takeStroke_sprays hr hx hv hw hh, hstops]
    exact headStep_none hc'

/-- A spraying stroke whose site's verdict stops it (R81). -/
theorem takeStroke_masked (hr : s.traveler t = some r) (hx : nth (s.recipeOf r).strokes k = some x) (hv : x.valveOn = true)
    (hw : nth (s.recipeOf r).windows x.window = some w) (hh : (s.recipeOf r).header = some h) {site : Nat}
    (hmask : maskStop r w = some site) :
    s.takeStroke t k =
      (((s.atStroke t k).countSkipped t).raiseHold t .partialCoat .strokeEngine .spray (some (.site site)), .skipped) := by
  have hstops : maskStop (r.atStroke k) w = some site := hmask
  rw [takeStroke_sprays hr hx hv hw hh, hstops]

/-- A spraying stroke that fails its material check (R83). -/
theorem takeStroke_noMaterial (hr : s.traveler t = some r) (hx : nth (s.recipeOf r).strokes k = some x) (hv : x.valveOn = true)
    (hw : nth (s.recipeOf r).windows x.window = some w) (hh : (s.recipeOf r).header = some h) (hmask : maskStop r w = none)
    (hc : s.lots.headFor x = some c) {cause : MaterialCause}
    (hm : s.lots.material s.io.seconds h.kind c x w = .error cause) :
    s.takeStroke t k = (((s.atStroke t k).countSkipped t).raiseHold t .material .strokeEngine .spray (some (.material cause)),
      .programOver) := by
  rw [takeStroke_checked hr hx hv hw hh hmask hc, materialStep_error ((material_atStroke hr).trans hm)]

/-- A dry stroke with a pass outside the travel limits (R85). -/
theorem takeStroke_outside (hr : s.traveler t = some r) (hx : nth (s.recipeOf r).strokes k = some x) (hv : x.valveOn = false)
    (hc : s.lots.headFor x = some c) (hl : s.engine.limits = some l) {p : Nat}
    (hout : firstOutside l (machinePasses l r.shift x) = some p) :
    s.takeStroke t k = (((s.atStroke t k).countSkipped t).recordFault t k p .travel, .skipped) := by
  have hlimits : (s.atStroke t k).engine.limits = some l :=
    (congrArg StrokeEngine.limits (cellStep_atStroke k hr).engine).trans hl
  have hout' : firstOutside l (machinePasses l (r.atStroke k).shift x) = some p := hout
  rw [takeStroke_dry hr hx hv, headStep_some (by rw [lots_atStroke hr]; exact hc), State.travelStep, hlimits]
  dsimp only
  rw [hout']

theorem firstOutside_some {before after : List (Point × Point)} {p : Point × Point}
    (hin : ∀ q ∈ before, withinTravel l q.1 = true ∧ withinTravel l q.2 = true)
    (hout : ¬(withinTravel l p.1 = true ∧ withinTravel l p.2 = true)) :
    firstOutside l (before ++ p :: after) = some before.length := by
  have hnone : before.findIdx? (fun q => !(withinTravel l q.1 && withinTravel l q.2)) = none := firstOutside_none hin
  have hp : (!(withinTravel l p.1 && withinTravel l p.2)) = true := by
    rw [Bool.not_eq_true', ← Bool.not_eq_true, Bool.and_eq_true]
    exact hout
  rw [firstOutside, List.findIdx?_append, hnone, List.findIdx?_cons, if_pos hp]
  simp

/-- A spraying stroke whose film deviates runs with COAT_DEVIATION raised (R84). -/
theorem takeStroke_deviates {p q : Point} (hr : s.traveler t = some r) (hx : nth (s.recipeOf r).strokes k = some x)
    (hv : x.valveOn = true) (hw : nth (s.recipeOf r).windows x.window = some w) (hh : (s.recipeOf r).header = some h)
    (hmask : maskStop r w = none) (hc : s.lots.headFor x = some c)
    (hm : s.lots.material s.io.seconds h.kind c x w = .ok (m, d)) (hdev : d.verdict ≠ .nominal) (hl : s.engine.limits = some l)
    (hin : ∀ p ∈ machinePasses l r.shift x, withinTravel l p.1 = true ∧ withinTravel l p.2 = true)
    (hfirst : (machinePasses l r.shift x)[0]? = some (p, q)) (hleaving : s.leaving t = false) (hholds : r.holds = []) :
    ∃ v, s.takeStroke t k = (v, .runs) ∧ CellStep s v t
      { r.atStroke k with
        lotsUsed := putNth r.lotsUsed x.head (some m.id)
        holds := [newHold s s.now .coatDeviation .strokeEngine .spray (.deviation k d.verdict d.mark)] }
      [.holdRaised r.tag t .coatDeviation .strokeEngine .spray (s.holds.levelOf .coatDeviation)
        (some (.deviation k d.verdict d.mark))]
      (takenUp s s.engine k x c (some d) (machinePasses l r.shift x) p) := by
  have hat := cellStep_atStroke k hr
  have hused := hat.trans (cellStep_lotRecorded (head := x.head) (id := m.id) hat.record.1)
  have hraise := cellStep_raise_first (reason := .coatDeviation) (detail := .deviation k d.verdict d.mark) hused.record.1
    ((hused.leaving_eq t).trans hleaving) hholds
  have hkept : ((s.atStroke t k).lotRecorded t x.head m.id).holds = s.holds := hused.kept (p := .holds) (by decide)
  rw [newHold_of_holds hkept, hused.now_eq, hkept, hused.engine, hat.engine] at hraise
  have hraised := hused.trans hraise
  obtain ⟨v, hrun, hstep⟩ := travelStep_runs (r := r.atStroke k) (k := k) (c := c)
    ((congrArg StrokeEngine.limits hraised.engine).trans hl) hin hfirst hraised.record.1 (some d)
  rw [takeStroke_checked hr hx hv hw hh hmask hc, materialStep_ok ((material_atStroke hr).trans hm), if_neg hdev]
  rw [hraised.takenUp_eq, hraised.engine] at hstep
  exact ⟨v, hrun, hraised.quiet hstep⟩

/-! ### Programs of one stroke -/

/-- The start of a program of the one stroke `k`. -/
theorem programStart_one (hcell : s.engine.cell = .ready) (hm : s.mode = .run ∨ s.mode = .drain)
    (hport : s.engine.port = .quiet) (hboard : s.engine.board = some t) (hr : s.traveler t = some r)
    (hroute : (r.route = .full ∧ (s.recipeOf r).strokes.length = 1 ∧ k = 1) ∨ r.route = .touchUp k k) :
    exec .programStart s = event (State.takeUp t 1 k (s.begun t r)) := by
  have hprogram : r.route ≠ .reCure ∧ programRange r (s.recipeOf r).strokes.length = (k, k) := by
    unfold programRange
    rcases hroute with ⟨hroute, hlen, rfl⟩ | hroute
    · rw [hroute, hlen]
      exact ⟨nofun, rfl⟩
    · rw [hroute]
      exact ⟨nofun, rfl⟩
  rw [programStart_starts hcell hm hport hboard, startProgram_begins hr hprogram.1, hprogram.2]
  dsimp only
  rw [Nat.add_sub_cancel_left]

/-- A program that ends with its only stroke: DONE, the cell PARKING, the park MOVE outstanding. -/
theorem begun_over (hr : s.traveler t = some r) (hl : s.engine.limits = some l)
    (hk : (s.begun t r).takeStroke t k = (v, .skipped) ∨ (s.begun t r).takeStroke t k = (v, .programOver))
    (hstep : CellStep (s.begun t r) v t r' ks (s.begun t r).engine) :
    CellStep s (State.takeUp t 1 k (s.begun t r)) t { r' with program := .done } ks { s.engine with
      cell := .parking, work := none, lastClose := none,
      port := awaitingAnswer s (.move 0 l.park l.parkSpeed) l.park (s.engine.moveTime l.park l.parkSpeed) } := by
  have hbegun := cellStep_begun hr
  rw [hbegun.engine] at hstep
  have hover := (hbegun.trans hstep).quiet (cellStep_endProgram hstep.record.1 ((congrArg StrokeEngine.limits hstep.engine).trans hl))
  rw [hstep.awaits, hbegun.awaits, hstep.engine] at hover
  rw [takeUp_over hk]
  exact hover

/-- A program whose only stroke runs. -/
theorem begun_runs {p : Point} {results : Option Dispense} (hr : s.traveler t = some r)
    (hk : (s.begun t r).takeStroke t k = (v, .runs))
    (hstep : CellStep (s.begun t r) v t r' ks
      (takenUp (s.begun t r) (s.begun t r).engine k x c results (machinePasses l r.shift x) p)) :
    CellStep s (State.takeUp t 1 k (s.begun t r)) t r' ks (takenUp s
      { s.engine with cell := .running, work := none, lastClose := none } k x c results (machinePasses l r.shift x) p) := by
  have hbegun := cellStep_begun hr
  rw [hbegun.takenUp_eq, hbegun.engine] at hstep
  rw [takeUp_runs hk]
  exact hbegun.trans hstep

theorem notOutside_iff {p : Point} :
    ¬(p.x < l.xMin ∨ l.xMax < p.x ∨ p.y < l.yMin ∨ l.yMax < p.y ∨ p.z < l.zMin ∨ l.zMax < p.z) ↔ withinTravel l p = true := by
  rw [withinTravel_iff]
  simp only [not_or, not_lt]

/-- Settles O36: each decision of a program's only stroke, and the passes in the machine frame. -/
theorem strokeDecisionsTaken : Obligations.StrokeDecisionsTaken := by
  refine ⟨?_, fun l r x k => ?passes⟩
  case passes =>
    intro point first second
    exact ⟨by simp [machinePasses], fun hk => machinePasses_get l r.shift hk, rfl⟩
  intro s t k r h x l hcell hm hport hboard hr hroute hh hx hpasses hl hleaving hholds raised hold overWith skipped faulted runs
    outside reachable configured masked sprays
  have hexec := programStart_one hcell hm hport hboard hr hroute
  have hb := (cellStep_begun hr).record.1
  have hfirst := machinePasses_first l r.shift hpasses
  have hwithin {passes : List (Point × Point)} (hin : reachable passes) (p : Point × Point) (hp : p ∈ passes) :
      withinTravel l p.1 = true ∧ withinTravel l p.2 = true :=
    ⟨notOutside_iff.1 (hin p hp).1, notOutside_iff.1 (hin p hp).2⟩
  have overAs {v : State} {r' : Traveler} {coat : CoatSummary} {reason : HoldReason} {detail : HoldDetail}
      (hk : (s.begun t r).takeStroke t k = (v, .skipped) ∨ (s.begun t r).takeStroke t k = (v, .programOver))
      (hstep : CellStep (s.begun t r) v t r' [raised reason detail] (s.begun t r).engine)
      (hr' : { r' with program := .done } = { r with
        program := .done, strokeCursor := k, passCursor := 0, coat := coat, sprayEnd := none, holds := [hold reason detail] }) :
      overWith coat reason detail := by
    obtain ⟨u, hu, hdone, hrec, hengine⟩ := event_cellStep (begun_over hr hl hk hstep)
    rw [hr'] at hrec
    exact ⟨u, hexec.trans hu, hdone, hrec, hengine⟩
  have skippedWith (reason : HoldReason) (detail : HoldDetail)
      (hk : let v := (((s.begun t r).atStroke t k).countSkipped t).raiseHold t reason .strokeEngine .spray (some detail)
        (s.begun t r).takeStroke t k = (v, .skipped) ∨ (s.begun t r).takeStroke t k = (v, .programOver)) :
      overWith skipped reason detail :=
    overAs hk (cellStep_skip (r := r.begun) (reason := reason) (detail := detail) hb hleaving hholds) rfl
  have faultedWith (p : Nat) (cause : StrokeFaultCause) (hk : (s.begun t r).takeStroke t k =
      ((((s.begun t r).atStroke t k).countSkipped t).recordFault t k p cause, .skipped)) :
      overWith (faulted p cause) .strokeFault (.strokeFault k p cause) :=
    overAs (.inl hk) (cellStep_skipFault (r := r.begun) (p := p) (cause := cause) hb rfl hleaving hholds) rfl
  have unmasked {w : Window} (hw : ¬masked w) : maskStop r.begun w = none := by
    refine maskStop_none ?_
    simp only [masked] at hw
    tauto
  have head {c : HeadConfig} (hc : configured c) : (s.begun t r).lots.headFor x = some c := headFor_some hc.1 hc.2.1 hc.2.2
  have runsAs {v : State} {r' : Traveler} {ks : List NoticeKind} {c : HeadConfig} {results : Option Dispense}
      {used : List (Option Text)} {hs : List Hold} (hk : (s.begun t r).takeStroke t k = (v, .runs))
      (hstep : CellStep (s.begun t r) v t r' ks (takenUp (s.begun t r) (s.begun t r).engine k x c results
        (machinePasses l r.shift x) (machinePoint l r.shift x x.startX x.startY)))
      (hr' : r' = { r with
        program := .running, strokeCursor := k, passCursor := 0, coat := { run := 0, skipped := 0, faults := 0, first := none },
        lotsUsed := used, sprayEnd := none, holds := hs }) : runs c results used hs ks := by
    obtain ⟨u, hu, hdone, hrec, hengine⟩ := event_cellStep (begun_runs hr hk hstep)
    rw [hr'] at hrec
    exact ⟨u, _, _, hexec.trans hu, hdone, hfirst, hrec, hengine⟩
  refine ⟨fun w hs hmask => ?masked, fun hs hc => ?noHead, fun w c hs hmask hc => ⟨fun hn => ?noLot, fun n m hn hm => ?lot⟩,
    fun c hv hc => ⟨fun hin => ?dryRuns, fun before p after hlist hin hout => ?travel⟩⟩
  case masked =>
    exact skippedWith _ _ (.inl (takeStroke_masked (s := s.begun t r) hb hx hs.1 hs.2 hh (maskStop_some hmask.1 hmask.2.1 hmask.2.2)))
  case noHead =>
    exact faultedWith _ _ (takeStroke_noHead (s := s.begun t r) hb hx hh
      (hs.imp id fun ⟨w, hw, hm⟩ => ⟨w, hw.1, hw.2, unmasked hm⟩) (headFor_none hc))
  case noLot =>
    exact skippedWith _ _ (.inr (takeStroke_noMaterial (s := s.begun t r) hb hx hs.1 hs.2 hh (unmasked hmask) (head hc)
      (material_noLot hn)))
  case lot =>
    intro d
    have hmaterial := material_live (c := c) (x := x) (w := w) (now := s.io.seconds) (kind := h.kind) hn hm
    have fails {cause : MaterialCause} (he : s.lots.material s.io.seconds h.kind c x w = .error cause) :
        overWith skipped .material (.material cause) :=
      skippedWith _ _ (.inr (takeStroke_noMaterial (s := s.begun t r) hb hx hs.1 hs.2 hh (unmasked hmask) (head hc) he))
    refine ⟨fun he => fails ?_, fun he hkind => fails ?_, fun he hkind hvolume => fails ?_,
      fun he hkind hvolume hverdict hin => ?_⟩
    · rw [hmaterial, if_pos he]
    · rw [hmaterial, if_neg he, if_pos hkind]
    · rw [hmaterial, if_neg he, if_neg (not_not.2 hkind)]
      exact if_pos hvolume
    · have hok : s.lots.material s.io.seconds h.kind c x w = .ok (m, d) := by
        rw [hmaterial, if_neg he, if_neg (not_not.2 hkind)]
        exact if_neg (not_lt.2 hvolume)
      obtain ⟨v, hrun, hstep⟩ := takeStroke_deviates (s := s.begun t r) (k := k) hb hx hs.1 hs.2 hh (unmasked hmask) (head hc)
        hok hverdict hl (hwithin hin) hfirst hleaving hholds
      exact runsAs hrun hstep rfl
  case dryRuns =>
    obtain ⟨v, hrun, hstep⟩ := takeStroke_runs (s := s.begun t r) (k := k) hb hx hl hfirst
      ⟨hc.1, hc.2.1, hc.2.2, hwithin hin, .inl ⟨hv, rfl, rfl⟩⟩
    exact runsAs hrun hstep (by rw [← hholds]; rfl)
  case travel =>
    have hout' : firstOutside l (machinePasses l r.begun.shift x) = some before.length := by
      refine (congrArg (firstOutside l) hlist).trans (firstOutside_some (hwithin hin) fun ⟨h1, h2⟩ => ?_)
      exact hout.elim (notOutside_iff.2 h1) (notOutside_iff.2 h2)
    exact faultedWith _ _ (takeStroke_outside (s := s.begun t r) hb hx hv (head hc) hl hout')

end Sys2Proof.Machine
end

section
/-! PROOF of the family 'other': PASS_DONE (R87, R92, R93; O37). -/

namespace Sys2Proof.Machine

variable {s v u : State} {t k n : Nat} {r r' : Traveler} {ks : List NoticeKind} {l : GantryLimits} {x : Stroke} {w : StrokeWork}
  {c : HeadConfig} {m : Lot} {o : Outstanding} {e : StrokeEngine}

/-! ### PASS_DONE -/

theorem passDone_pass {head speed : Nat} {a b : Int} (hp : s.engine.port = .waiting o) (hm : o.message = .pass head a b speed)
    (hcell : s.engine.cell = .running) (hboard : s.engine.board = some t) (hw : s.engine.work = some w) :
    exec .passDone s = event ((s.quiet o.target).closeValve.endPass t w) := by
  have hexec : exec .passDone s = event (match s.engine.port with
    | .waiting o =>
      match o.message with
      | .pass _ _ _ _ =>
        let s := (s.quiet o.target).closeValve
        match s.engine.cell, s.engine.board, s.engine.work with
        | .running, some t, some w => s.endPass t w
        | _, _, _ => s
      | .move _ _ _ | .stop => s
    | .quiet | .lost => s) := rfl
  have hclosed := closeValve_engine (s.quiet o.target)
  have hcell' : (s.quiet o.target).closeValve.engine.cell = .running := (congrArg StrokeEngine.cell hclosed).trans hcell
  have hboard' : (s.quiet o.target).closeValve.engine.board = some t := (congrArg StrokeEngine.board hclosed).trans hboard
  have hw' : (s.quiet o.target).closeValve.engine.work = some w := (congrArg StrokeEngine.work hclosed).trans hw
  rw [hexec, hp]
  dsimp only
  rw [hm]
  dsimp only
  rw [hcell', hboard', hw']

theorem passDone_discarded (h : s.engine.port = .quiet ∨ s.engine.port = .lost ∨
    (s.engine.port = .waiting o ∧ ∀ h a e v, o.message ≠ .pass h a e v)) : exec .passDone s = event s := by
  have hexec : exec .passDone s = event (match s.engine.port with
    | .waiting o =>
      match o.message with
      | .pass _ _ _ _ =>
        let s := (s.quiet o.target).closeValve
        match s.engine.cell, s.engine.board, s.engine.work with
        | .running, some t, some w => s.endPass t w
        | _, _, _ => s
      | .move _ _ _ | .stop => s
    | .quiet | .lost => s) := rfl
  rw [hexec]
  rcases h with h | h | ⟨h, hmsg⟩
  · rw [h] <;> rfl
  · rw [h] <;> rfl
  · rw [h]
    dsimp only
    cases hm : o.message with
    | pass h a e v => exact absurd hm (hmsg h a e v)
    | move h a v => rfl
    | stop => rfl

/-- The port QUIET with its reference point. -/
theorem cellStep_quiet {b : Point} (hr : s.traveler t = some r) (hb : o.target = some b) :
    CellStep s (s.quiet o.target) t r [] { s.engine with port := .quiet, reference := some b } := by
  rw [hb]
  exact cellStep_onEngine (fun e => { e with port := .quiet, reference := some b }) hr

theorem StrokePasses.strokeRun {results : Option Dispense} {used : List (Option Text)} (hr : s.traveler t = some r)
    (h : StrokePasses s r x c l results used) : StrokePasses (s.strokeRun t r) r.strokeRun x c l results used := by
  have hstep := cellStep_strokeRun hr
  have hlots : (s.strokeRun t r).lots = s.lots := hstep.kept (p := .lots) (by decide)
  have hrecipes : (s.strokeRun t r).recipes = s.recipes := hstep.kept (p := .recipes) (by decide)
  have hrecipe : (s.strokeRun t r).recipeOf r.strokeRun = s.recipeOf r := by
    rw [State.recipeOf, State.recipeOf, hrecipes]
    rfl
  have hseconds : (s.strokeRun t r).io.seconds = s.io.seconds := hstep.now_eq
  unfold StrokePasses
  rw [hlots, hrecipe, hseconds]
  exact h

/-- The end of the last pass of a stroke whose successor passes every decision. -/
theorem cellStep_nextStroke {p q : Point} {results : Option Dispense} {used : List (Option Text)} (hr : s.traveler t = some r)
    (hlen : w.passes.length ≤ r.passCursor + 1) (hlast : w.stroke < s.lastStroke t)
    (hx : nth (s.recipeOf r).strokes (w.stroke + 1) = some x) (hl : s.engine.limits = some l)
    (hfirst : (machinePasses l r.shift x)[0]? = some (p, q)) (hpasses : StrokePasses s r x c l results used) :
    CellStep s (s.endPass t w) t { r.strokeRun.atStroke (w.stroke + 1) with lotsUsed := used } []
      (takenUp s { s.engine with work := none } (w.stroke + 1) x c results (machinePasses l r.shift x) p) := by
  have hstep := cellStep_strokeRun hr
  have hrecipes : (s.strokeRun t r).recipes = s.recipes := hstep.kept (p := .recipes) (by decide)
  have hx' : nth ((s.strokeRun t r).recipeOf r.strokeRun).strokes (w.stroke + 1) = some x := by
    rw [State.recipeOf, hrecipes]
    exact hx
  obtain ⟨v, hrun, hnext⟩ := takeStroke_runs hstep.record.1 hx' ((congrArg StrokeEngine.limits hstep.engine).trans hl) hfirst
    (hpasses.strokeRun hr)
  obtain ⟨n, hn⟩ : ∃ n, s.lastStroke t - w.stroke = n + 1 := Nat.exists_eq_succ_of_ne_zero (Nat.sub_ne_zero_of_lt hlast)
  rw [endPass_last hr hlen, hn, takeUp_runs hrun]
  rw [hstep.takenUp_eq, hstep.engine] at hnext
  exact hstep.trans hnext

/-- Settles O37: the pass ended, then the next pass, the next stroke, or the end of the program. -/
theorem passDoneEndsPass : Obligations.PassDoneEndsPass := by
  refine ⟨fun s o head speed t x y r w l b => ⟨fun hport hmsg htarget hvalve hcell hboard hr hw => ⟨fun a e hp => ?next,
    fun hlen hlast hl => ?last⟩, fun h => ?discarded⟩, ?_⟩
  case discarded =>
    rw [passDone_discarded h]
    exact event_done (Happened.refl s)
  case next =>
    have hquiet := cellStep_quiet hr htarget
    have hnext := hquiet.trans (cellStep_endPass hquiet.record.1 hp)
    rw [hquiet.awaits, hquiet.engine, moveTime_known rfl] at hnext
    rw [passDone_pass hport hmsg hcell hboard hw, closeValve_none (s := s.quiet o.target) hvalve]
    exact event_cellStep hnext
  case last =>
    have hquiet := cellStep_quiet hr htarget
    have hover := hquiet.trans (cellStep_endPass_over (s := s.quiet o.target) hquiet.record.1 hlen hlast hl)
    rw [hquiet.awaits, hquiet.engine, moveTime_known rfl] at hover
    rw [passDone_pass hport hmsg hcell hboard hw, closeValve_none (s := s.quiet o.target) hvalve]
    exact event_cellStep hover
  intro s i o t r w l b p q k c results used hi hport htarget hvalve hcell hboard hr hw hlen hlast hk hl hfirst hpasses
  have hexec : exec i s = event ((s.quiet o.target).endPass t w) := by
    rcases hi with ⟨rfl, head, x, y, speed, hmsg⟩ | ⟨rfl, hphase, head, a, speed, hmsg, hhead⟩
    · rw [passDone_pass hport hmsg hcell hboard hw, closeValve_none (s := s.quiet o.target) hvalve]
    · rw [arrived_move hport hmsg, if_neg hhead, arrivedInProgram_along (s := s.quiet o.target) hcell hboard hw hphase]
  have hquiet := cellStep_quiet hr htarget
  have hnext := hquiet.trans (cellStep_nextStroke (s := s.quiet o.target) hquiet.record.1 hlen hlast hk hl hfirst hpasses)
  rw [hquiet.takenUp_eq, hquiet.engine, takenUp, moveTime_known rfl] at hnext
  rw [hexec]
  exact event_cellStep hnext

end Sys2Proof.Machine
end

section
/-! PROOF of the family 'other': the draws at the close of the valve (R51, R52, R88, R89; O39). -/

namespace Sys2Proof.Machine

variable {s u : State} {t n : Nat} {r : Traveler} {l : GantryLimits} {w : StrokeWork} {m : Lot} {o : Outstanding}
  {v : OpenValve} {e : StrokeEngine}

/-! ### A draw and its low warning (R51, R52) -/

/-- A lot after a draw of `a` nL. -/
def Lot.drawn (m : Lot) (a : Nat) : Lot :=
  { m with remaining := m.remaining - a, dispensed := m.dispensed + a,
           lowWarned := m.lowWarned || (decide (m.remaining - a < m.lowLimit) && !m.lowWarned) }

/-- The notice of a draw of `a` nL from lot record `n`. -/
def drawNotices (m : Lot) (n a : Nat) : List NoticeKind :=
  if decide (m.remaining - a < m.lowLimit) && !m.lowWarned then [.lotLow m.head n m.id (m.remaining - a) m.lowLimit] else []

theorem lotBecomes_setLot (a : Lot) (hm : nth s.lots.records n = some (some m)) : LotBecomes s (s.setLot n a) n a s.lots :=
  ⟨nth_putNth_live _ hm, fun _ hk => nth_putNth_other _ _ _ _ hk, rfl⟩

theorem LotBecomes.trans {w : State} {a b : Lot} {table : LotTable} (h : LotBecomes s w n a table)
    (h' : LotBecomes w u n b w.lots) : LotBecomes s u n b table := by
  obtain ⟨-, hothers, hrest⟩ := h
  obtain ⟨hlive, hothers', hrest'⟩ := h'
  exact ⟨hlive, fun k hk => (hothers' k hk).trans (hothers k hk), hrest'.trans (by rw [hrest])⟩

theorem happened_setLot (s : State) (n : Nat) (a : Lot) : Happened s (s.setLot n a) [] [.lots] := happened_onLots s _

theorem draw_live {head : Nat} (a : Nat) (hn : nth s.lots.map head = some (some n)) (hm : nth s.lots.records n = some (some m)) :
    Happened s (s.draw head a) (drawNotices m n a) [.lots] ∧ LotBecomes s (s.draw head a) n (m.drawn a) s.lots := by
  let taken : Lot := { m with remaining := m.remaining - a, dispensed := m.dispensed + a }
  have hset := lotBecomes_setLot taken hm
  have hdraw : s.draw head a = (s.setLot n taken).warnLow n := by
    rw [State.draw, mountedOn_live hn hm]
  rw [hdraw, warnLow_live hset.1]
  by_cases hlow : taken.remaining < taken.lowLimit ∧ taken.lowWarned = false
  · obtain ⟨hbelow, hfirst⟩ := hlow
    have hbelow' : m.remaining - a < m.lowLimit := hbelow
    have hfirst' : m.lowWarned = false := hfirst
    have hnotices : drawNotices m n a = [.lotLow m.head n m.id (m.remaining - a) m.lowLimit] := by
      simp [drawNotices, hbelow', hfirst']
    have hdrawn : m.drawn a = { taken with lowWarned := true } := by simp [Lot.drawn, taken, hbelow', hfirst']
    rw [if_pos ⟨hbelow, hfirst⟩, hnotices, hdrawn]
    exact ⟨((happened_setLot s n taken).join (happened_setLot _ n _) (by decide) (fun _ h => h)).join (happened_post _ _)
      (by decide) (by simp), LotBecomes.trans hset (lotBecomes_setLot { taken with lowWarned := true } hset.1)⟩
  · have hquiet : (decide (m.remaining - a < m.lowLimit) && !m.lowWarned) = false := by
      rw [← Bool.not_eq_true, Bool.and_eq_true, decide_eq_true_eq, Bool.not_eq_true']
      exact hlow
    have hnotices : drawNotices m n a = [] := by simp only [drawNotices, hquiet]; rfl
    have hdrawn : m.drawn a = taken := by simp only [Lot.drawn, hquiet, Bool.or_false]; rfl
    rw [if_neg hlow, hnotices, hdrawn]
    exact ⟨happened_setLot s n taken, hset⟩

/-! ### The close of an open valve (R88, R89) -/

theorem closeValve_draws (hv : s.engine.valve = some v) (hn : nth s.lots.map v.head = some (some n))
    (hm : nth s.lots.records n = some (some m)) :
    Happened s s.closeValve (drawNotices m n (v.flow * v.openMs)) [.lots, .engine] ∧
      LotBecomes s s.closeValve n (m.drawn (v.flow * v.openMs)) s.lots ∧
      s.closeValve.engine = { s.engine with valve := none, lastClose := some s.now } := by
  let shut := s.onEngine fun e => { e with valve := none, lastClose := some s.now }
  have hshut : s.closeValve = shut.draw v.head (v.flow * v.openMs) := by rw [State.closeValve, hv]
  obtain ⟨hdone, hlot⟩ := draw_live (s := shut) (v.flow * v.openMs) hn hm
  rw [hshut]
  have hengine : Happened s shut [] [.lots, .engine] := (happened_onEngine s _).mono (by simp)
  exact ⟨hengine.join hdone (by decide) (by simp), hlot, (draw_frame shut v.head _).2⟩

theorem valveTimerExpiry_open (hv : s.engine.valve = some v) :
    exec .valveTimerExpiry s =
      event (s.onEngine fun e => { e with valve := some { v with openMs := v.duration } }).closeValve := by
  have hexec : exec .valveTimerExpiry s = event (match s.engine.valve with
    | none => s
    | some v => (s.onEngine fun e => { e with valve := some { v with openMs := v.duration } }).closeValve) := rfl
  rw [hexec, hv]

theorem awaits_of_kept (h : KeptPart s u .clock) : awaitingAnswer u = awaitingAnswer s := by
  have hio : u.io = _ := h
  funext message p k
  rw [awaitingAnswer, awaitingAnswer, hio]

/-- The engine's work on a board after a draw. -/
theorem CellStep.afterDraw {x : State} {m' : Lot} {r' : Traveler} {ks ks' : List NoticeKind}
    (hdraw : Happened s x ks [.lots, .engine]) (hlot : LotBecomes s x n m' s.lots) (htable : x.table = s.table)
    (h : CellStep x u t r' ks' e) :
    Happened s u (ks ++ ks') [.table, .lots, .engine] ∧ LotBecomes s u n m' s.lots ∧ Rewritten s u t r' s.table ∧
      u.engine = e := by
  have hlots : u.lots = x.lots := h.kept (p := .lots) (by decide)
  obtain ⟨hlive, hothers, hrest⟩ := h.record
  refine ⟨hdraw.then (hdraw.now_eq (by decide)) h.happened (by simp), ?_,
    ⟨hlive, fun k hk => (hothers k hk).trans (traveler_of_table htable k), by rw [← htable]; exact hrest⟩, h.engine⟩
  unfold LotBecomes
  rw [hlots]
  exact hlot

/-- Settles O39: the draw at the close, then what the closing step does. -/
theorem valveCloseDrawsFromLot : Obligations.ValveCloseDrawsFromLot := by
  refine ⟨fun s v n m hv hn hm => ⟨?timer, fun hestop => ?assertion⟩,
    fun s o head speed t n x y r w l b v m hport hmsg htarget hv hcell hboard hr hw hl hn hm =>
      ⟨fun p e hp => ?passDone, fun code hf hleaving hholds => ?fault⟩⟩
  case timer =>
    let full := s.onEngine fun e => { e with valve := some { v with openMs := v.duration } }
    obtain ⟨hdone, hlot, hengine⟩ := closeValve_draws (s := full) (v := { v with openMs := v.duration }) rfl hn hm
    have hopen : Happened s full [] [.lots, .engine] := (happened_onEngine s _).mono (by simp)
    rw [valveTimerExpiry_open hv]
    exact ⟨_, rfl, event_happened (hopen.join hdone (by decide) (fun _ h => h)), hlot, hengine⟩
  case assertion =>
    let recognised := s.onIo fun io =>
      { io with estop := true, estopHanded := true, estopRun := 0, inputs := { io.inputs with estopLow := true } }
    have hexec : exec .estopAssertion s = event recognised.closeValve := congrArg event (if_neg (by rw [hestop]; decide))
    obtain ⟨hdone, hlot, hengine⟩ := closeValve_draws (s := recognised) hv hn hm
    have hio : recognised.closeValve.io = _ := hdone.kept .clock (by decide)
    have hmode : recognised.closeValve.mode = s.mode := (congrArg TravelerTable.mode (closeValve_table recognised) :)
    rw [hexec]
    refine ⟨_, rfl, ⟨event_happened ((happened_onIo s _).then rfl hdone (by simp)), hlot, hengine⟩, ?_⟩
    exact ⟨(congrArg LineIo.estop hio :), (congrArg LineIo.estopHanded hio :), hmode, (congrArg LineIo.timeouts hio :),
      (congrArg LineIo.seconds hio :), (congrArg LineIo.sensors hio :)⟩
  case passDone =>
    obtain ⟨hdone, hlot, hengine⟩ := closeValve_draws (s := s.quiet o.target) hv hn hm
    have hr' : (s.quiet o.target).closeValve.traveler t = some r := (traveler_of_table (closeValve_table _) t).trans hr
    have hquiet : Happened s (s.quiet o.target).closeValve (drawNotices m n (v.flow * v.openMs)) [.lots, .engine] :=
      (happened_onEngine s _).then rfl hdone (by simp)
    have hnext := cellStep_endPass hr' hp
    have hawaits : awaitingAnswer (s.quiet o.target).closeValve = awaitingAnswer s := awaits_of_kept (hdone.kept .clock (by decide))
    have href : (s.quiet o.target).closeValve.engine.reference = some b := (congrArg StrokeEngine.reference hengine).trans htarget
    rw [hawaits, moveTime_known href, hengine] at hnext
    obtain ⟨hall, hlots, hrec, hu⟩ := CellStep.afterDraw hquiet hlot (closeValve_table _) hnext
    rw [List.append_nil] at hall
    rw [passDone_pass hport hmsg hcell hboard hw]
    exact ⟨_, rfl, event_happened hall, hlots, hrec, hu.trans (by rw [← htarget]; rfl)⟩
  case fault =>
    intro d
    obtain ⟨hdone, hlot, hengine⟩ := closeValve_draws (s := s.faultTaken code) hv hn hm
    have htable : (s.faultTaken code).closeValve.table = s.table := closeValve_table _
    have hr' : (s.faultTaken code).closeValve.traveler t = some r := (traveler_of_table htable t).trans hr
    have hkept : (s.faultTaken code).closeValve.holds = s.holds := hdone.kept .holds (by decide)
    have hnow : (s.faultTaken code).closeValve.now = s.now := hdone.now_eq (by decide)
    have hleaves : (s.faultTaken code).closeValve.leaving t = false :=
      (leaving_of_transfers (congrArg TravelerTable.transfers htable)).trans hleaving
    have hquiet : Happened s (s.faultTaken code).closeValve (drawNotices m n (v.flow * v.openMs)) [.lots, .engine] :=
      (happened_faultTaken s code).then rfl hdone (by simp)
    have hlimits : (s.faultTaken code).closeValve.engine.limits = some l := (congrArg StrokeEngine.limits hengine).trans hl
    have href : (s.faultTaken code).closeValve.engine.reference = none := congrArg StrokeEngine.reference hengine
    have hover := cellStep_faultInProgram (s := s.faultTaken code) hcell hboard hr' hlimits
      (cellStep_recordFault_first (k := r.strokeCursor) (p := r.passCursor) (c := .gantry code) hr' hf hleaves hholds)
    rw [newHold_of_holds hkept, hnow, hkept, awaits_of_kept (hdone.kept .clock (by decide)), moveTime_unknown href hlimits,
      hengine] at hover
    obtain ⟨hall, hlots, hrec, hu⟩ := CellStep.afterDraw hquiet hlot htable hover
    simp only [Traveler.faulted, hf] at hrec
    rw [gantryFault_pass hport hmsg]
    exact ⟨_, rfl, event_happened hall, hlots, hrec, hu⟩

end Sys2Proof.Machine
end

section
/-! PROOF of the family 'other': the end of an inspection (R65 to R67, R139; O32). -/

namespace Sys2Proof.Machine

variable {s v u : State} {t : Nat} {r r' : Traveler} {x : Station} {i : Inspection} {hs hs' : List Hold} {o : Option Place}

/-! ### Raises one after another (R149) -/

theorem raiseNotices_append (tag : Text) (t : Nat) (l hs hs' : List Hold) :
    raiseNotices tag t l (hs ++ hs') = raiseNotices tag t l hs ++ raiseNotices tag t (holdsAfterRaises l hs) hs' := by
  induction hs generalizing l with
  | nil => rfl
  | cons h rest ih =>
    rw [List.cons_append, raiseNotices, raiseNotices, ih, List.append_assoc]
    rfl

theorem holdsAfterRaises_inOrder (hs : List Hold) {l : List Hold} (h : HoldsInOrder l) : HoldsInOrder (holdsAfterRaises l hs) := by
  induction hs generalizing l with
  | nil => exact h
  | cons k rest ih => exact ih (holdsAfterRaise_inOrder k h)

theorem Raised.trans (h : Raised s v t r hs) (h' : Raised v u t { r with holds := holdsAfterRaises r.holds hs } hs') :
    Raised s u t r (hs ++ hs') := by
  obtain ⟨hdone, hrec⟩ := h
  obtain ⟨hdone', hrec'⟩ := h'
  refine ⟨?_, ?_⟩
  · rw [raiseNotices_append]
    exact hdone.join hdone' (by decide) (fun _ hp => hp)
  · have hholds : holdsAfterRaises r.holds (hs ++ hs') = holdsAfterRaises (holdsAfterRaises r.holds hs) hs' := List.foldl_append
    rw [hholds]
    exact Rewritten.trans hrec hrec'

theorem Raised.kept (h : Raised s v t r hs) {p : Part} (hp : p ≠ .table) : KeptPart s v p :=
  h.1.kept p (by simpa using hp)

theorem Raised.leaving_eq (h : Raised s v t r hs) (n : Nat) : v.leaving n = s.leaving n :=
  leaving_of_transfers (congrArg TravelerTable.transfers h.2.2.2 :)

/-! ### The evaluation of the posts (R65, R139) -/

theorem siteFails_iff {y : MaskSite × SiteVerdict} :
    siteFails y = false ↔ (y.1.policy = .required → y.2 = .present ∨ y.2 = .notFitted) := by
  have hlets : y.2.lets = true ↔ y.2 = .present ∨ y.2 = .notFitted := by cases y.2 <;> simp [SiteVerdict.lets]
  rw [siteFails, ← hlets]
  by_cases hp : y.1.policy = .required <;> simp [hp]

theorem firstSiteFailing_none {sites : List MaskSite} {verdicts : List SiteVerdict}
    (h : ∀ y ∈ sites.zip verdicts, y.1.policy = .required → y.2 = .present ∨ y.2 = .notFitted) :
    firstSiteFailing sites verdicts = none := firstNth_none fun y hy => siteFails_iff.2 (h y hy)

theorem firstSiteFailing_some {sites : List MaskSite} {verdicts : List SiteVerdict} {before after : List (MaskSite × SiteVerdict)}
    {y : MaskSite × SiteVerdict} (hlist : sites.zip verdicts = before ++ y :: after)
    (hbefore : ∀ z ∈ before, z.1.policy = .required → z.2 = .present ∨ z.2 = .notFitted)
    (hy : ¬(y.1.policy = .required → y.2 = .present ∨ y.2 = .notFitted)) :
    firstSiteFailing sites verdicts = some (before.length + 1) := by
  have hnone : before.findIdx? siteFails = none :=
    List.findIdx?_eq_none_iff.2 fun z hz => siteFails_iff.2 (hbefore z hz)
  have hfails : siteFails y = true := by rwa [← Bool.not_eq_false, siteFails_iff]
  rw [firstSiteFailing, firstNth, hlist, List.findIdx?_append, hnone, List.findIdx?_cons, if_pos hfails]
  simp

theorem firstWindowFailing_none {l : List CoverageVerdict} (h : ∀ v ∈ l, v = .covered) (n : Nat) : firstWindowFailing n l = none := by
  induction l generalizing n with
  | nil => rfl
  | cons v rest ih =>
    rw [firstWindowFailing, if_pos (h v List.mem_cons_self)]
    exact ih (fun w hw => h w (List.mem_cons_of_mem _ hw)) _

theorem firstWindowFailing_some {before after : List CoverageVerdict} {v : CoverageVerdict} (hbefore : ∀ z ∈ before, z = .covered)
    (hv : v ≠ .covered) (n : Nat) : firstWindowFailing n (before ++ v :: after) = some (before.length + n, v) := by
  induction before generalizing n with
  | nil => rw [List.nil_append, firstWindowFailing, if_neg hv, List.length_nil, Nat.zero_add]
  | cons w rest ih =>
    rw [List.cons_append, firstWindowFailing, if_pos (hbefore w List.mem_cons_self),
      ih (fun z hz => hbefore z (List.mem_cons_of_mem _ hz)), List.length_cons, Nat.add_right_comm, Nat.add_assoc]

/-- The raises of an evaluation are made, and counted. -/
theorem evaluate_raises (hr : s.traveler t = some r) (hl : s.leaving t = false) (ho : HoldsInOrder r.holds)
    (he : EvaluationRaises s x r hs) : Raised s (s.evaluate x t).1 t r hs ∧ (s.evaluate x t).2 = hs.length := by
  cases x with
  | post =>
    have hpost : s.evaluate .post t = match firstWindowFailing 1 r.coverage with
        | none => (s, 0)
        | some (w, v) => (s.raiseHold t .coverage .maskVerification .postInspect (some (.coverage w v)), 1) := by
      rw [State.evaluate, State.evaluatePost, hr] <;> rfl
    rw [hpost]
    rcases he with ⟨hcovered, rfl⟩ | ⟨before, v, after, hlist, hbefore, hv, rfl⟩
    · rw [firstWindowFailing_none hcovered]
      exact ⟨raised_none hr, rfl⟩
    · rw [hlist, firstWindowFailing_some hbefore hv]
      exact ⟨raised_one _ _ _ _ hr hl ho, rfl⟩
  | pre =>
    obtain ⟨missing, hmissing, rfl⟩ := he
    let sited : State × Nat := match firstSiteFailing (s.recipeOf r).sites r.sites with
      | none => (s, 0)
      | some n => (s.raiseHold t .maskMissing .maskVerification .preInspect (some (.site n)), 1)
    have hpre : s.evaluate .pre t = match fiducialFails s.io.timeouts.fiducial r.fiducial with
        | none => sited
        | some c => (sited.1.raiseHold t .fiducial .maskVerification .preInspect (some (.fiducial c)), sited.2 + 1) := by
      rw [State.evaluate, State.evaluatePre, hr] <;> rfl
    have hsited : Raised s sited.1 t r missing ∧ sited.2 = missing.length := by
      dsimp only [sited]
      rcases hmissing with ⟨hpass, rfl⟩ | ⟨before, y, after, hlist, hbefore, hy, rfl⟩
      · rw [firstSiteFailing_none hpass]
        exact ⟨raised_none hr, rfl⟩
      · rw [firstSiteFailing_some hlist hbefore hy]
        exact ⟨raised_one _ _ _ _ hr hl ho, rfl⟩
    obtain ⟨hraised, hcount⟩ := hsited
    have hholds : sited.1.holds = s.holds := hraised.kept (p := .holds) nofun
    have hfiducial (c : FiducialCause) : Raised s (sited.1.raiseHold t .fiducial .maskVerification .preInspect (some (.fiducial c)))
        t r (missing ++ [newHold s s.io.seconds .fiducial .maskVerification .preInspect (.fiducial c)]) := by
      have hraise := raised_one .fiducial .maskVerification .preInspect (.fiducial c) hraised.2.1
        ((hraised.leaving_eq t).trans hl) (holdsAfterRaises_inOrder missing ho)
      rw [newHold_of_holds hholds, hraised.1.now_eq (by decide)] at hraise
      exact hraised.trans hraise
    rw [hpre]
    cases hf : r.fiducial with
    | none => exact ⟨hfiducial .notPosted, by rw [List.length_append, ← hcount]; rfl⟩
    | some f =>
      cases f with
      | notFound => exact ⟨hfiducial .notFound, by rw [List.length_append, ← hcount]; rfl⟩
      | offset dx dy =>
        by_cases hin : dx.natAbs ≤ s.io.timeouts.fiducial ∧ dy.natAbs ≤ s.io.timeouts.fiducial
        · have hpass : fiducialFails s.io.timeouts.fiducial (some (.offset dx dy)) = none :=
            if_neg (by rw [not_or, not_lt, not_lt]; exact hin)
          rw [hpass]
          dsimp only
          rw [if_pos hin, List.append_nil]
          exact ⟨hraised, hcount⟩
        · have hfail : fiducialFails s.io.timeouts.fiducial (some (.offset dx dy)) = some .limit :=
            if_pos (by rw [← not_le, ← not_le, ← not_and_or]; exact hin)
          rw [hfail]
          dsimp only
          rw [if_neg hin]
          exact ⟨hfiducial .limit, by rw [List.length_append, ← hcount]; rfl⟩

/-! ### The inspection ended, and the diverter's decision -/

theorem EvaluationRaises.kept (h : EvaluationRaises s x r hs) (hholds : v.holds = s.holds) (hseconds : v.io.seconds = s.io.seconds)
    (htimeouts : v.io.timeouts = s.io.timeouts) (hrecipes : v.recipes = s.recipes) (l : List Hold) :
    EvaluationRaises v x { r with claim := none, holds := l } hs := by
  have hnew (k : HoldReason) (d : HoldDetail) : newHold v v.io.seconds k .maskVerification (stationStage x) d =
      newHold s s.io.seconds k .maskVerification (stationStage x) d := by rw [newHold_of_holds hholds, hseconds]
  have hrecipe : v.recipeOf { r with claim := none, holds := l } = s.recipeOf r := by
    rw [State.recipeOf, State.recipeOf, hrecipes]
  unfold EvaluationRaises
  simp only [hnew, hrecipe, htimeouts]
  exact h

theorem endInspection_spec (c : EndCause) (hr : s.traveler i.traveler = some r) :
    let v := s.endInspection x i c
    Happened s v [] [.table, .mask] ∧ Rewritten s v i.traveler { r with claim := none } s.table ∧
      v.mask = s.mask.setRecord x (some { i with phase := .ended c, deadline := none }) := by
  intro v
  let w := s.setRecord x (some { i with phase := .ended c, deadline := none })
  have hset : Happened s w [] [.table, .mask] := (happened_onMask s _).mono (by simp)
  have hclaim := rewritten_onTraveler (s := w) (fun r => { r with claim := none }) hr
  have hmask : KeptPart w v .mask := (happened_onTraveler w i.traveler _).kept .mask (by decide)
  exact ⟨hset.join (happened_onTraveler w _ _) (by decide) (by simp), hclaim, hmask⟩

theorem setRecord_record (m : MaskUnit) (x y : Station) (i : Option Inspection) :
    (m.setRecord x i).record y = if y = x then i else m.record y := by
  cases x <;> cases y <;> rfl

theorem WaySet.over (h : WaySet v u x o) (hclock : KeptPart s v .clock) : WaySet s u x o := by
  have hv : v.io = _ := hclock
  refine ⟨fun hn => ?_, fun hn => ?_⟩
  · have hu : u.io = _ := h.1 hn
    refine Eq.trans hu ?_
    rw [hv]
  · have hu : u.io = _ := h.2 hn
    refine Eq.trans hu ?_
    rw [hv]
    cases o with
    | none => exact absurd rfl hn
    | some p => cases x <;> cases p <;> rfl

theorem WaySet.relit (h : WaySet s u x o) : WaySet s u.relight x o :=
  ⟨fun hn => (congrArg (fun io : LineIo => { io with outputs :=
      { io.outputs with green := u.greenLamp, amber := u.amberLamp, red := u.redLamp } }) (h.1 hn) :),
    fun hn => outputsBecome_relight (h.2 hn)⟩

theorem vacant_cell_of_rewritten (hr : s.traveler t = some r) (hstage : r.stage ≠ .spray) {b : Traveler} (hb : b.stage ≠ .spray)
    (h : Rewritten s v t b s.table) : v.vacant .cell = s.vacant .cell := by
  have hafter := vacant_cell_after (l := s.table.transfers) h hb
  have hbefore := vacant_cell_after (l := s.table.transfers) (Rewritten.refl hr) hstage
  exact Bool.eq_iff_iff.2 (hafter.trans hbefore.symm)

/-- The decision for a board whose inspection has ended. -/
theorem ended_decides {b : Traveler} {ended : Inspection} {ks : List NoticeKind} (hr : s.traveler t = some r)
    (hstage : r.stage = stationStage x) (hdone : Happened s v ks [.table, .mask]) (hrec : Rewritten s v t b s.table)
    (hb : b.stage = stationStage x) (hplace : b.place = .present)
    (hmask : v.mask = s.mask.setRecord x (some ended)) (hphase : ended.phase ≠ .isOpen) (hnames : ended.traveler = t)
    (hclear : ∀ e ∈ s.table.transfers, e.source ≠ stationPlace x ∧ e.dest ≠ stationPlace x ∧ e.traveler ≠ t)
    (hd : DiverterSends x s.mode s.holds.shelf (s.vacant .cell = true) b.holds o) (hc : s.WayClear o) :
    Happened s (v.decideAt x) (ks ++ sentNotices b t o) [.table, .mask, .engine, .holds, .clock] ∧
      (v.decideAt x).record x = some ended ∧ (∀ y, y ≠ x → (v.decideAt x).record y = s.record y) ∧
      Sent s (v.decideAt x) x t b s.table s.engine s.holds.shelf o ∧ WaySet s (v.decideAt x) x o := by
  have hclock : KeptPart s v .clock := hdone.kept .clock (by decide)
  have hio : v.io = _ := hclock
  have hholds : v.holds = s.holds := hdone.kept .holds (by decide)
  have hengine : v.engine = s.engine := hdone.kept .engine (by decide)
  have htransfers : v.table.transfers = s.table.transfers := (congrArg TravelerTable.transfers hrec.2.2 :)
  have hmode : v.mode = s.mode := (congrArg TravelerTable.mode hrec.2.2 :)
  have hspray : stationStage x ≠ .spray := by cases x <;> exact nofun
  have hvacant : v.vacant .cell = s.vacant .cell :=
    vacant_cell_of_rewritten hr (by rw [hstage]; exact hspray) (by rw [hb]; exact hspray) hrec
  have hrecord (y : Station) : v.record y = if y = x then some ended else s.record y := by
    rw [State.record, hmask, setRecord_record]
    rfl
  have hw : v.Waits x t b := by
    refine ⟨⟨ended, (hrecord x).trans (if_pos rfl), hnames, hphase⟩, hrec.1, hb, hplace, fun e he => hclear e ?_⟩
    rwa [htransfers] at he
  have hway' : v.WayClear o := fun p hp => by
    rw [State.occupied, hio]
    exact hc p hp
  obtain ⟨hdecided, hsent, hway⟩ := decideAt_sends hw (by rw [hmode, hholds, hvacant]; exact hd) hway'
  have hkept : (v.decideAt x).mask = v.mask := hdecided.kept .mask (by decide)
  have hrecord' (y : Station) : (v.decideAt x).record y = if y = x then some ended else s.record y := by
    rw [State.record, hkept]
    exact hrecord y
  have hsent' := Sent.over hrec hsent (by rw [hio]) (by rw [hio]) (hholds.trans rfl)
  rw [hengine] at hsent'
  exact ⟨hdone.then (hdone.now_eq (by decide)) hdecided (by simp), (hrecord' x).trans (if_pos rfl),
    fun y hy => (hrecord' y).trans (if_neg hy), hsent', WaySet.over hway hclock⟩

/-- The raises made after an inspection has ended. -/
theorem ended_raises (c : EndCause) (hr : s.traveler i.traveler = some r)
    (h : Raised (s.endInspection x i c) v i.traveler { r with claim := none } hs) :
    Happened s v (raiseNotices r.tag i.traveler r.holds hs) [.table, .mask] ∧
      Rewritten s v i.traveler { r with claim := none, holds := holdsAfterRaises r.holds hs } s.table ∧
      v.mask = s.mask.setRecord x (some { i with phase := .ended c, deadline := none }) := by
  obtain ⟨hended, hrec, hmask⟩ := endInspection_spec (x := x) c hr
  have hkept : v.mask = (s.endInspection x i c).mask := h.kept (p := .mask) nofun
  exact ⟨hended.join h.1 (by decide) (by simp), Rewritten.trans hrec h.2, hkept.trans hmask⟩

theorem leaving_of_absent (h : ∀ e ∈ s.table.transfers, e.traveler ≠ t) : s.leaving t = false := by
  rw [State.leaving, List.any_eq_false]
  intro e he
  simp [h e he]

/-- Settles O32: the record ended, the posts evaluated, then the diverter's decision. -/
theorem inspectionsEnd : Obligations.InspectionsEnd := by
  refine ⟨?_, fun s x i r d hi => ⟨?expires, fun h => ?stays⟩⟩
  case stays =>
    have hexec : exec (.inspectionTimerExpiry x) s =
      event (match s.inspectionExpired x with | none => s | some i => s.expireInspection x i) := rfl
    have hnone : s.inspectionExpired x = none := by
      rw [State.inspectionExpired, hi]
      rcases h with h | ⟨h1, h2⟩
      · simp [Option.filter, h]
      · have hnow : reached s.now d = false := h2
        simp [Option.filter, h1, hnow]
    rw [hexec, hnone]
    exact event_done (Happened.refl s)
  case expires =>
    intro hopen hdeadline hreached hr hstage hplace hclear hholds hs o hraises timeout b hd hc
    obtain ⟨hended, hrec, -⟩ := endInspection_spec (x := x) .expired hr
    let v := s.endInspection x i .expired
    have hclock : v.io = _ := hended.kept .clock (by decide)
    have hlevels : v.holds = s.holds := hended.kept .holds (by decide)
    have hrecipes : v.recipes = s.recipes := hended.kept .recipes (by decide)
    have hleaving : v.leaving i.traveler = false :=
      (leaving_of_transfers (congrArg TravelerTable.transfers hrec.2.2 :)).trans
        (leaving_of_absent fun e he => (hclear e he).2.2)
    have htimeout := raised_one .inspectTimeout .maskVerification (stationStage x) (.station x) hrec.1 hleaving hholds
    rw [newHold_of_holds hlevels, hended.now_eq (by decide)] at htimeout
    let w := v.raiseHold i.traveler .inspectTimeout .maskVerification (stationStage x) (some (.station x))
    have hclock' : w.io = _ := htimeout.kept (p := .clock) nofun
    have hlevels' : w.holds = v.holds := htimeout.kept (p := .holds) nofun
    have hrecipes' : w.recipes = v.recipes := htimeout.kept (p := .recipes) nofun
    have hraises' : EvaluationRaises w x { r with claim := none, holds := holdsAfterRaises r.holds [timeout] } hs :=
      hraises.kept (hlevels'.trans hlevels) (by rw [hclock', hclock]) (by rw [hclock', hclock]) (hrecipes'.trans hrecipes) _
    obtain ⟨hevaluated, -⟩ := evaluate_raises htimeout.2.1 ((htimeout.leaving_eq _).trans hleaving)
      (holdsAfterRaises_inOrder [timeout] hholds) hraises'
    obtain ⟨hdone, hrec', hmask⟩ := ended_raises .expired hr (htimeout.trans hevaluated)
    let posted := (w.evaluate x i.traveler).1.post (.inspectAbandoned x r.tag i.traveler r.claim (postedCount x r))
    have hposted : Happened s posted _ [.table, .mask] := hdone.join (happened_post _ _) (by decide) (by simp)
    obtain ⟨hu, hended, hothers, hsent, hway⟩ := ended_decides (v := posted) hr hstage hposted hrec' hstage hplace hmask nofun rfl
      hclear hd hc
    have hexpired : s.inspectionExpired x = some i := by
      have hnow : reached s.now d = true := hreached
      rw [State.inspectionExpired, hi]
      simp [Option.filter, hopen, hdeadline, hnow]
    have hexpires : s.expireInspection x i = posted.decideAt x := by
      rw [State.expireInspection, hr]
    have hexec : exec (.inspectionTimerExpiry x) s =
      event (match s.inspectionExpired x with | none => s | some i => s.expireInspection x i) := rfl
    rw [hexec, hexpired]
    dsimp only
    rw [hexpires]
    exact ⟨_, rfl, event_happened hu, hended, hothers, hsent, hway.relit⟩
  intro s q tag t r x i hs o htakes hf ht hclaim hi hit hst hstage hplace hclear hholds hraises b hd hc
  subst hit
  have hr : (s.inServiceOf q).traveler i.traveler = some r := tagged_live ht
  obtain ⟨hended, hrec, -⟩ := endInspection_spec (s := s.inServiceOf q) (x := x) .completed hr
  let v := (s.inServiceOf q).endInspection x i .completed
  have hclock : v.io = _ := hended.kept .clock (by decide)
  have hleaving : v.leaving i.traveler = false :=
    (leaving_of_transfers (congrArg TravelerTable.transfers hrec.2.2 :)).trans
      (leaving_of_absent (s := s.inServiceOf q) fun e he => (hclear e he).2.2)
  have hraises' : EvaluationRaises v x { r with claim := none } hs :=
    hraises.kept (hended.kept .holds (by decide)) (congrArg LineIo.seconds hclock :) (congrArg LineIo.timeouts hclock :) (hended.kept .recipes (by decide)) r.holds
  obtain ⟨hevaluated, hcount⟩ := evaluate_raises hrec.1 hleaving hholds hraises'
  obtain ⟨hdone, hrec', hmask⟩ := ended_raises (s := s.inServiceOf q) .completed hr hevaluated
  obtain ⟨hu, hended, hothers, hsent, hway⟩ := ended_decides (s := s.inServiceOf q) hr hstage hdone hrec' hstage hplace hmask nofun
    rfl hclear hd hc
  have hown : ownComplete q.link tag (s.inServiceOf q) = accept ((v.evaluate x i.traveler).1.decideAt x) [u1 hs.length] := by
    have hst' : (s.inServiceOf q).stationOf i.traveler = some x := hst
    have hi' : (s.inServiceOf q).record x = some i := hi
    rw [ownComplete, withClaim_live (s := s.inServiceOf q) _ hf ht, if_pos hclaim, hst']
    dsimp only
    rw [hi', ← hcount]
  obtain ⟨hexec, hdone'⟩ := request_done 28 (owner := fun _ => ownComplete q.link tag) htakes hown hu
  exact ⟨_, hexec, hdone', hended, hothers, hsent, hway.answered⟩

end Sys2Proof.Machine
end

section
/-! PROOF of the family 'other': what an entry into HALT does to the cell, the ways and the timers (R7, R10, R11, R91, R95,
R96; O16). -/

namespace Sys2Proof.Machine

variable {s v w u : State} {t n : Nat} {r : Traveler} {c : HaltCause} {x : Option HaltDetail} {ks : List NoticeKind}
  {m : Lot} {a : OpenValve}

/-! ### What a stretch may change, whatever it posts -/

/-- Between `s` and `u` some notices were posted, and every part but those named is as it was. -/
def Touched (s u : State) (c : List Part) : Prop := ∃ ks, Happened s u ks c

theorem Happened.touched {c : List Part} (h : Happened s u ks c) : Touched s u c := ⟨ks, h⟩

theorem Touched.refl (s : State) (c : List Part) : Touched s s c := ⟨[], (Happened.refl s).mono (by simp)⟩

theorem Touched.join {c d : List Part} (h : Touched s v c) (h' : Touched v u d) (hc : Part.clock ∉ c) (hd : ∀ p ∈ d, p ∈ c) :
    Touched s u c := by
  obtain ⟨ks, h⟩ := h
  obtain ⟨ks', h'⟩ := h'
  exact ⟨ks ++ ks', h.join h' hc hd⟩

theorem touched_raiseHold (s : State) (t : Nat) (k : HoldReason) (who : Raiser) (g : Stage) (d : Option HoldDetail) :
    Touched s (s.raiseHold t k who g d) [.table] := by
  have opening (r : Traveler) (n : NoticeKind) : Touched s ((s.setTraveler t r).post n) [.table] :=
    ((happened_setTraveler s t r).join (happened_post _ n) (by decide) (by simp)).touched
  unfold State.raiseHold
  split
  · exact Touched.refl s _
  · split
    · exact Touched.refl s _
    · dsimp only
      split
      · exact opening _ _
      · split
        · exact (happened_setTraveler s t _).touched
        · exact opening _ _

theorem touched_warnLow (s : State) (n : Nat) : Touched s (s.warnLow n) [.lots] := by
  unfold State.warnLow
  split
  · exact Touched.refl s _
  · split
    · exact ((happened_setLot s n _).join (happened_post _ _) (by decide) (by simp)).touched
    · exact Touched.refl s _

theorem touched_draw (s : State) (head k : Nat) : Touched s (s.draw head k) [.lots] := by
  unfold State.draw
  split
  · exact Touched.refl s _
  · exact (happened_setLot s _ _).touched.join (touched_warnLow _ _) (by decide) (by simp)

theorem touched_closeValve (s : State) : Touched s s.closeValve [.lots, .engine] := by
  unfold State.closeValve
  split
  · exact Touched.refl s _
  · exact ((happened_onEngine s _).mono (by simp)).touched.join (touched_draw _ _ _) (by decide) (by simp)

/-! ### STOP at an entry into HALT (R95, R96) -/

/-- The engine `e` with STOP sent over an outstanding MOVE or PASS. -/
def stopSentEngine (s : State) (e : StrokeEngine) : StrokeEngine :=
  match e.port with
  | .waiting o =>
    if o.message = .stop then e
    else
      { e with reference := none,
               port := .waiting { message := .stop, target := none, budget := s.io.timeouts.margin, elapsed := 0 } }
  | .quiet | .lost => e

theorem stopMotion_spec (s : State) :
    Happened s s.stopMotion [] [.engine] ∧ s.stopMotion.engine = stopSentEngine s s.engine := by
  unfold State.stopMotion stopSentEngine
  cases hp : s.engine.port with
  | waiting o =>
    dsimp only
    by_cases hm : o.message = .stop
    · rw [if_pos hm, if_pos hm]
      exact ⟨(Happened.refl s).mono (by simp), rfl⟩
    · rw [if_neg hm, if_neg hm]
      have hbudget : 0 + s.io.timeouts.margin = s.io.timeouts.margin := Nat.zero_add _
      refine ⟨(happened_onEngine s _).quiet (happened_onEngine _ _) (by decide) (fun _ h => h), ?_⟩
      rw [← hbudget]
      rfl
  | quiet | lost => exact ⟨(Happened.refl s).mono (by simp), rfl⟩

theorem stopSentEngine_shut (s : State) (e : StrokeEngine) (y : Option Seconds) :
    stopSentEngine s { e with valve := none, lastClose := y } = { stopSentEngine s e with valve := none, lastClose := y } := by
  obtain ⟨cell, board, port, reference, lastFault, limits, valve, lastClose, work⟩ := e
  cases port with
  | waiting o =>
    unfold stopSentEngine
    dsimp only
    split <;> rfl
  | quiet | lost => rfl

/-! ### The stroke engine at an entry into HALT -/

theorem haltEngine_idle (hc : s.engine.cell ≠ .running) :
    Happened s s.haltEngine [] [.engine] ∧
      s.haltEngine.engine = if s.engine.cell = .parking then stopSentEngine s s.engine else s.engine := by
  unfold State.haltEngine
  split
  · rename_i hcell _
    exact absurd hcell hc
  · rename_i hcell
    rw [if_pos hcell]
    exact stopMotion_spec s
  · rename_i hpark _
    rw [if_neg hpark]
    exact ⟨(Happened.refl s).mono (by simp), rfl⟩

/-- The board of a program that a HALT aborts. -/
def Traveler.aborted (r : Traveler) (stamp : Seconds) : Traveler := { r with program := .aborted, sprayEnd := some stamp }

/-- The record of SPRAY_INTERRUPTED with the cursors of the board. -/
def interruptedHold (s : State) (r : Traveler) : Hold :=
  newHold s s.io.seconds .sprayInterrupted .strokeEngine .spray (.cursors r.strokeCursor r.passCursor)

/-- A running program aborted, once its valve is shut. -/
theorem haltEngine_running (hc : s.engine.cell = .running) (hboard : s.engine.board = some t)
    (hr : s.closeValve.traveler t = some r) (hl : s.closeValve.leaving t = false) (ho : HoldsInOrder r.holds) :
    CellStep s.closeValve s.haltEngine t
      { r.aborted s.closeValve.now with holds := holdsAfterRaise r.holds (interruptedHold s.closeValve r) }
      (raiseNotices r.tag t r.holds [interruptedHold s.closeValve r])
      { stopSentEngine s.closeValve s.closeValve.engine with cell := .aborted, work := none } := by
  obtain ⟨hstop, hengine⟩ := stopMotion_spec s.closeValve
  have htable : s.closeValve.stopMotion.table = s.closeValve.table := hstop.kept .table (by decide)
  have hstopped : CellStep s.closeValve s.closeValve.stopMotion t r [] (stopSentEngine s.closeValve s.closeValve.engine) :=
    ⟨hstop.mono (by simp), Rewritten.of_table (Rewritten.refl hr) htable, hengine⟩
  let v := s.closeValve.stopMotion
  have habort := hstopped.trans (cellStep_onTraveler
    (fun r => { r with program := .aborted, sprayEnd := some s.closeValve.now }) hstopped.record.1)
  let w := v.onTraveler t fun r => { r with program := .aborted, sprayEnd := some s.closeValve.now }
  have hnow : v.now = s.closeValve.now := hstop.now_eq (by decide)
  have hraise := habort.trans (cellStep_raise (k := .sprayInterrupted) (g := .spray)
    (d := .cursors r.strokeCursor r.passCursor) habort.record.1 ((habort.leaving_eq t).trans hl) ho)
  have hinterrupt : w.raiseInterrupted t = w.raiseHold t .sprayInterrupted .strokeEngine .spray
      (some (.cursors r.strokeCursor r.passCursor)) := by rw [State.raiseInterrupted, habort.record.1]
  have hover := hraise.quiet (cellStep_onEngine (fun e => { e with cell := .aborted, work := none }) hraise.record.1)
  rw [hraise.engine, habort.engine, hengine] at hover
  rw [habort.now_eq, newHold_of_holds (habort.kept (p := .holds) (by decide))] at hover
  have hhalt : s.haltEngine = (w.raiseInterrupted t).onEngine fun e => { e with cell := .aborted, work := none } := by
    rw [State.haltEngine, hc, hboard]
    dsimp only
    rw [hnow]
  rw [hhalt, hinterrupt]
  exact hover

theorem touched_haltEngine (s : State) : Touched s s.haltEngine [.table, .lots, .engine] := by
  unfold State.haltEngine
  split
  · rename_i t _ _
    let y := s.closeValve.stopMotion
    let w := y.onTraveler t fun r => { r with program := .aborted, sprayEnd := some y.now }
    have hshut : Touched s s.closeValve [.table, .lots, .engine] := by
      obtain ⟨ks, h⟩ := touched_closeValve s
      exact (h.mono (by simp)).touched
    have hstop := hshut.join (stopMotion_spec s.closeValve).1.touched (by decide) (by simp)
    have habort := hstop.join (happened_onTraveler y t fun r => { r with program := .aborted, sprayEnd := some y.now }).touched (by decide) (by simp)
    have hraise : Touched s (w.raiseInterrupted t) [.table, .lots, .engine] := by
      unfold State.raiseInterrupted
      split
      · exact habort
      · exact habort.join (touched_raiseHold w _ _ _ _ _) (by decide) (by simp)
    exact hraise.join (happened_onEngine _ _).touched (by decide) (by simp)
  · exact ((stopMotion_spec s).1.mono (by simp)).touched
  · exact Touched.refl s _

/-! ### The ways of the transfers at an entry into HALT (R11) -/

/-- The outputs `o` with the gate or diverter of every transfer of `l` closed. -/
def closedWays (l : List Transfer) (o : Outputs) : Outputs :=
  { o with
    infeedGate := o.infeedGate && !l.any (fun y => y.source == .queue),
    cellGate := o.cellGate && !l.any (fun y => y.source == .cell),
    accumulatorGate := o.accumulatorGate && !l.any (fun y => y.source == .accumulator),
    preDiverter := if l.any (fun y => y.source == .preStation) then .rest else o.preDiverter,
    exitDiverter := if l.any (fun y => y.source == .postStation) then .rest else o.exitDiverter }

theorem foldl_closeWay (l : List Transfer) (o : Outputs) : l.foldl (fun o e => closeWay e.source o) o = closedWays l o := by
  induction l generalizing o with
  | nil => simp [closedWays]
  | cons y l ih =>
    rw [List.foldl_cons, ih]
    cases hy : y.source <;> simp [closedWays, closeWay, hy, beq_eq_decide]

/-! ### The entry into HALT as one stretch (R10, R11) -/

/-- HALT entered in the traveler table, before the other blocks apply it. -/
def State.entered (s : State) (c : HaltCause) (x : Option HaltDetail) : State :=
  (s.setMode .halt (some c) x).post (.halted c x)

theorem happened_entered (s : State) (c : HaltCause) (x : Option HaltDetail) :
    Happened s (s.entered c x) [.modeChanged s.mode .halt, .halted c x] [.table] :=
  (happened_setMode s .halt (some c) x).join (happened_post _ _) (by decide) (by simp)

theorem enterHalt_eq (c : HaltCause) (x : Option HaltDetail) (hm : s.mode ≠ .halt) :
    s.enterHalt c x = (s.entered c x).haltEngine.driveOutput.haltTransfers := if_neg hm

theorem happened_haltTransfers (s : State) : Happened s s.haltTransfers [] [.table, .clock] :=
  (happened_onOutputs s _).then rfl (happened_onTable _ _) (by simp)

theorem happened_enterHalt {c' : List Part} (hm : s.mode ≠ .halt) (h : Happened (s.entered c x) (s.entered c x).haltEngine ks c')
    (hc : ∀ p ∈ c', p ∈ [Part.table, .lots, .engine]) :
    Happened s (s.enterHalt c x) ([.modeChanged s.mode .halt, .halted c x] ++ ks) [.table, .lots, .engine, .cure, .clock] := by
  let v := (s.entered c x).haltEngine
  have hengine : Happened s v ([.modeChanged s.mode .halt, .halted c x] ++ ks) [.table, .lots, .engine] :=
    ((happened_entered s c x).mono (by simp)).join h (by decide) hc
  have hcure : Happened s v.driveOutput ([.modeChanged s.mode .halt, .halted c x] ++ ks) [.table, .lots, .engine, .cure] :=
    (hengine.mono (by simp)).quiet (happened_driveOutput v) (by decide) (by simp)
  have hways := hcure.then (hcure.now_eq (by decide)) (happened_haltTransfers v.driveOutput)
    (e := [.table, .lots, .engine, .cure, .clock]) (by simp)
  rw [List.append_nil] at hways
  rw [enterHalt_eq c x hm]
  exact hways

theorem touched_enterHalt (c : HaltCause) (x : Option HaltDetail) (hm : s.mode ≠ .halt) :
    Touched s (s.enterHalt c x) [.table, .lots, .engine, .cure, .clock] := by
  obtain ⟨ks, h⟩ := touched_haltEngine (s.entered c x)
  exact (happened_enterHalt hm h fun _ hp => hp).touched

theorem enterHalt_outputs (c : HaltCause) (x : Option HaltDetail) (hm : s.mode ≠ .halt) :
    (s.enterHalt c x).io = { s.io with outputs :=
      { closedWays s.table.transfers s.io.outputs with
        green := (s.enterHalt c x).io.outputs.green, amber := (s.enterHalt c x).io.outputs.amber,
        red := (s.enterHalt c x).io.outputs.red } } := by
  let v := (s.entered c x).haltEngine
  obtain ⟨ks, h⟩ := touched_haltEngine (s.entered c x)
  have hio : v.io = _ := h.kept .clock (by decide)
  have htable : v.table.transfers = s.table.transfers := by
    have := recordsOnly_haltEngine (s.entered c x)
    exact (congrArg TravelerTable.transfers this :)
  have hout : (s.enterHalt c x).io = { v.io with outputs := closedWays v.table.transfers v.io.outputs } := by
    rw [enterHalt_eq c x hm, ← foldl_closeWay]
    rfl
  rw [hout, htable, hio]
  rfl

theorem enterHalt_cure (c : HaltCause) (x : Option HaltDetail) (hm : s.mode ≠ .halt) :
    (s.enterHalt c x).cure = { s.cure with output := 0 } := by
  let v := (s.entered c x).haltEngine
  obtain ⟨ks, h⟩ := touched_haltEngine (s.entered c x)
  have hcure : v.cure = s.cure := h.kept .cure (by decide)
  have hmode : v.mode = .halt := (calm_haltEngine (s.entered c x)).mode
  have hdriven : (s.enterHalt c x).cure = v.driveOutput.cure := by
    rw [enterHalt_eq c x hm]
    rfl
  rw [hdriven, State.driveOutput, onCure_cure, if_pos (.inl hmode), hcure]

end Sys2Proof.Machine
end

section
/-! PROOF of the family 'other': the four entries into HALT (R7, R10, R11, R18, R91; O16). -/

namespace Sys2Proof.Machine

variable {s v u : State} {t n : Nat} {r : Traveler} {c : HaltCause} {x : Option HaltDetail} {ks early : List NoticeKind}
  {m : Lot} {a : OpenValve} {q : Req} {d : Seconds} {o : Outstanding} {e : StrokeEngine} {i : Instr}

/-! ### What each entry enters HALT from -/

/-- HALT is entered from `v`, which differs from `s` by the notices `early` and at most in the lots, the engine and the
handed assertion; the step leaves `u`, which differs from the entry's own end in the lamps alone. -/
structure EntersHalt (s v u : State) (c : HaltCause) (x : Option HaltDetail) (early : List NoticeKind) : Prop where
  before : KeptBut s v [.lots, .engine, .clock]
  io     : v.io = { s.io with estopHanded := v.io.estopHanded }
  after  : KeptBut (v.enterHalt c x) u []
  posts  : ∀ ks d, Happened v (v.enterHalt c x) ks d → Posted s u (early ++ ks) ∧ SettingsKept s u

theorem entersHalt_event (h : Happened s v early [.lots, .engine, .clock])
    (hio : v.io = { s.io with estopHanded := v.io.estopHanded }) : EntersHalt s v (v.enterHalt c x).relight c x early where
  before := h.2.2.2
  io := hio
  after := (happened_relight _).2.2.2
  posts := fun ks d h' => by
    have hnow : v.now = s.now := (congrArg LineIo.seconds hio :)
    obtain ⟨hposted, hsettings, -⟩ := event_happened (h.then hnow h' fun _ hp => hp)
    exact ⟨hposted, hsettings⟩

theorem warnLow_io (s : State) (n : Nat) : (s.warnLow n).io = s.io := by
  unfold State.warnLow
  split
  · rfl
  · split <;> rfl

theorem closeValve_io (s : State) : s.closeValve.io = s.io := by
  unfold State.closeValve
  split
  · rfl
  · unfold State.draw
    split
    · rfl
    · exact warnLow_io _ _

/-- The state of GANTRY_PORT_TIMEOUT before its entry into HALT: the valve shut, the port LOST (R91). -/
def State.portLost (s : State) : State := s.closeValve.onEngine fun e => { e with port := .lost, reference := none }

theorem happened_portLost (h : Happened s s.closeValve early [.lots, .engine]) :
    Happened s s.portLost early [.lots, .engine] :=
  h.quiet (happened_onEngine _ _) (by decide) (by simp)

theorem portLost_io (s : State) : s.portLost.io = { s.io with estopHanded := s.portLost.io.estopHanded } := by
  have h : s.portLost.io = s.io := closeValve_io s
  rw [h]

theorem entersHalt_gantry (h : Happened s s.closeValve early [.lots, .engine]) :
    EntersHalt s s.portLost (s.portLost.enterHalt c x).relight c x early :=
  entersHalt_event ((happened_portLost h).mono (by simp)) (portLost_io s)

theorem portLost_engine (s : State) : s.portLost.engine =
    { s.engine with
      port := .lost, reference := none, valve := none,
      lastClose := if s.engine.valve.isSome then some s.now else s.engine.lastClose } :=
  (congrArg (fun e : StrokeEngine => { e with port := .lost, reference := none }) (closeValve_engine s) :)

theorem exec_gantryPortTimeout (h : s.engine.port = .waiting o) :
    exec .gantryPortTimeout s = event (s.portLost.enterHalt .gantry none) := by
  have hexec : exec .gantryPortTimeout s = event (match s.engine.port with
    | .waiting _ => s.portLost.enterHalt .gantry none
    | .quiet | .lost => s) := rfl
  rw [hexec, h]

theorem exec_estopTaken (h : s.io.estopHanded = true) :
    exec .estopTaken s = event ((s.onIo fun io => { io with estopHanded := false }).enterHalt .estop none) :=
  congrArg event (if_pos h)

theorem exec_transferTimerExpiry {y : Transfer} (h : s.transferOf t = some y) (hd : y.deadline = some d)
    (hr : reached s.io.seconds d = true) :
    exec (.transferTimerExpiry t) s = event (s.enterHalt .jam (some (.board (s.tagOf t) t))) := by
  have hexpired : s.transferExpired t = true := by
    rw [State.transferExpired, h]
    dsimp only
    rw [hd]
    exact hr
  exact congrArg event (if_pos hexpired)

theorem entersHalt_request (hq : s.Takes q 2) (hm : s.mode ≠ .halt) : ∃ u, exec (.halt q) s = .next u ∧
    Answered s u q 4 .ok [] ∧ EntersHalt s (s.inServiceOf q) u .request (some (.link q.link)) [] := by
  let w := (s.inServiceOf q).enterHalt .request (some (.link q.link))
  have hdone (ks : List NoticeKind) (d : List Part) (h : Happened (s.inServiceOf q) w ks d) :=
    request_done (s := s) (w := .ok) (fields := []) 4
      (owner := fun _ s => accept (s.enterHalt .request (some (.link q.link)))) hq rfl h
  obtain ⟨ks, h⟩ := touched_enterHalt (s := s.inServiceOf q) .request (some (.link q.link)) hm
  obtain ⟨hexec, hanswered, -⟩ := hdone ks _ h
  refine ⟨_, hexec, hanswered, fun p _ => ?_, rfl, fun p _ => ?_, fun ks d h => ?_⟩
  · cases p <;> rfl
  · cases p <;> rfl
  · obtain ⟨-, -, hposted, hsettings, -⟩ := hdone ks d h
    exact ⟨hposted, hsettings⟩

/-! ### What every entry does (R10, R11) -/

section

variable (h : EntersHalt s v u c x early) (hm : s.mode ≠ .halt)
include h

theorem EntersHalt.table_eq : v.table = s.table := h.before .table (by decide)

theorem EntersHalt.mode_eq : v.mode = s.mode := congrArg TravelerTable.mode h.table_eq

theorem EntersHalt.end_table : u.table = (v.enterHalt c x).table := h.after .table (by decide)

include hm

theorem EntersHalt.stopped :
    u.mode = .halt ∧ u.table.cause = some c ∧ u.table.detail = x ∧
      u.table.transfers = s.table.transfers.map (fun e => { e with deadline := none }) ∧
      u.cure = { s.cure with output := 0 } ∧
      SettingsKept s u ∧ KeptBut s u [.table, .lots, .engine, .cure, .clock] ∧
      u.table.free = s.table.free ∧ u.table.index = s.table.index ∧ u.table.queue = s.table.queue := by
  have hv : v.mode ≠ .halt := h.mode_eq ▸ hm
  obtain ⟨hmode, hcause, hdetail, htransfers, -, hfree, hindex, hqueue, -⟩ := enterHalt_spec v c x hv
  obtain ⟨ks, hdone⟩ := touched_enterHalt c x hv
  have hcure : u.cure = (v.enterHalt c x).cure := h.after .cure (by decide)
  have hcure' : v.cure = s.cure := h.before .cure (by decide)
  refine ⟨?_, ?_, ?_, ?_, ?_, (h.posts ks _ hdone).2, fun p hp => ?_, ?_, ?_, ?_⟩
  · rw [State.mode, h.end_table]
    exact hmode
  · rw [h.end_table, hcause]
  · rw [h.end_table, hdetail]
  · rw [h.end_table, htransfers, h.table_eq]
  · rw [hcure, enterHalt_cure c x hv, hcure']
  · have hbefore : p ∉ [Part.lots, .engine, .clock] := fun hq => hp (by simp only [List.mem_cons] at hq ⊢; tauto)
    exact ((h.before p hbefore).trans (hdone.kept p hp)).trans (h.after p (by simp))
  · rw [h.end_table, hfree, h.table_eq]
  · rw [h.end_table, hindex, h.table_eq]
  · rw [h.end_table, hqueue, h.table_eq]

theorem EntersHalt.outputs : u.io.outputs =
    { closedWays s.table.transfers s.io.outputs with
      green := u.io.outputs.green, amber := u.io.outputs.amber, red := u.io.outputs.red } := by
  have hlast : u.io = _ := h.after .clock (by decide)
  have hv : v.mode ≠ .halt := h.mode_eq ▸ hm
  rw [hlast, enterHalt_outputs c x hv, h.io, h.table_eq]

/-! ### What an entry does to the engine and its board (R95, R96) -/

theorem EntersHalt.posted (hks : Happened (v.entered c x) (v.entered c x).haltEngine ks [.table, .lots, .engine]) :
    Posted s u (early ++ ([.modeChanged s.mode .halt, .halted c x] ++ ks)) := by
  have hv : v.mode ≠ .halt := h.mode_eq ▸ hm
  have hdone := happened_enterHalt hv hks fun _ hp => hp
  rw [h.mode_eq] at hdone
  exact (h.posts _ _ hdone).1

theorem EntersHalt.ended : u.engine = (v.entered c x).haltEngine.engine ∧ u.lots = (v.entered c x).haltEngine.lots ∧
    ∀ n, u.traveler n = (v.entered c x).haltEngine.traveler n := by
  have hv : v.mode ≠ .halt := h.mode_eq ▸ hm
  have hengine : u.engine = (v.enterHalt c x).engine := h.after .engine (by decide)
  have hlots : u.lots = (v.enterHalt c x).lots := h.after .lots (by decide)
  rw [enterHalt_eq c x hv] at hengine hlots
  refine ⟨hengine, hlots, fun n => ?_⟩
  rw [traveler_of_table h.end_table, enterHalt_eq c x hv]
  rfl

end

theorem stopSentEngine_of_timeouts (h : u.io.timeouts = s.io.timeouts) (e : StrokeEngine) :
    stopSentEngine u e = stopSentEngine s e := by rw [stopSentEngine, stopSentEngine, h]

theorem EntersHalt.entered_io (h : EntersHalt s v u c x early) :
    (v.entered c x).io = { s.io with estopHanded := v.io.estopHanded } := h.io

theorem EntersHalt.entered_traveler (h : EntersHalt s v u c x early) (n : Nat) : (v.entered c x).traveler n = s.traveler n :=
  traveler_of_table h.table_eq n

theorem EntersHalt.entered_timeouts (h : EntersHalt s v u c x early) : (v.entered c x).io.timeouts = s.io.timeouts :=
  (congrArg LineIo.timeouts h.io :)

theorem EntersHalt.idle (h : EntersHalt s v u c x early) (hm : s.mode ≠ .halt) (hc : v.engine.cell ≠ .running) :
    Posted s u (early ++ [.modeChanged s.mode .halt, .halted c x]) ∧
      u.engine = (if v.engine.cell = .parking then stopSentEngine s v.engine else v.engine) ∧ u.lots = v.lots ∧
      ∀ n, u.traveler n = s.traveler n := by
  obtain ⟨hdone, hengine⟩ := haltEngine_idle (s := v.entered c x) hc
  obtain ⟨huengine, hulots, hutraveler⟩ := h.ended hm
  have htable : (v.entered c x).haltEngine.table = (v.entered c x).table := hdone.kept .table (by decide)
  have hlots : (v.entered c x).haltEngine.lots = v.lots := hdone.kept .lots (by decide)
  refine ⟨h.posted hm (hdone.mono (by simp)), ?_, hulots.trans hlots, fun n => ?_⟩
  · rw [huengine, hengine, stopSentEngine_of_timeouts h.entered_timeouts]
    rfl
  · rw [hutraveler, traveler_of_table htable, h.entered_traveler]

theorem EntersHalt.runs (h : EntersHalt s v u c x early) (hm : s.mode ≠ .halt) (hc : v.engine.cell = .running)
    (hboard : v.engine.board = some t) (hr : s.traveler t = some r) (hl : s.leaving t = false) (ho : HoldsInOrder r.holds) :
    (∀ n, n ≠ t → u.traveler n = s.traveler n) ∧
      u.traveler t = some { r.aborted s.io.seconds with holds := holdsAfterRaise r.holds (interruptedHold s r) } ∧
      u.lots = (v.entered c x).closeValve.lots ∧
      u.engine = { stopSentEngine s (v.entered c x).closeValve.engine with cell := .aborted, work := none } ∧
      ∀ ks, Happened (v.entered c x) (v.entered c x).closeValve ks [.lots, .engine] →
        Posted s u (early ++ ([.modeChanged s.mode .halt, .halted c x] ++
          (ks ++ raiseNotices r.tag t r.holds [interruptedHold s r]))) := by
  let y := v.entered c x
  have htraveler (n : Nat) : y.closeValve.traveler n = s.traveler n :=
    (traveler_of_table (closeValve_table y) n).trans (h.entered_traveler n)
  have hleaves : y.closeValve.leaving t = false := by
    rw [leaving_of_transfers (s := s), hl]
    rw [closeValve_table]
    exact (congrArg TravelerTable.transfers h.table_eq :)
  have hio : y.closeValve.io = { s.io with estopHanded := v.io.estopHanded } := (closeValve_io y).trans h.io
  have hnow : y.closeValve.now = s.io.seconds := (congrArg LineIo.seconds hio :)
  have hholds : y.closeValve.holds = s.holds := by
    obtain ⟨ks, hshut⟩ := touched_closeValve y
    have hshut' : y.closeValve.holds = v.holds := hshut.kept .holds (by decide)
    exact hshut'.trans (h.before .holds (by decide))
  have hhold : interruptedHold y.closeValve r = interruptedHold s r := by
    unfold interruptedHold
    rw [newHold_of_holds hholds, hio]
  have hstep := haltEngine_running (s := y) hc hboard ((htraveler t).trans hr) hleaves ho
  rw [hhold, hnow, stopSentEngine_of_timeouts (congrArg LineIo.timeouts hio :)] at hstep
  obtain ⟨huengine, hulots, hutraveler⟩ := h.ended hm
  refine ⟨fun n hn => ?_, (hutraveler t).trans hstep.record.1, hulots.trans (hstep.kept (p := .lots) (by decide)),
    huengine.trans hstep.engine, fun ks hks => h.posted hm ?_⟩
  · rw [hutraveler, hstep.record.2.1 n hn, htraveler]
  · exact (hks.mono (by simp)).join hstep.happened (by decide) (by simp)

/-! ### The four entries together -/

/-- By the instruction `i` HALT is entered from `v` and the step leaves `u`; `e` is the engine before its own part of the
entry, but for a valve that a port timeout has shut. -/
inductive HaltEntry (s v u : State) (i : Instr) (c : HaltCause) (x : Option HaltDetail) (e : StrokeEngine) : Prop
  | plain (hi : i ≠ .gantryPortTimeout) (he : e = s.engine) (hv : v.engine = s.engine) (hlots : v.lots = s.lots)
      (h : EntersHalt s v u c x [])
  | gantry (hi : i = .gantryPortTimeout) (he : e = { s.engine with port := .lost, reference := none })
      (hv : v = s.portLost) (h : ∀ early, Happened s s.closeValve early [.lots, .engine] → EntersHalt s v u c x early)

section

variable (h : HaltEntry s v u i c x e)
include h

theorem HaltEntry.enters : ∃ early, EntersHalt s v u c x early := by
  cases h with
  | plain _ _ _ _ h => exact ⟨[], h⟩
  | gantry _ _ _ h =>
    obtain ⟨early, hshut⟩ := touched_closeValve s
    exact ⟨early, h early hshut⟩

theorem HaltEntry.cell_eq : v.engine.cell = s.engine.cell := by
  cases h with
  | plain _ _ hv _ _ => rw [hv]
  | gantry _ _ hv _ => rw [hv, portLost_engine]

theorem HaltEntry.board_eq : v.engine.board = s.engine.board := by
  cases h with
  | plain _ _ hv _ _ => rw [hv]
  | gantry _ _ hv _ => rw [hv, portLost_engine]

/-- With the valve shut a port timeout draws nothing before it. -/
theorem HaltEntry.shut (hvalve : s.engine.valve = none) : EntersHalt s v u c x [] ∧ v.engine = e ∧ v.lots = s.lots := by
  cases h with
  | plain _ he hv hlots h => exact ⟨h, hv.trans he.symm, hlots⟩
  | gantry _ he hv h =>
    have hshut : s.closeValve = s := closeValve_none hvalve
    have hlost : v = s.onEngine fun e => { e with port := .lost, reference := none } := by rw [hv, State.portLost, hshut]
    refine ⟨h [] ?_, ?_, ?_⟩
    · rw [hshut]
      exact (Happened.refl s).mono (by simp)
    · rw [hlost, he]
      rfl
    · rw [hlost]
      rfl

theorem HaltEntry.draws (hm : s.mode ≠ .halt) (hc : s.engine.cell = .running)
    (hboard : s.engine.board = some t) (hr : s.traveler t = some r) (hl : s.leaving t = false) (ho : HoldsInOrder r.holds)
    (hvalve : s.engine.valve = some a) (hn : nth s.lots.map a.head = some (some n))
    (hlot : nth s.lots.records n = some (some m)) :
    Posted s u (if i = .gantryPortTimeout
      then drawNotices m n (a.flow * a.openMs) ++ [.modeChanged s.mode .halt, .halted c x] ++
        raiseNotices r.tag t r.holds [interruptedHold s r]
      else [.modeChanged s.mode .halt, .halted c x] ++ drawNotices m n (a.flow * a.openMs) ++
        raiseNotices r.tag t r.holds [interruptedHold s r]) ∧
      LotBecomes s u n (m.drawn (a.flow * a.openMs)) s.lots ∧
      u.engine = { stopSentEngine s e with
        cell := .aborted, work := none, valve := none, lastClose := some s.io.seconds } := by
  have hcell := h.cell_eq.trans hc
  have hboard' := h.board_eq.trans hboard
  cases h with
  | plain hi he hv hlots h =>
    obtain ⟨-, -, hulots, huengine, hposted⟩ := h.runs hm hcell hboard' hr hl ho
    have hvalve' : (v.entered c x).engine.valve = some a := (congrArg StrokeEngine.valve hv).trans hvalve
    have hlots' : (v.entered c x).lots = s.lots := hlots
    obtain ⟨hdraw, hdrawn, hengine⟩ := closeValve_draws (s := v.entered c x) (n := n) (m := m) hvalve'
      (by rw [hlots', hn]) (by rw [hlots', hlot])
    have hnow : (v.entered c x).now = s.io.seconds := (congrArg LineIo.seconds h.io :)
    have hengine' : (v.entered c x).closeValve.engine = { e with valve := none, lastClose := some s.io.seconds } := by
      rw [hengine, hnow, he, ← hv]
      rfl
    refine ⟨?_, ?_, ?_⟩
    · rw [if_neg hi, List.append_assoc]
      exact hposted _ hdraw
    · unfold LotBecomes at hdrawn ⊢
      rw [hulots, ← hlots']
      exact hdrawn
    · rw [huengine, hengine', stopSentEngine_shut]
  | gantry hi he hv h =>
    obtain ⟨hdraw, hdrawn, hengine⟩ := closeValve_draws hvalve hn hlot
    obtain ⟨-, -, hulots, huengine, hposted⟩ := (h _ hdraw).runs hm hcell hboard' hr hl ho
    have hlost : v.engine = { e with valve := none, lastClose := some s.io.seconds } := by
      rw [hv, portLost_engine, he, hvalve]
      rfl
    have hshut : (v.entered c x).closeValve = v.entered c x := closeValve_none (congrArg StrokeEngine.valve hlost)
    have hlots' : (v.entered c x).lots = s.closeValve.lots := by rw [hv]; rfl
    rw [hshut] at hulots huengine hposted
    refine ⟨?_, ?_, ?_⟩
    · rw [if_pos hi, List.append_assoc]
      exact hposted [] ((Happened.refl _).mono (by simp))
    · unfold LotBecomes at hdrawn ⊢
      rw [hulots, hlots']
      exact hdrawn
    · have hengine' : (v.entered c x).engine = { e with valve := none, lastClose := some s.io.seconds } := hlost
      rw [huengine, hengine', stopSentEngine_shut]

end

/-- What an entry into HALT keeps of a line that is in HALT (R10). -/
theorem keptInHalt (hm : s.mode = .halt) (h : Happened s v early [.lots, .engine, .clock])
    (hquiet : s.engine.valve = none → Happened s v [] [.engine, .clock]) :
    (v.enterHalt c x).relight.mode = .halt ∧ (v.enterHalt c x).relight.table.cause = s.table.cause ∧
      (v.enterHalt c x).relight.table.detail = s.table.detail ∧
      (v.enterHalt c x).relight.table.transfers = s.table.transfers ∧
      KeptBut s (v.enterHalt c x).relight [.lots, .engine, .clock] ∧
      (s.engine.valve = none → Happened s (v.enterHalt c x).relight [] [.engine, .clock]) := by
  have htable : v.table = s.table := h.kept .table (by decide)
  have hmode : v.mode = .halt := (congrArg TravelerTable.mode htable :).trans hm
  have hrelit : v.relight.table = s.table := htable
  rw [enterHalt_same v c x hmode]
  refine ⟨hmode, ?_, ?_, ?_, (event_happened h).2.2.2, fun hv => event_happened (hquiet hv)⟩
  · rw [hrelit]
  · rw [hrelit]
  · rw [hrelit]

theorem happened_estopTaken (s : State) :
    Happened s (s.onIo fun io => { io with estopHanded := false }) [] [.lots, .engine, .clock] :=
  (happened_onIo s _).mono (by simp)

theorem haltEntry_request (hq : s.Takes q 2) (hm : s.mode ≠ .halt) : ∃ v u, exec (.halt q) s = .next u ∧
    HaltEntry s v u (.halt q) .request (some (.link q.link)) s.engine := by
  obtain ⟨u, hexec, -, h⟩ := entersHalt_request hq hm
  exact ⟨s.inServiceOf q, u, hexec, .plain nofun rfl rfl rfl h⟩

theorem haltEntry_timer {y : Transfer} (ht : s.transferOf t = some y) (hd : y.deadline = some d)
    (hr : reached s.io.seconds d = true) : ∃ v u, exec (.transferTimerExpiry t) s = .next u ∧
    HaltEntry s v u (.transferTimerExpiry t) .jam (some (.board (s.tagOf t) t)) s.engine :=
  ⟨s, _, exec_transferTimerExpiry ht hd hr,
    .plain nofun rfl rfl rfl (entersHalt_event ((Happened.refl s).mono (by simp)) rfl)⟩

theorem haltEntry_estop (h : s.io.estopHanded = true) : ∃ v u, exec .estopTaken s = .next u ∧
    HaltEntry s v u .estopTaken .estop none s.engine :=
  ⟨s.onIo fun io => { io with estopHanded := false }, _, exec_estopTaken h,
    .plain nofun rfl rfl rfl (entersHalt_event (happened_estopTaken s) rfl)⟩

theorem haltEntry_gantry (h : s.engine.port = .waiting o) : ∃ v u, exec .gantryPortTimeout s = .next u ∧
    HaltEntry s v u .gantryPortTimeout .gantry none { s.engine with port := .lost, reference := none } :=
  ⟨s.portLost, _, exec_gantryPortTimeout h, .gantry rfl rfl rfl fun _ h => entersHalt_gantry h⟩

/-- Settles O16: each entry as a `HaltEntry`, then what an entry does to the line and to the engine. -/
theorem haltEntriesStopLine : Obligations.HaltEntriesStopLine := by
  refine ⟨fun s q t y d => ⟨fun hq => ?halt, fun ht hd hr => ?timer, fun hestop => ?estop, fun o hport => ?gantry⟩,
    fun s i c x e hm hentry => ?entered⟩
  case halt =>
    by_cases hm : s.mode = .halt
    · have hsame : (s.inServiceOf q).enterHalt .request (some (.link q.link)) = s.inServiceOf q := enterHalt_same _ _ _ hm
      obtain ⟨hexec, hdone⟩ := request_done (s := s) (w := .ok) (fields := []) 4
        (owner := fun _ s => accept (s.enterHalt .request (some (.link q.link)))) hq
        (congrArg (fun v => accept v) hsame) (Happened.refl _)
      exact ⟨_, hexec, hdone.1, fun h => absurd hm h, fun _ => hdone⟩
    · obtain ⟨u, hexec, hanswered, h⟩ := entersHalt_request hq hm
      exact ⟨u, hexec, hanswered, fun _ => h.stopped hm, fun h => absurd h hm⟩
  case timer =>
    refine ⟨_, exec_transferTimerExpiry ht hd hr, fun hm => ?_, fun hm => ?_⟩
    · exact (entersHalt_event ((Happened.refl s).mono (by simp)) rfl).stopped hm
    · exact keptInHalt hm ((Happened.refl s).mono (by simp)) fun _ => (Happened.refl s).mono (by simp)
  case estop =>
    refine ⟨_, exec_estopTaken hestop, enterHalt_estopHanded _ _ _, fun hm => ?_, fun hm => ?_⟩
    · exact (entersHalt_event (happened_estopTaken s) rfl).stopped hm
    · exact keptInHalt hm (happened_estopTaken s) fun _ => (happened_onIo s _).mono (by simp)
  case gantry =>
    obtain ⟨early, hshut⟩ := touched_closeValve s
    have hlost : s.portLost.engine.port = .lost ∧ s.portLost.engine.reference = none ∧ s.portLost.engine.valve = none := by
      rw [portLost_engine]
      exact ⟨rfl, rfl, rfl⟩
    obtain ⟨hp, href, hv⟩ := hlost
    have hend : (s.portLost.enterHalt .gantry none).engine.port = .lost ∧
        (s.portLost.enterHalt .gantry none).engine.reference = none ∧
        (s.portLost.enterHalt .gantry none).engine.valve = none := by
      by_cases hm : s.portLost.mode = .halt
      · rw [enterHalt_same _ _ _ hm]
        exact ⟨hp, href, hv⟩
      · rw [enterHalt_eq _ _ hm]
        exact haltEngine_lost (s.portLost.entered .gantry none) hp href hv
    obtain ⟨hp', href', hv'⟩ := hend
    refine ⟨_, exec_gantryPortTimeout hport, hp', href', hv', fun hm => ?_, fun hm => ?_⟩
    · exact (entersHalt_gantry hshut).stopped hm
    · refine keptInHalt hm ((happened_portLost hshut).mono (by simp)) fun hvalve => ?_
      have hquiet : s.portLost = s.onEngine fun e => { e with port := .lost, reference := none } := by
        rw [State.portLost, closeValve_none hvalve]
      rw [hquiet]
      exact (happened_onEngine s _).mono (by simp)
  case entered =>
    have hcases : ∃ v u, exec i s = .next u ∧ HaltEntry s v u i c x e := by
      rcases hentry with ⟨q, rfl, hq, rfl, rfl, rfl⟩ | ⟨t, y, d, rfl, ht, hd, hr, rfl, rfl, rfl⟩ | ⟨rfl, hestop, rfl, rfl, rfl⟩ |
        ⟨rfl, ⟨o, hport⟩, rfl, rfl, rfl⟩
      · exact haltEntry_request hq hm
      · exact haltEntry_timer ht hd hr
      · exact haltEntry_estop hestop
      · exact haltEntry_gantry hport
    obtain ⟨v, u, hexec, h⟩ := hcases
    obtain ⟨early, hsome⟩ := h.enters
    refine ⟨u, hexec, hsome.outputs hm, fun hvalve hc => ?idle, fun t r hc hboard hr hl ho => ?running⟩
    case idle =>
      obtain ⟨hshut, hengine, hlots⟩ := h.shut hvalve
      obtain ⟨hposted, huengine, hulots, htravelers⟩ := hshut.idle hm (by rw [h.cell_eq]; exact hc)
      rw [h.cell_eq, hengine] at huengine
      exact ⟨hposted, huengine, hulots.trans hlots, htravelers⟩
    case running =>
      obtain ⟨hothers, hrecord, -⟩ := hsome.runs hm (h.cell_eq.trans hc) (h.board_eq.trans hboard) hr hl ho
      refine ⟨hothers, hrecord, fun hvalve => ?_, fun a n m hvalve hn hlot => h.draws hm hc hboard hr hl ho hvalve hn hlot⟩
      obtain ⟨hshut, hengine, hlots⟩ := h.shut hvalve
      obtain ⟨-, -, hulots, huengine, hposted⟩ := hshut.runs hm (h.cell_eq.trans hc) (h.board_eq.trans hboard) hr hl ho
      have hvalve' : (v.entered c x).engine.valve = none := by
        have hv : v.engine.valve = none := by
          cases h with
          | plain _ _ hv _ _ => rw [hv, hvalve]
          | gantry _ _ hv _ => rw [hv, portLost_engine]
        exact hv
      have hkept : (v.entered c x).closeValve = v.entered c x := closeValve_none hvalve'
      rw [hkept] at hulots huengine hposted
      have hengine' : (v.entered c x).engine = e := hengine
      rw [hengine'] at huengine
      exact ⟨hposted [] ((Happened.refl _).mono (by simp)), hulots.trans hlots, huengine⟩

end Sys2Proof.Machine
end

section
/-! PROOF of the family 'other': a Recover with no transfer in flight may change the overdue marks (R19, R142; O17). -/

namespace Sys2Proof.Machine

/-! ### A line in HALT whose board leaves it at the Recover -/

/-- A board that stands at the post-inspection station without a hold. -/
def strayBoard : Traveler :=
  { tag := [0x42#8], recipe := 1, route := .full, stage := .postInspect, place := .present, inducted := 0#32, claim := none,
    fiducial := none, sites := [], program := .done, strokeCursor := 1, passCursor := 0,
    coat := { run := 1, skipped := 0, faults := 0, first := none }, lotsUsed := [none, none], sprayEnd := none,
    forced := false, lead := none, passDose := 0, lifeDose := 0, coverage := [], holds := [], shelfSlot := none }

def strayLimits : GantryLimits :=
  { xMin := 0, xMax := 5000, yMin := 0, yMax := 5000, zMin := 0, zMax := 1000, origin := ⟨10, 20, 30⟩,
    park := ⟨0, 0, 500⟩, parkSpeed := 500 }

/-- A line in HALT with no transfer in flight, its one board at the post-inspection station with its inspection over and
its overdue mark set, while the outfeed sensor already reads occupied. -/
def strayMark : State :=
  let s := State.afterReset { levelA := 0, levelB := 0, levelC := 0, heads := 2, zones := 3 } Inputs.quiet []
  { s with
    table := { s.table with
      records := putNth s.table.records 1 (some strayBoard), free := s.table.free.drop 1, index := [(strayBoard.tag, 1)],
      mode := .halt, cause := some .request, detail := some (.link .a) }
    mask := { pre := none, post := some { traveler := 1, phase := .ended .completed, opened := 0#32, deadline := none } }
    engine := { s.engine with limits := some strayLimits }
    cure := { s.cure with overdue := [1] }
    io := { s.io with sensors := s.io.sensors.set (Sensor.index .outfeedExit) { reading := true, run := 0 } } }

def strayRecover : Req := { link := .a, level := 0, corr := 7#8, overlaps := false }

theorem strayMark_recovers : strayMark.Takes strayRecover 1 ∧ strayMark.mode = .halt ∧ strayMark.io.estop = false ∧
    strayMark.table.transfers = [] ∧ strayMark.engine.limits = some strayLimits ∧ strayMark.cure.oven = [] := by
  decide

/-- The exit diverter sends the board on in IDLE, its transfer ends at once, and its retirement drops the mark. -/
theorem strayMark_dropped :
    (match exec (.recover strayRecover) strayMark with
     | .next u => u.cure.overdue
     | _ => strayMark.cure.overdue) = [] := by
  decide

/-- Refutes O17: with no transfer in flight the cure monitor is said to stand but for the belt's output and the stall,
whatever the exit diverter does. In `strayMark` the board it sends on finds the outfeed sensor occupied, so that its
transfer ends at once, and its retirement drops its overdue mark. (The premise that the way of a board sent on is clear
stands on the later clauses alone.) -/
theorem not_recoverLeavesHalt : ¬ Obligations.RecoverLeavesHalt := by
  intro h
  obtain ⟨htakes, hmode, hestop, htransfers, hlimits, hoven⟩ := strayMark_recovers
  obtain ⟨hfirst, -⟩ := h
  obtain ⟨hrecovers, -⟩ := hfirst strayMark strayRecover htakes
  obtain ⟨u, hexec, -, -, -, -, hclear⟩ := hrecovers hmode hestop
  obtain ⟨hruns, -⟩ := hclear strayLimits htransfers hlimits
  obtain ⟨hcure, -⟩ := hruns fun x y ⟨_, _, hhead, _⟩ => by
    rw [hoven] at hhead
    cases hhead
  have hkept : u.cure.overdue = [1] := congrArg CureMonitor.overdue hcure
  have hdropped := strayMark_dropped
  rw [hexec] at hdropped
  exact absurd (hkept.symm.trans hdropped) (by decide)

end Sys2Proof.Machine
end
